-- ==== Sys2Proof/Word.lean ====
section
/-! DEFINITION. The word types of Elyth (R2, R3) and the plainest helpers over them: fields, sign extension,
little-endian bytes, and the sparse table (a list of key and value pairs) in which the state holds what there is
much of and little of which differs from its reset value. -/
namespace Sys2Proof

/-- A 64-bit register value or instruction word. -/
abbrev Word := BitVec 64

/-- One byte. -/
abbrev Byte := BitVec 8

/-- A sparse table: the entry of a key is the first pair that bears it; an unlisted key reads the default the
reader names. -/
abbrev Tab (α β : Type) := List (α × β)

/-- The entry of `k`, or `d` when `k` is not listed. -/
def Tab.get {α β : Type} [DecidableEq α] (d : β) : Tab α β → α → β
  | [], _ => d
  | (k, v) :: t, a => if a = k then v else Tab.get d t a

/-- The listed entry of `k`, if there is one. -/
def Tab.find {α β : Type} [DecidableEq α] : Tab α β → α → Option β
  | [], _ => none
  | (k, v) :: t, a => if a = k then some v else Tab.find t a

/-- The table without the pairs of `k`. -/
def Tab.drop {α β : Type} [DecidableEq α] : Tab α β → α → Tab α β
  | [], _ => []
  | (k, v) :: t, a => if a = k then Tab.drop t a else (k, v) :: Tab.drop t a

/-- The table with `k` bound to `v`. -/
def Tab.put {α β : Type} [DecidableEq α] (t : Tab α β) (k : α) (v : β) : Tab α β :=
  (k, v) :: Tab.drop t k

/-- Replace the head-most pair of `k` in place, or add it at the end: the order of the keys is kept. -/
def Tab.upd {α β : Type} [DecidableEq α] : Tab α β → α → β → Tab α β
  | [], a, b => [(a, b)]
  | (k, v) :: t, a, b => if a = k then (k, b) :: t else (k, v) :: Tab.upd t a b

/-- Bits `hi:lo` of a word as a number (R2). -/
def bitsOf {w : Nat} (x : BitVec w) (hi lo : Nat) : Nat := (x.toNat >>> lo) % 2 ^ (hi + 1 - lo)

/-- Sign-extend the low `n` bits of a number into a 64-bit word. -/
def sextN (x n : Nat) : Word := (BitVec.ofNat n x).signExtend 64

/-- The `n` bytes of a number, lowest first (R2). -/
def toBytes : Nat → Nat → List Byte
  | 0, _ => []
  | n + 1, v => BitVec.ofNat 8 v :: toBytes n (v / 256)

/-- The number a little-endian byte list holds (R2). -/
def ofBytes : List Byte → Nat
  | [] => 0
  | b :: t => b.toNat + 256 * ofBytes t

/-- A 1-bit truth value as a number. -/
def boolN (b : Bool) : Nat := if b then 1 else 0

/-- `f 0, f 1, …, f (n-1)`. -/
def tabulate {α : Type} (n : Nat) (f : Nat → α) : List α := (List.range n).map f

end Sys2Proof
end

