-- ==== Sys2Proof/Config.lean ====
section
/-! DEFINITION. What an implementation or an installation fixes, and the free values: opaque constants, of which no
proof can see anything but the type. Each is named in the assumption log. -/
namespace Sys2Proof.Config

/-- Core-clock cycles that pass at a site at model tick `n` (log 6): the spec's cycle counts are bounds and costs, and the
clock of a site may slow (R382). -/
opaque coreCycles (site n : Nat) : Nat

/-- Framer-clock cycles that pass at a site at model tick `n` (log 6). -/
opaque framerCycles (site n : Nat) : Nat

/-- Nanoseconds of wafer time that pass at model tick `n` (log 6). -/
opaque nanos (n : Nat) : Nat

/-- What manufacturing sets the serial from. -/
opaque serialBits : BitVec 128

/-- The device serial of R378: a nonzero 128-bit value, opaque to software. -/
def serial : BitVec 128 := if serialBits = 0 then 1 else serialBits

/-- What manufacturing sets the signed-image header of a site's identity record from (R376, R378). -/
opaque idRaw (site k : Nat) : Nat

/-- Byte `k` of the signed-image header in the identity page of a site (R378), laid out as R376 has it: MAGIC, KIND 2, VERS,
LEN, HASH, SIGLEN and SIG in their ranges, zero elsewhere. -/
def idHeader (site k : Nat) : BitVec 8 :=
  let byte (v j : Nat) : BitVec 8 := BitVec.ofNat 8 (v / 2 ^ (8 * j))
  let siglen := idRaw site 80 % 1280 + 1
  if k < 4 then byte 0x4B56494D k
  else if k = 4 then 2
  else if k < 8 then 0
  else if k < 12 then byte (idRaw site 8) (k - 8)
  else if k < 16 then byte (idRaw site 12 % 2 ^ 24 + 1) (k - 12)
  else if k < 80 then byte (idRaw site k) 0
  else if k < 82 then byte siglen (k - 80)
  else if k < 128 then 0
  else if k - 128 < siglen then byte (idRaw site k) 0 else 0

/-- The OTP minimum version of an image kind at a site (R376). -/
opaque otpMin (site kind : Nat) : BitVec 32

/-- The DETUNE that the hardware measures at a ring at draw `n` (R384). -/
opaque detune (site ring n : Nat) : BitVec 16

/-- The choices of the fuse map of a site, one for each logical core. -/
opaque fuse (site n : Nat) : Nat

/-- Take an element out of a list for each of `n` choices: the elements in the order taken. -/
def takeChoices (f : Nat → Nat) : Nat → Nat → List Nat → List Nat
  | 0, _, _ => []
  | n + 1, k, l =>
    let x := (l[f k % max 1 l.length]?).getD 0
    x :: takeChoices f n (k + 1) (l.erase x)

/-- The built index of logical core `n` of a site (R8): 96 different cores of the 104 built. -/
def builtIndex (site n : Nat) : BitVec 7 :=
  BitVec.ofNat 7 (((takeChoices (fuse site) 96 0 (List.range 104))[n]?).getD 0)

/-- OTP's choice whether the alarm erases keys (R380). -/
opaque otpErase : Bool

/-- Which of two neighbouring magnitudes a transcendental result lies at, where the fixed-point arithmetic of
Machine/Trans.lean runs out of precision (log 12): the argument is the last approximation. -/
opaque trans (approx : Int) : Bool

/-- How an ordered flow hashes onto the links of a port (R286): the spec names no hash. -/
opaque flowHash (thread dst : Nat) : Nat

/-- What the boot ROM starts the framer firmware of a site with (R377; log 5): its first address (`k` 0), the page-table
root (1) and the trap vector (2) of the firmware context. The images are not in the spec. -/
opaque firmware (site k : Nat) : BitVec 64

/-- The site of the wafer master that OTP names, if it names one (R377). -/
opaque otpMaster : Option Nat

/-- A word the spec states no value for, one for each draw of the free-value counter (log 2). -/
opaque freeWord (n : Nat) : BitVec 64

end Sys2Proof.Config
end

