-- ==== Sys2Proof/Syntax.lean ====
section
/-! DEFINITION. The syntax: operand shapes of the word formats (R41, R47, R48, R49, R50), the modifier layouts the
class chapters share (R130, R149, R158, R172), and `Instr`, one constructor per row of spec/opcode_table.json. Rows
with an encoding are INSTRUCTIONS; rows without one are EVENTS, steps the hardware or its surroundings take, whose
operands name what they act on and what comes from outside (a sensor reading, the lanes that passed training). -/
namespace Sys2Proof

/-- A processor: its site (R7) and its %core number (R20: 0 to 95 cores, 96 the framer, 97 to 101 port processors). -/
structure PId where
  site : Nat
  core : Nat
  deriving DecidableEq, Repr

/-- A thread slot (R8). -/
structure TId where
  p : PId
  lane : Nat
  slot : Nat
  deriving DecidableEq, Repr

/-- The pipes a clause header names (R28). -/
inductive Pipe where
  | s | w | m | y
  deriving DecidableEq, Repr

/-- Element formats by code 0 to 8 (R51). -/
inductive Fmt where
  | f32 | f16 | bf16 | e4m3 | e5m2 | i8 | i4 | kf4 | q4g
  deriving DecidableEq, Repr

/-- The RND field of R147: the dynamic mode of %fcsr, or a mode of its own. -/
inductive Rnd where
  | dyn | rn | rz | ru | rd | rs
  deriving DecidableEq, Repr

/-- Kinds of access of R192. -/
inductive AccKind where
  | read | write | rmw | fetch
  deriving DecidableEq, Repr

/-- A 7-bit source field (R42): a register number of the file the opcode implies, or a bypass latch. -/
inductive Src where
  | reg (n : BitVec 6)
  | latch (k : BitVec 2)
  deriving DecidableEq, Repr

/-- The operand fields of the basic format (R41). -/
structure BForm where
  pn : Bool
  pr : BitVec 3
  dst : BitVec 6
  nw : Bool
  a : Src
  b : Src
  c : Src
  deriving DecidableEq, Repr

/-- The fields of the long-immediate format (R47). -/
structure LForm where
  pn : Bool
  pr : BitVec 3
  dst : BitVec 6
  nw : Bool
  a : Src
  imm : BitVec 32
  deriving DecidableEq, Repr

/-- The fields of the branch format (R49); AUX is zero in every branch the map assigns (R115). -/
structure JForm where
  pn : Bool
  pr : BitVec 3
  a : Src
  off : BitVec 32
  deriving DecidableEq, Repr

/-- The fields of the memory format (R48); NW is zero in every word that uses it (R182, R212, R305). -/
structure MForm where
  pn : Bool
  pr : BitVec 3
  dst : BitVec 6
  a : Src
  b : Src
  scope : BitVec 2
  ord : BitVec 2
  inv : Bool
  rc : Bool
  sbe : Bool
  sb : BitVec 3
  off : BitVec 20
  deriving DecidableEq, Repr

/-- The basic format as the M pipe uses it: NW is zero and bits 23:20 hold SBE and SB (R48). -/
structure QForm where
  pn : Bool
  pr : BitVec 3
  dst : BitVec 6
  a : Src
  b : Src
  c : Src
  sbe : Bool
  sb : BitVec 3
  deriving DecidableEq, Repr

/-- MOD of the integer chapter (R130). -/
structure IntMod where
  lenm1 : BitVec 6
  pos : BitVec 6
  cond : BitVec 4
  i : Bool
  sat : Bool
  u : Bool
  w : Bool
  deriving DecidableEq, Repr

/-- MOD of the scalar float instructions (R149). -/
structure FltMod where
  u : Bool
  w : Bool
  fmt2 : Fmt
  fmt : Fmt
  cond : BitVec 4
  ftz : Bool
  rnd : Rnd
  deriving DecidableEq, Repr

/-- MOD of the wide instructions (R158). -/
structure WideMod where
  fmt2 : Fmt
  fmt : Fmt
  rnd : Rnd
  ftz : Bool
  p2 : Bool
  sc : Bool
  fn : BitVec 3
  idx : BitVec 6
  deriving DecidableEq, Repr

/-- MOD of the moment instructions (R172). -/
structure MomMod where
  rnd : Rnd
  fn : BitVec 3
  n : Bool
  cm : BitVec 2
  deriving DecidableEq, Repr

/-- A signed image as it comes to a framer (R376): the 1,408 bytes before its body, and whether the SHAKE256 of the body equals
HASH and SIG verifies under the Kalust key. -/
structure Image where
  header : List (BitVec 8)
  genuine : Bool
  deriving DecidableEq, Repr

/-- The instructions and events of the VM64: one constructor per row of spec/opcode_table.json:
instructions first, then events. -/
inductive Instr where
  /-- NOP (R117): no operation. -/
  | nop (b : BForm)
  /-- YIELD (R117): commits and makes the thread youngest. -/
  | yield_ (b : BForm)
  /-- SLEEP (R117): parks the thread for gA plus MOD cycles. -/
  | sleep (b : BForm) (cycles : BitVec 24)
  /-- EXIT (R117): retires the thread. -/
  | exit (b : BForm)
  /-- BRA (R119): branches to a relative target. -/
  | bra (j : JForm)
  /-- BRC (R119): branches when gA is nonzero. -/
  | brc (j : JForm)
  /-- BRX (R119): branches to the address in gA. -/
  | brx (b : BForm)
  /-- CALL (R119): opens a frame and branches to a relative target. -/
  | call (j : JForm)
  /-- CALLX (R119): opens a frame and branches to gA. -/
  | callx (b : BForm)
  /-- RET (R119): closes the frame and continues at its LNK. -/
  | ret (b : BForm)
  /-- SPAWN (R120): creates a thread in a named lane. -/
  | spawn (b : BForm) (join : Bool)
  /-- BANDNEW (R121): creates a band and joins it. -/
  | bandnew (b : BForm)
  /-- JOIN (R121): joins the band named by a handle. -/
  | join (b : BForm)
  /-- LEAVE (R121): leaves the thread's band. -/
  | leave (b : BForm)
  /-- BANDQ (R121): queries a band's count, coordinates, mask or status. -/
  | bandq (b : BForm) (query : BitVec 2)
  /-- RJEN (R122): enrols the lane in a rejoin register. -/
  | rjen (b : BForm) (j : BitVec 3)
  /-- RJWAIT (R122): parks an enrolled lane until all enrolled lanes arrive. -/
  | rjwait (b : BForm) (j : BitVec 3)
  /-- RJSTRIKE (R122): removes the lane from a rejoin register. -/
  | rjstrike (b : BForm) (j : BitVec 3)
  /-- BARI (R123): sets a barrier object's expected count. -/
  | bari (b : BForm) (bar : BitVec 4)
  /-- BARA (R123): arrives at a barrier object, optionally waiting. -/
  | bara (b : BForm) (bar : BitVec 4) (wait : Bool) (scope : BitVec 2)
  /-- BARX (R123): adds expected transaction bytes to a barrier object. -/
  | barx (b : BForm) (bar : BitVec 4)
  /-- BARW (R123): waits for a barrier phase. -/
  | barw (b : BForm) (bar : BitVec 4) (x : Bool)
  /-- BART (R123): tests whether a barrier phase is complete. -/
  | bart (b : BForm) (bar : BitVec 4) (x : Bool)
  /-- VOTE (R124): votes a predicate across the issue group. -/
  | vote (b : BForm) (mode : BitVec 2)
  /-- SHFL (R125): shuffles a value across lanes of the row. -/
  | shfl (b : BForm) (mode : BitVec 2) (seg : BitVec 3)
  /-- TRA (R126): arrives on a truss channel. -/
  | tra (b : BForm) (ch : BitVec 4)
  /-- TRW (R126): waits for a truss phase. -/
  | trw (b : BForm) (ch : BitVec 4)
  /-- TRQ (R126): reads truss channel state. -/
  | trq (b : BForm) (ch : BitVec 4)
  /-- KLAUNCH (R127): posts a launch record to the device-launch buffer. -/
  | klaunch (b : BForm)
  /-- IADD (R134): adds two registers. -/
  | iadd (b : BForm) (m : IntMod)
  /-- IADD_IMM (R132): adds a sign-extended immediate. -/
  | iaddImm (l : LForm)
  /-- ISUB (R134): subtracts. -/
  | isub (b : BForm) (m : IntMod)
  /-- INEG (R134): negates. -/
  | ineg (b : BForm) (m : IntMod)
  /-- IABS (R134): absolute value. -/
  | iabs (b : BForm) (m : IntMod)
  /-- IMUL (R135): multiplies, low bits. -/
  | imul (b : BForm) (m : IntMod)
  /-- IMUL_IMM (R132): multiplies by an immediate. -/
  | imulImm (l : LForm)
  /-- IMULH (R135): multiplies, high bits. -/
  | imulh (b : BForm) (m : IntMod)
  /-- IMAD (R135): multiplies and adds. -/
  | imad (b : BForm) (m : IntMod)
  /-- IDIV (R136): divides. -/
  | idiv (b : BForm) (m : IntMod)
  /-- IREM (R136): remainder. -/
  | irem (b : BForm) (m : IntMod)
  /-- IMIN (R137): minimum. -/
  | imin (b : BForm) (m : IntMod)
  /-- IMIN_IMM (R132): signed minimum with an immediate. -/
  | iminImm (l : LForm)
  /-- IMAX (R137): maximum. -/
  | imax (b : BForm) (m : IntMod)
  /-- IMAX_IMM (R132): signed maximum with an immediate. -/
  | imaxImm (l : LForm)
  /-- AND (R138): bitwise and. -/
  | and (b : BForm) (m : IntMod)
  /-- AND_IMM (R132): bitwise and with an immediate. -/
  | andImm (l : LForm)
  /-- OR (R138): bitwise or. -/
  | or (b : BForm) (m : IntMod)
  /-- OR_IMM (R132): bitwise or with an immediate. -/
  | orImm (l : LForm)
  /-- XOR (R138): bitwise xor. -/
  | xor (b : BForm) (m : IntMod)
  /-- XOR_IMM (R132): bitwise xor with an immediate. -/
  | xorImm (l : LForm)
  /-- ANDN (R138): and with complement. -/
  | andn (b : BForm) (m : IntMod)
  /-- SHL (R139): shifts left. -/
  | shl (b : BForm) (m : IntMod)
  /-- SHR (R139): shifts right logically. -/
  | shr (b : BForm) (m : IntMod)
  /-- SAR (R139): shifts right arithmetically. -/
  | sar (b : BForm) (m : IntMod)
  /-- ROL (R139): rotates left. -/
  | rol (b : BForm) (m : IntMod)
  /-- CLZ (R140): counts leading zeros. -/
  | clz (b : BForm) (m : IntMod)
  /-- CTZ (R140): counts trailing zeros. -/
  | ctz (b : BForm) (m : IntMod)
  /-- POPC (R140): counts set bits. -/
  | popc (b : BForm) (m : IntMod)
  /-- BREV (R140): reverses bits. -/
  | brev (b : BForm) (m : IntMod)
  /-- BFX (R141): extracts a bit field. -/
  | bfx (b : BForm) (m : IntMod)
  /-- BFI (R141): inserts a bit field. -/
  | bfi (b : BForm) (m : IntMod)
  /-- ICMP (R142): compares two registers into a predicate. -/
  | icmp (b : BForm) (m : IntMod)
  /-- ICMP_IMM (R132): compares with an immediate into a predicate. -/
  | icmpImm (l : LForm)
  /-- SEL (R143): selects by predicate. -/
  | sel (b : BForm)
  /-- MOV (R143): copies a register. -/
  | mov (b : BForm)
  /-- MOVI (R143): loads a sign-extended immediate. -/
  | movi (l : LForm)
  /-- MOVH (R143): sets the upper half from an immediate. -/
  | movh (l : LForm)
  /-- LEA (R144): forms base plus scaled index. -/
  | lea (b : BForm) (m : IntMod)
  /-- LEA_IMM (R132): forms a clause-relative address. -/
  | leaImm (l : LForm)
  /-- PAND (R145): predicate and. -/
  | pand (b : BForm) (m : IntMod)
  /-- POR (R145): predicate or. -/
  | por (b : BForm) (m : IntMod)
  /-- PXOR (R145): predicate xor. -/
  | pxor (b : BForm) (m : IntMod)
  /-- PNOT (R145): predicate not. -/
  | pnot (b : BForm)
  /-- FADD (R151): FP32 add. -/
  | fadd (b : BForm) (m : FltMod)
  /-- FSUB (R151): FP32 subtract. -/
  | fsub (b : BForm) (m : FltMod)
  /-- FMUL (R151): FP32 multiply. -/
  | fmul (b : BForm) (m : FltMod)
  /-- FFMA (R151): FP32 fused multiply-add. -/
  | ffma (b : BForm) (m : FltMod)
  /-- FMIN (R152): FP32 minimum. -/
  | fmin (b : BForm) (m : FltMod)
  /-- FMAX (R152): FP32 maximum. -/
  | fmax (b : BForm) (m : FltMod)
  /-- FABS (R152): FP32 magnitude. -/
  | fabs (b : BForm) (m : FltMod)
  /-- FNEG (R152): FP32 negation. -/
  | fneg (b : BForm) (m : FltMod)
  /-- FCMP (R153): FP32 compare into a predicate. -/
  | fcmp (b : BForm) (m : FltMod)
  /-- FCLASS (R154): classifies an FP32 value. -/
  | fclass (b : BForm) (m : FltMod)
  /-- FRCP (R155): reciprocal. -/
  | frcp (b : BForm) (m : FltMod)
  /-- FRSQ (R155): reciprocal square root. -/
  | frsq (b : BForm) (m : FltMod)
  /-- FSQRT (R155): square root. -/
  | fsqrt (b : BForm) (m : FltMod)
  /-- FEX2 (R155): power of two. -/
  | fex2 (b : BForm) (m : FltMod)
  /-- FLG2 (R155): base-2 logarithm. -/
  | flg2 (b : BForm) (m : FltMod)
  /-- FCVT (R156): converts between float formats. -/
  | fcvt (b : BForm) (m : FltMod)
  /-- ITOF (R156): integer to FP32. -/
  | itof (b : BForm) (m : FltMod)
  /-- FTOI (R156): FP32 to integer. -/
  | ftoi (b : BForm) (m : FltMod)
  /-- WADD (R160): element-wise add of granules. -/
  | wadd (b : BForm) (m : WideMod)
  /-- WSUB (R160): element-wise subtract. -/
  | wsub (b : BForm) (m : WideMod)
  /-- WMUL (R160): element-wise multiply. -/
  | wmul (b : BForm) (m : WideMod)
  /-- WFMA (R160): element-wise fused multiply-add. -/
  | wfma (b : BForm) (m : WideMod)
  /-- WMIN (R160): element-wise minimum. -/
  | wmin (b : BForm) (m : WideMod)
  /-- WMAX (R160): element-wise maximum. -/
  | wmax (b : BForm) (m : WideMod)
  /-- WACT (R161): applies an activation function. -/
  | wact (b : BForm) (m : WideMod)
  /-- WRSUM (R162): reduces a granule into a scalar. -/
  | wrsum (b : BForm) (m : WideMod)
  /-- WDOT (R162): dot product into a scalar. -/
  | wdot (b : BForm) (m : WideMod)
  /-- WCVT (R163): converts between wide float formats. -/
  | wcvt (b : BForm) (m : WideMod)
  /-- WQNT (R163): quantises to a scaled format. -/
  | wqnt (b : BForm) (m : WideMod)
  /-- WDQ (R163): dequantises to a float format. -/
  | wdq (b : BForm) (m : WideMod)
  /-- WSCL (R164): gets or sets a granule scale. -/
  | wscl (b : BForm) (m : WideMod)
  /-- WPRM (R165): permutes elements. -/
  | wprm (b : BForm) (m : WideMod)
  /-- WBC (R165): broadcasts an element. -/
  | wbc (b : BForm) (m : WideMod)
  /-- WCMP (R166): compares elements into a mask. -/
  | wcmp (b : BForm) (m : WideMod)
  /-- WSEL (R165): selects elements by mask. -/
  | wsel (b : BForm) (m : WideMod)
  /-- WINS (R165): inserts an element. -/
  | wins (b : BForm) (m : WideMod)
  /-- WEXT (R165): extracts an element. -/
  | wext (b : BForm) (m : WideMod)
  /-- MSET (R175): builds a moment from two FP32 values. -/
  | mset (b : BForm) (m : MomMod)
  /-- MCOL (R180): collapses a moment to one FP32 value. -/
  | mcol (b : BForm) (m : MomMod)
  /-- MMOV (R175): moves a moment between registers. -/
  | mmov (b : BForm) (m : MomMod)
  /-- MADD (R176): adds moments. -/
  | madd (b : BForm) (m : MomMod)
  /-- MSUB (R176): subtracts moments. -/
  | msub (b : BForm) (m : MomMod)
  /-- MMUL (R177): multiplies moments. -/
  | mmul (b : BForm) (m : MomMod)
  /-- MSCL (R178): scales and offsets a moment. -/
  | mscl (b : BForm) (m : MomMod)
  /-- MADDC (R176): adds moments with a given covariance. -/
  | maddc (b : BForm) (m : MomMod)
  /-- MFMA (R177): fused moment multiply-add. -/
  | mfma (b : BForm) (m : MomMod)
  /-- MREL (R179): moment through ReLU. -/
  | mrel (b : BForm) (m : MomMod)
  /-- MSIG (R179): moment through the sigmoid. -/
  | msig (b : BForm) (m : MomMod)
  /-- MEXP (R179): moment through the exponential. -/
  | mexp (b : BForm) (m : MomMod)
  /-- MCHK (R181): checks a moment. -/
  | mchk (b : BForm) (m : MomMod)
  /-- LD_U8 (R214): loads a zero-extended byte. -/
  | ldU8 (f : MForm)
  /-- LD_S8 (R214): loads a sign-extended byte. -/
  | ldS8 (f : MForm)
  /-- LD_U16 (R214): loads a zero-extended halfword. -/
  | ldU16 (f : MForm)
  /-- LD_S16 (R214): loads a sign-extended halfword. -/
  | ldS16 (f : MForm)
  /-- LD_U32 (R214): loads a zero-extended word. -/
  | ldU32 (f : MForm)
  /-- LD_S32 (R214): loads a sign-extended word. -/
  | ldS32 (f : MForm)
  /-- LD_64 (R214): loads 8 bytes. -/
  | ld64 (f : MForm)
  /-- LD_G (R214): loads a granule with its scale. -/
  | ldG (f : MForm)
  /-- LD_GE (R214): loads granule elements only. -/
  | ldGE (f : MForm)
  /-- LD_GS (R214): loads a granule scale only. -/
  | ldGS (f : MForm)
  /-- ST_8 (R215): stores a byte. -/
  | st8 (f : MForm)
  /-- ST_16 (R215): stores a halfword. -/
  | st16 (f : MForm)
  /-- ST_32 (R215): stores a word. -/
  | st32 (f : MForm)
  /-- ST_64 (R215): stores 8 bytes. -/
  | st64 (f : MForm)
  /-- ST_G (R215): stores a granule and its scale. -/
  | stG (f : MForm)
  /-- ST_GE (R215): stores granule elements only. -/
  | stGE (f : MForm)
  /-- ST_GS (R215): stores a granule scale only. -/
  | stGS (f : MForm)
  /-- STN (R216): stores a granule and accumulates its squares into a norm register. -/
  | stn (f : MForm)
  /-- ATOM (R217): atomic read-modify-write returning the old value. -/
  | atom (f : MForm)
  /-- RED (R217): posted atomic reduction. -/
  | red (f : MForm)
  /-- CAS (R217): compare and swap. -/
  | cas (f : MForm)
  /-- FENCE (R218): orders the thread's accesses. -/
  | fence (q : QForm) (scope : BitVec 2) (kind : BitVec 2)
  /-- PIN (R219): pins L2 lines. -/
  | pin (q : QForm)
  /-- UNPIN (R219): releases L2 pins. -/
  | unpin (q : QForm)
  /-- CCLEAN (R220): writes back dirty L2 lines. -/
  | cclean (q : QForm)
  /-- CINV (R220): drops cached copies. -/
  | cinv (q : QForm)
  /-- PREF (R221): prefetches a line. -/
  | pref (f : MForm)
  /-- PROBE (R222): translates without faulting. -/
  | probe (f : MForm)
  /-- BRED (R223): posts a BFA add to a pool-SRAM block. -/
  | bred (q : QForm) (fmt : Fmt) (part : BitVec 2)
  /-- BUPD (R225): starts a fused optimiser update at the banks. -/
  | bupd (q : QForm) (tl : BitVec 4)
  /-- MLD (R183): loads a moment. -/
  | mld (f : MForm)
  /-- MST (R183): stores a moment. -/
  | mst (f : MForm)
  /-- WKSET (R249): loads a walk descriptor into a walk slot. -/
  | wkset (q : QForm) (wk : BitVec 2)
  /-- BREAD (R250): starts a bulk read whose bursts become handlers. -/
  | bread (q : QForm) (tl : BitVec 4) (bs : BitVec 2) (wk : BitVec 2) (scp : BitVec 2) (jb : Bool)
  /-- HEXIT (R251): ends a handler thread. -/
  | hexit (q : QForm) (err : Bool)
  /-- ACOPY (R252): starts an asynchronous memory copy. -/
  | acopy (q : QForm) (tl : BitVec 4) (ws : BitVec 2) (wd : BitVec 2) (scp : BitVec 2) (be : Bool) (bar : BitVec 4)
  /-- ACOPYT (R252): starts a copy or add between memory or registers and a tile. -/
  | acopyt (q : QForm) (tl : BitVec 4) (mode : BitVec 3) (wk : BitVec 2) (scp : BitVec 2) (be : Bool) (bar : BitVec 4)
  /-- TALLOC (R253): allocates a tile. -/
  | talloc (q : QForm) (span : BitVec 3)
  /-- TFREE (R253): frees a tile. -/
  | tfree (q : QForm)
  /-- TSTAT (R253): reads a tile-table entry. -/
  | tstat (q : QForm)
  /-- TLWAIT (R254): waits for a timeline count. -/
  | tlwait (q : QForm) (tl : BitVec 4)
  /-- TLREAD (R254): reads a timeline count. -/
  | tlread (q : QForm) (tl : BitVec 4) (iss : Bool)
  /-- CSTAT (R254): reads an operation's status word. -/
  | cstat (q : QForm) (tl : BitVec 4)
  /-- CCANCEL (R254): cancels engine operations. -/
  | ccancel (q : QForm) (tl : BitVec 4) (all : Bool)
  /-- XBIND (R273): binds the matrix sequencer to the band and starts its stream. -/
  | xbind (q : QForm)
  /-- XBIND_U (R273): unbinds the matrix sequencer. -/
  | xbindU (q : QForm)
  /-- XBIND_Q (R273): reads the sequencer status. -/
  | xbindQ (q : QForm)
  /-- ACRD (R274): reads accumulator entries into registers. -/
  | acrd (q : QForm) (fmt : Fmt) (rnd : Rnd) (nc : BitVec 2) (m : Bool) (aq : BitVec 3)
  /-- ACWM (R275): waits for an accumulator watermark and reads its status. -/
  | acwm (q : QForm)
  /-- ACOVF (R275): reads and optionally clears an accumulator's sticky flags. -/
  | acovf (q : QForm) (clr : Bool)
  /-- XNOP (R276): stream no-operation. -/
  | xnop
  /-- XEND (R276): ends the stream; the sequencer becomes IDLE. -/
  | xend
  /-- XLOOP (R276): pushes a counted loop. -/
  | xloop (count : BitVec 12) (len : BitVec 12)
  /-- XLAY (R276): sets the layout word. -/
  | xlay (layout : BitVec 4)
  /-- XBW (R266): waits for a band barrier phase. -/
  | xbw (bar : BitVec 4)
  /-- XBA (R266): arrives at a band barrier after earlier instructions complete. -/
  | xba (bar : BitVec 4) (scope : BitVec 2)
  /-- XLDS (R278): loads a tile into the shadow plane. -/
  | xlds (ta : BitVec 6) (fmt : Fmt) (sa : Bool)
  /-- XSWP (R278): swaps the active and shadow planes. -/
  | xswp
  /-- XZERO (R279): zeroes an accumulator tile. -/
  | xzero (ap : BitVec 3) (int sat : Bool)
  /-- XOUT (R283): drains an accumulator into a tile, optionally accumulating squares. -/
  | xout (ta : BitVec 6) (ap : BitVec 3) (fmt : Fmt) (rnd : BitVec 2) (satf ne : Bool) (norm : BitVec 4) (sa : Bool)
  /-- XMMA (R280): dense matrix multiply-accumulate. -/
  | xmma (ta : BitVec 6) (ap : BitVec 3) (fmt : Fmt) (fin sa : Bool)
  /-- XMMS (R280): sparse matrix multiply-accumulate. -/
  | xmms (ta : BitVec 6) (ap : BitVec 3) (fmt : Fmt) (fin sa : Bool)
  /-- XDUAL (R281): computes both gradient products. -/
  | xdual (ta tb : BitVec 6) (ap aq : BitVec 3) (fmt : Fmt) (fin sa sb : Bool)
  /-- XMOM (R282): moment matrix product. -/
  | xmom (ta tb : BitVec 6) (ap aq : BitVec 3) (fmt : Fmt) (fin sa sb : Bool)
  /-- RPUT (R306): remote put of 64 to 256 bytes. -/
  | rput (f : MForm)
  /-- RGET (R306): remote get of 64 to 256 bytes. -/
  | rget (f : MForm)
  /-- RATOM (R308): remote 32-byte vector atomic. -/
  | ratom (f : MForm)
  /-- RPUTM (R309): multicast put to a set of sites. -/
  | rputm (q : QForm) (size : BitVec 2) (rel : Bool) (scp : BitVec 2)
  /-- COLL (R310): posts a collective descriptor to a port processor. -/
  | coll (q : QForm)
  /-- TOPOV (R311): reads the topology version or waits for a drain. -/
  | topov (q : QForm) (d : Bool)
  /-- PSEND_DATA (R312): sends a DATA packet to a port-processor channel. -/
  | psendData (q : QForm) (scp : BitVec 2)
  /-- PSEND_REDUCE (R312): sends REDUCE packets to BFA blocks. -/
  | psendReduce (q : QForm) (sec : Bool) (scp : BitVec 2)
  /-- PSEND_DONE (R312): delivers a collective's status to the tagged thread. -/
  | psendDone (q : QForm) (scp : BitVec 2)
  /-- PRECV (R313): posts a receive buffer on a channel. -/
  | precv (q : QForm)
  /-- PRED (R314): port-processor element copy or reduction. -/
  | pred (q : QForm) (op : BitVec 2) (bfa : Bool) (fmt : Fmt)
  /-- PQNT (R315): port-processor quantisation with residual. -/
  | pqnt (q : QForm) (granules : BitVec 8) (fmt : Fmt) (p2 : Bool)
  /-- PWAIT (R316): waits on a channel, timeline or version. -/
  | pwait (q : QForm) (sel : BitVec 6) (mode : BitVec 2)
  /-- PROUTE (R316): queries the route selector's choice. -/
  | proute (q : QForm)
  /-- TRAP (R348): raises a software trap. -/
  | trap (b : BForm) (code : BitVec 24)
  /-- ERET (R349): returns from a trap handler. -/
  | eret (b : BForm)
  /-- GETS (R350): reads a special register. -/
  | gets (b : BForm) (num : BitVec 12)
  /-- SETS (R350): writes a special register under its rule. -/
  | sets (b : BForm) (num : BitVec 12)
  /-- BRK (R348): breakpoint trap, or hold with DBG set. -/
  | brk (b : BForm) (code : BitVec 24)
  /-- ICINV (R353): invalidates instruction-cache lines. -/
  | icinv (b : BForm) (all ret : Bool)
  /-- TLBI (R354): invalidates translations. -/
  | tlbi (b : BForm) (kind : BitVec 2) (waf : Bool)
  /-- HALT (R355): holds the thread and raises HALT. -/
  | halt (b : BForm)
  /-- TIME (R351): reads the wafer timebase. -/
  | time (b : BForm)
  /-- PERF (R352): configures or clears performance counters. -/
  | perf (b : BForm) (counter : BitVec 3) (clr : Bool)
  /-- SLOTW_BIND (R356): writes a bind record into a slot-table entry. -/
  | slotwBind (b : BForm)
  /-- SLOTW_STOP (R356): stops an ACTIVE slot-table entry. -/
  | slotwStop (b : BForm)
  /-- SLOTW_RELEASE (R356): releases a WAIT or DONE entry. -/
  | slotwRelease (b : BForm)
  /-- SLOTW_KILL (R356): kills a slot-table entry. -/
  | slotwKill (b : BForm)
  /-- SLOTW_SET (R356): replaces an entry's PRIO and QUANTUM. -/
  | slotwSet (b : BForm)
  /-- CTXSAVE (R358): starts saving a STOPPED entry into an image. -/
  | ctxsave (b : BForm)
  /-- CTXLOAD (R358): starts loading an image into a slot-table entry. -/
  | ctxload (b : BForm)
  /-- WAITEV (R359): takes the oldest event word or waits for one. -/
  | waitev (b : BForm)
  /-- ISSUE_GROUP (R91): A pipe scheduler picks the oldest eligible candidate and issues the clause for every thread of that row standing at the same address. -/
  | issueGroup (p : PId) (pipe : Pipe)
  /-- ASYNC_TRAP_DELIVERY (R338): A pending asynchronous trap (access error, poison, barrier-dead, matrix-stream) is delivered at the thread's next clause header with index 0. -/
  | asyncTrapDelivery (t : TId)
  /-- DEFERRED_WRITE (R37): data of a deferred instruction arrives, is written into its home frame and decrements the scoreboard. -/
  | deferredWrite (id : Nat)
  /-- SLEEP_WAKE (R117): A thread parked in SLEEP becomes READY once %clk reaches its deadline. -/
  | sleepWake (t : TId)
  /-- STARVATION (R97): A candidate that has waited 4,096 consecutive cycles becomes starved and is chosen before all others. -/
  | starvation (t : TId)
  /-- STORE_DRAIN (R395): A store queue entry leaves its queue once the path to its home accepts it, at most one per queue per cycle. -/
  | storeDrain (p : PId) (row : Nat)
  /-- STORE_AT_HOME (R201): A store arrives at its home, takes its place in coherence order, and a failed window check records a posted failure. -/
  | storeAtHome (id : Nat)
  /-- STORE_ACK (R215): the acknowledgement of a store reaches the issuer and releases its scoreboard. -/
  | storeAck (id : Nat)
  /-- LOAD_AT_HOME (R184): A load-class request is served at its home or from a cached copy and its response is sent back. -/
  | loadAtHome (id : Nat) (fromCopy : Bool)
  /-- ATOMIC_AT_HOME (R217): an ATOM, RED, CAS or RATOM is performed indivisibly at its home and its old value returned where required. -/
  | atomicAtHome (id : Nat)
  /-- BFA_ADD (R75): A bank ALU applies a BFA add to a block, growing the exponent and re-shifting mantissas as needed. -/
  | bfaAdd (id : Nat)
  /-- BURST_REQUEST (R235): the request generator takes the next point of a bulk read's walk, reserves buffer space and sends a read or places FILL. -/
  | burstRequest (op : Nat)
  /-- BURST_ARRIVAL (R235): A burst returns into its reserved space in the burst buffer, or is counted in FAILED. -/
  | burstArrival (op seq : Nat)
  /-- HANDLER_ADMIT (R236): A buffered burst that meets the admission conditions becomes a handler thread in a free slot. -/
  | handlerAdmit (p : PId)
  /-- LAST_BURST (R238): once all points are settled, handlers retired and their stores and operations done, the bulk read completes and releases. -/
  | lastBurst (op : Nat)
  /-- COPY_UNIT (R242): the copy engine reads one unit and writes it to its destination, or counts it in FAILED. -/
  | copyUnit (op : Nat)
  /-- COPY_COMPLETE (R233): A copy finishes: its status is written, its tile state moves and its timeline number is done. -/
  | copyComplete (op : Nat)
  /-- TILE_SCRUB_END (R246): the scrub of a newly allocated tile ends, moving it toward READY. -/
  | tileScrubEnd (p : PId) (tile : Nat)
  /-- TILE_ADD_LAND (R252): an ACOPYT.ADDF or ADDI add lands at the tile store and posts its bytes. -/
  | tileAddLand (op : Nat)
  /-- ACRD_READ (R274): an ACRD's read is made in the first cycle the watermark exceeds its row. -/
  | acrdRead (id : Nat)
  /-- ACWM_RESULT (R275): an ACWM writes the status word once WM reaches its threshold. -/
  | acwmResult (id : Nat)
  /-- PACKET_HOP (R294): A packet is routed at a site by the table copy of its version. -/
  | packetHop (id : Nat)
  /-- ICINV_COMPLETE (R353): the instruction-cache drop finishes and the thread's next clause may issue. -/
  | icinvComplete (t : TId)
  /-- TLBI_COMPLETE (R354): every covered TLB has dropped its entries and earlier walks have finished. -/
  | tlbiComplete (t : TId)
  /-- BOOT_START (R377): once the input rail has been in range for 10 ms, the framer runs the boot ROM, verifies its images, trains links and boots the pool reticles it serves. -/
  | bootStart (site : Nat) (record : Image) (fw : Image) (sched : List (Nat × Nat × Image)) (pools : List (Nat × Image))
  /-- LLS_DECAY (R94): every 512 cycles every row's lost-locality score is halved. -/
  | llsDecay (p : PId)
  /-- RJH_TIMEOUT (R33): 64 cycles after the first lane reaches a hinted clause, the scheduler issues it without waiting further. -/
  | rjhTimeout (p : PId) (row : Nat)
  /-- BAND_NUMBER_RELEASE (R104): A band number becomes free for BANDNEW within 1,024 cycles of the band's end. -/
  | bandNumberRelease (p : PId) (k : Nat)
  /-- TRUSS_RELEASE (R111): the crown releases a channel once every participating core of the wafer has arrived and at least one participates. -/
  | trussRelease (ch : BitVec 4)
  /-- TRUSS_RELEASE_ARRIVAL (R392): A release reaches a core: GEN adds 1, ARR clears and parked TRW threads of that phase become READY. -/
  | trussReleaseArrival (p : PId) (ch : BitVec 4)
  /-- PART_MASK_WRITE (R112): A write to a truss participation mask takes effect at the bent's next edge and may complete a release. -/
  | partMaskWrite (site : Nat)
  /-- PAGE_WALK (R192): A shared-TLB walker reads the page-table levels and yields a translation or a fault. -/
  | pageWalk (site ctx : Nat) (va : Word)
  /-- VERDICT_REPLY (R197): A window verdict reply from the target's home agent arrives and enters the grant cache when it passes. -/
  | verdictReply (site target ctx : Nat) (a : Nat) (kind : AccKind)
  /-- CACHE_LINE_EXPIRY (R187): an L1 line or remote copy in L2 is dropped no later than 65,536 cycles after its fill. -/
  | cacheLineExpiry (p : PId) (l2 : Bool) (line : Nat)
  /-- BUPD_ELEMENT (R225): A bank ALU applies the optimiser update to one element, or skips it on poison. -/
  | bupdElement (op i : Nat)
  /-- ECC_ERROR (R210): an ECC error is corrected and logged, or marks its 64-byte block poisoned. -/
  | eccError (a : Nat) (correctable : Bool)
  /-- WINDOW_TABLE_WRITE (R197): A write to a source window table entry invalidates that target's verdicts in every grant cache before it is acknowledged. -/
  | windowTableWrite (site row entry : Nat) (hi : Bool) (v : Word)
  /-- SCRUB_GO (R323): A store with GO starts zeroing a range of DRAM or pool SRAM, or sets ERR for a bad range. -/
  | scrubGo (site : Nat)
  /-- SCRUB_DONE (R323): the scrub engine finishes zeroing its range, clears poison there and drops BUSY. -/
  | scrubDone (site : Nat)
  /-- FAULT_RETRY (R239): A response word with ABANDON 0 makes the held units of the entry translate again. -/
  | faultRetry (p : PId) (slot : Nat)
  /-- FAULT_ABANDON (R239): A response word with ABANDON 1 counts the held units of the entry in FAILED. -/
  | faultAbandon (p : PId) (slot : Nat)
  /-- ENTRY_STOPPED (R344): with every acknowledgement in, the collector gates the stopped units and the entry enters STOPPED. -/
  | entryStopped (p : PId) (e : Nat)
  /-- SCAN_OUT (R345): A unit of stopped state is copied to its context's save area when another entry claims its storage. -/
  | scanOut (p : PId) (e : Nat)
  /-- ENTRY_ACTIVATE (R327): A clear WAIT entry becomes ACTIVE and creates its threads and bands. -/
  | entryActivate (p : PId) (e : Nat)
  /-- ENTRY_RESTORE (R345): A clear STOPPED entry becomes ACTIVE with its state read back before any thread issues. -/
  | entryRestore (p : PId) (e : Nat)
  /-- QUANTUM_EXPIRY (R332): ATIME reaches QUANTUM while an equal-priority overlapping entry waits, and the entry becomes STOPPING. -/
  | quantumExpiry (p : PId) (e : Nat)
  /-- ENTRY_DONE (R332): an ACTIVE entry whose LIVE reaches 0 with all bands ended becomes DONE. -/
  | entryDone (p : PId) (e : Nat)
  /-- ENTRY_KILL_DONE (R332): A killed entry becomes EMPTY once every thread, band and operation is killed or cancelled. -/
  | entryKillDone (p : PId) (e : Nat)
  /-- THREAD_RESUME (R320): A TCTL resume makes a HELD thread READY at PC with IN cleared. -/
  | threadResume (t : TId)
  /-- THREAD_KILL (R320): A TCTL kill frees a thread's slot, with leaving and striking. -/
  | threadKill (t : TId)
  /-- THREAD_PC_WRITE (R319): A store to a window's PC takes effect while the thread is HELD or STOPPED. -/
  | threadPcWrite (t : TId) (v : Word)
  /-- CTX_CREATE (R322): A create command makes a free context entry live, zeroing timelines and counters and dropping its TLB entries. -/
  | ctxCreate (site x : Nat)
  /-- CTX_KILL (R322): A kill command makes a live entry dying and kills its entries, bands, threads and operations. -/
  | ctxKill (site x : Nat)
  /-- CTX_FREE (R322): A dying context entry becomes free once its kill is complete. -/
  | ctxFree (site x : Nat)
  /-- BAND_KILL (R346): A store with bit 0 to a band control word kills the band, freeing its members and cancelling its operations. -/
  | bandKill (p : PId) (k : Nat)
  /-- CHUNK_SEND (R303): at the end of a band of a BOUND launch its tile is read and sent as a chunk packet, or as missing. -/
  | chunkSend (p : PId) (k : Nat)
  /-- DLAUNCH_ENTRY_FREE (R325): A store with bit 63 to a selector word clears OCC and frees the device-launch buffer entry. -/
  | dlaunchEntryFree (site i : Nat)
  /-- WINDOW_SPILL (R100): A %wst write with CMD 1 stores the oldest held frame to memory. -/
  | windowSpill (t : TId)
  /-- WINDOW_FILL (R100): A %wst write with CMD 2 reads a frame back from memory below the oldest held frame. -/
  | windowFill (t : TId)
  /-- NORM_ACC (R77): A square from STN or XOUT arrives at a norm register and is accumulated. -/
  | normAcc (site k : Nat) (x : BitVec 36)
  /-- NORM_ZERO (R270): A store to the ZERO word sets V, SAT, UF and UFCNT to zero. -/
  | normZero (site k : Nat)
  /-- NORM_STAT_WRITE (R270): A store to the status word clears SAT and UF by W1C. -/
  | normStatWrite (site k : Nat) (v : Word)
  /-- ARRAY_ROW_FINAL (R263): A row of an accumulator receives its last update and the watermark rises when FIN is set. -/
  | arrayRowFinal (p : PId) (acc : Nat)
  /-- STREAM_INSTR_COMPLETE (R268): A stream instruction finishes its array, loader or drain work and releases its tiles. -/
  | streamInstrComplete (p : PId) (id : Nat)
  /-- LINK_TRAIN (R285): CMD 1 starts training a link from DOWN, FAILED, UP or HALF. -/
  | linkTrain (site port link : Nat)
  /-- LINK_TAKE_DOWN (R285): CMD 2 takes a link down after moving its retry buffer. -/
  | linkTakeDown (site port link : Nat)
  /-- LINK_PARTNER_DETECT (R285): A partner detected on every lane of a half starts training. -/
  | linkPartnerDetect (site port link : Nat) (upper : Bool)
  /-- LINK_TRAIN_RESULT (R285): training ends with UP, HALF or no change according to the lanes that pass. -/
  | linkTrainResult (site port link : Nat) (passed : BitVec 16)
  /-- LINK_STATE_TIMEOUT (R285): 100 µs in TRAIN or DEGRADE without success make the link FAILED. -/
  | linkStateTimeout (site port link : Nat)
  /-- LINK_LANE_FAIL (R285): A lane losing lock or 16 CRC failures take a link to DEGRADE or FAILED. -/
  | linkLaneFail (site port link lane : Nat)
  /-- FLIT_CRC_RETRY (R286): A flit failing CRC is resent with every later flit from the retry buffer. -/
  | flitCrcRetry (site port link : Nat) (seq : BitVec 16)
  /-- PORT_WAIT_TIMEOUT (R286): A packet that finds no port 10 ms after it first waited is discarded and a link-failure response sent. -/
  | portWaitTimeout (id : Nat)
  /-- MULTICAST_REPLICATE (R309): A crossbar or ingress pool reticle copies a multicast put toward its destinations. -/
  | multicastReplicate (id : Nat)
  /-- PP_PACKET_ARRIVAL (R295): A packet arrives at a port processor or bank, is checked against ACTIVE and accepted, held or refused. -/
  | ppPacketArrival (id : Nat)
  /-- VERSION_HOLD_TIMEOUT (R295): A newer packet held 100 µs without a matching swap is refused with NACK 2. -/
  | versionHoldTimeout (id : Nat)
  /-- COLL_ACCEPT (R310): A port processor accepts a collective descriptor and completes it at once on DESC, STALE or NOALG. -/
  | collAccept (id : Nat)
  /-- COLL_ABORT (R304): A kill cancels a collective and abort packets are sent to every rank. -/
  | collAbort (id : Nat)
  /-- DONE_DELIVERY (R312): A DONE packet writes its status into the tagged register, decrements its scoreboard and frees its OTT entry, or is discarded. -/
  | doneDelivery (id : Nat)
  /-- TOPOLOGY_VERSION_WRITE (R293): A write to a version register clears ERR, writes SHADOW or swaps the tables. -/
  | topologyVersionWrite (site : Nat) (v : Word)
  /-- EXT_PACKET_RECEIVE (R297): A packet arriving at a sill endpoint is delivered, or discarded for UUD mode or a bad header. -/
  | extPacketReceive (site : Nat) (uud : Bool) (header : BitVec 256) (payload : List Byte)
  /-- HOST_RDMA_WRITE (R374): A host RDMA write is matched to a context, window-checked and performed as a posted SYS store. `job` holds
  the job field in its low 24 bits and above them the number of a ROD message, 0 on RUD. -/
  | hostRdmaWrite (site job : Nat) (a : Word) (data : List Byte)
  /-- HOST_RDMA_READ (R374): A host RDMA read is performed as a relaxed SYS load. -/
  | hostRdmaRead (site job : Nat) (a : Word) (n : Nat)
  /-- HOST_RDMA_ATOMIC (R374): A host RDMA atomic is performed after earlier writes of its connection as a releasing SYS atomic. -/
  | hostRdmaAtomic (site job : Nat) (a : Word) (aop : BitVec 4) (w32 : Bool) (v : Word)
  /-- ALARM_SENSOR (R380): A glitch, light or shield sensor fires and every site enters ALARM. -/
  | alarmSensor (site : Nat) (sensor : Nat)
  /-- TELEMETRY_UPDATE (R381): power telemetry is updated every 10 µs. -/
  | telemetryUpdate (site : Nat) (vin iout vcore pwr : Nat)
  /-- CLOCK_STEP_DOWN (R382): every 10 µs while IOUT exceeds ILIM or at 100 °C, the core clock drops 100 MHz and LIM is set. -/
  | clockStepDown (site : Nat)
  /-- CLOCK_STEP_UP (R382): after 100 µs below 95 % of ILIM the clock rises in 100 MHz steps. -/
  | clockStepUp (site : Nat)
  /-- CURRENT_LIMIT_WRITE (R381): A write to ILIM stores the value, clamped at 4,800. -/
  | currentLimitWrite (site : Nat) (v : Word)
  /-- THERMAL_UPDATE (R383): every 100 µs a sensor word is updated, throttling at 100 °C and shutting down at 110 °C. -/
  | thermalUpdate (site sensor : Nat) (temp : BitVec 16)
  /-- RING_LOCK_LOSS (R384): A ring losing LOCK makes its lane lose lock. -/
  | ringLockLoss (site ring : Nat)
  /-- WEAR_SAMPLE (R385): each wear monitor is sampled every 24 hours, raising HEALTH below 12 months. -/
  | wearSample (site monitor : Nat) (value : BitVec 32) (forecast : Nat × Nat)
  /-- CTXSAVE_DONE (R358): A save copy finishes, freeing the units, emptying the entry and raising CTXDONE. -/
  | ctxsaveDone (p : PId) (e : Nat)
  /-- CTXLOAD_DONE (R358): A load copy finishes, leaving the entry STOPPED and raising CTXDONE. -/
  | ctxloadDone (p : PId) (e : Nat)
  /-- REGISTER_WRITE (R25): A store to a control-space register without behaviour of its own writes it under its access rules. -/
  | registerWrite (site localAddr : Nat) (v : Word)
  /-- CCLEAN_CINV_COMPLETE (R220): A CCLEAN or CINV finishes examining and writing back its range, releases its scoreboard if SBE was set, and for CINV ends the effect of R207 on its lines. -/
  | ccleanCinvComplete (id : Nat)
  /-- DELIVERY_GIVE_UP (R296): the Ultra Ethernet packet delivery sublayer gives up on a packet, which is then settled at its source under R290. -/
  | deliveryGiveUp (id : Nat)
  /-- RING_LOCK_REGAIN (R384): A microring comes back onto its wavelength and the hardware sets LOCK, letting its lane regain lock. -/
  | ringLockRegain (site ring : Nat)
  /-- STREAM_WORD_FAULT (R267): the sequencer meets a stream word that has a reserved opcode or cannot be fetched, stops there and raises stream fault 1 or 3. -/
  | streamWordFault (p : PId) (code : Nat)
  /-- POWER_ON_RESET (R23): reset frees every thread slot, band, rejoin register, sequencer binding and tile entry, and zeroes memory. -/
  | powerOnReset
  /-- WAFER_RELEASE (R377): the wafer master releases the wafer for host work once every site reports ready or failed. -/
  | waferRelease
  /-- CLAUSE_COMMIT (R35): for each thread, register, predicate and store results take effect together, or the clause rolls back and the lowest faulting index is trapped. -/
  | clauseCommit
  /-- ALARM_CONTEXTS_KILLED (R380): with every live context killed, the alarm moves to ERASING or LATCHED. -/
  | alarmContextsKilled
  /-- KEY_ERASE_DONE (R380): key material is overwritten and the alarm becomes LATCHED. -/
  | keyEraseDone
  /-- POWER_OFF (R380): loss of input power ends LATCHED and turns the device off. -/
  | powerOff
  deriving DecidableEq, Repr

/-- Whether a row is an event: a step with no encoding, taken by the hardware or its surroundings. -/
def Instr.isEvent : Instr → Bool
  | .powerOnReset => true
  | .bootStart _ _ _ _ _ => true
  | .waferRelease => true
  | .issueGroup _ _ => true
  | .clauseCommit => true
  | .asyncTrapDelivery _ => true
  | .deferredWrite _ => true
  | .sleepWake _ => true
  | .llsDecay _ => true
  | .starvation _ => true
  | .rjhTimeout _ _ => true
  | .bandNumberRelease _ _ => true
  | .trussRelease _ => true
  | .trussReleaseArrival _ _ => true
  | .partMaskWrite _ => true
  | .storeDrain _ _ => true
  | .storeAtHome _ => true
  | .storeAck _ => true
  | .loadAtHome _ _ => true
  | .pageWalk _ _ _ => true
  | .verdictReply _ _ _ _ _ => true
  | .cacheLineExpiry _ _ _ => true
  | .atomicAtHome _ => true
  | .bfaAdd _ => true
  | .bupdElement _ _ => true
  | .eccError _ _ => true
  | .windowTableWrite _ _ _ _ _ => true
  | .scrubGo _ => true
  | .scrubDone _ => true
  | .burstRequest _ => true
  | .burstArrival _ _ => true
  | .handlerAdmit _ => true
  | .faultRetry _ _ => true
  | .faultAbandon _ _ => true
  | .lastBurst _ => true
  | .copyUnit _ => true
  | .copyComplete _ => true
  | .tileScrubEnd _ _ => true
  | .tileAddLand _ => true
  | .entryStopped _ _ => true
  | .scanOut _ _ => true
  | .entryActivate _ _ => true
  | .entryRestore _ _ => true
  | .quantumExpiry _ _ => true
  | .entryDone _ _ => true
  | .entryKillDone _ _ => true
  | .threadResume _ => true
  | .threadKill _ => true
  | .threadPcWrite _ _ => true
  | .ctxCreate _ _ => true
  | .ctxKill _ _ => true
  | .ctxFree _ _ => true
  | .bandKill _ _ => true
  | .chunkSend _ _ => true
  | .dlaunchEntryFree _ _ => true
  | .windowSpill _ => true
  | .windowFill _ => true
  | .normAcc _ _ _ => true
  | .normZero _ _ => true
  | .normStatWrite _ _ _ => true
  | .arrayRowFinal _ _ => true
  | .streamInstrComplete _ _ => true
  | .acrdRead _ => true
  | .acwmResult _ => true
  | .linkTrain _ _ _ => true
  | .linkTakeDown _ _ _ => true
  | .linkPartnerDetect _ _ _ _ => true
  | .linkTrainResult _ _ _ _ => true
  | .linkStateTimeout _ _ _ => true
  | .linkLaneFail _ _ _ _ => true
  | .flitCrcRetry _ _ _ _ => true
  | .packetHop _ => true
  | .portWaitTimeout _ => true
  | .multicastReplicate _ => true
  | .ppPacketArrival _ => true
  | .versionHoldTimeout _ => true
  | .collAccept _ => true
  | .collAbort _ => true
  | .doneDelivery _ => true
  | .topologyVersionWrite _ _ => true
  | .extPacketReceive _ _ _ _ => true
  | .hostRdmaWrite _ _ _ _ => true
  | .hostRdmaRead _ _ _ _ => true
  | .hostRdmaAtomic _ _ _ _ _ _ => true
  | .alarmSensor _ _ => true
  | .alarmContextsKilled => true
  | .keyEraseDone => true
  | .powerOff => true
  | .telemetryUpdate _ _ _ _ _ => true
  | .clockStepDown _ => true
  | .clockStepUp _ => true
  | .currentLimitWrite _ _ => true
  | .thermalUpdate _ _ _ => true
  | .ringLockLoss _ _ => true
  | .wearSample _ _ _ _ => true
  | .icinvComplete _ => true
  | .tlbiComplete _ => true
  | .ctxsaveDone _ _ => true
  | .ctxloadDone _ _ => true
  | .registerWrite _ _ _ => true
  | .nop _ => false
  | .yield_ _ => false
  | .sleep _ _ => false
  | .exit _ => false
  | .bra _ => false
  | .brc _ => false
  | .brx _ => false
  | .call _ => false
  | .callx _ => false
  | .ret _ => false
  | .spawn _ _ => false
  | .bandnew _ => false
  | .join _ => false
  | .leave _ => false
  | .bandq _ _ => false
  | .rjen _ _ => false
  | .rjwait _ _ => false
  | .rjstrike _ _ => false
  | .bari _ _ => false
  | .bara _ _ _ _ => false
  | .barx _ _ => false
  | .barw _ _ _ => false
  | .bart _ _ _ => false
  | .vote _ _ => false
  | .shfl _ _ _ => false
  | .tra _ _ => false
  | .trw _ _ => false
  | .trq _ _ => false
  | .klaunch _ => false
  | .iadd _ _ => false
  | .iaddImm _ => false
  | .isub _ _ => false
  | .ineg _ _ => false
  | .iabs _ _ => false
  | .imul _ _ => false
  | .imulImm _ => false
  | .imulh _ _ => false
  | .imad _ _ => false
  | .idiv _ _ => false
  | .irem _ _ => false
  | .imin _ _ => false
  | .iminImm _ => false
  | .imax _ _ => false
  | .imaxImm _ => false
  | .and _ _ => false
  | .andImm _ => false
  | .or _ _ => false
  | .orImm _ => false
  | .xor _ _ => false
  | .xorImm _ => false
  | .andn _ _ => false
  | .shl _ _ => false
  | .shr _ _ => false
  | .sar _ _ => false
  | .rol _ _ => false
  | .clz _ _ => false
  | .ctz _ _ => false
  | .popc _ _ => false
  | .brev _ _ => false
  | .bfx _ _ => false
  | .bfi _ _ => false
  | .icmp _ _ => false
  | .icmpImm _ => false
  | .sel _ => false
  | .mov _ => false
  | .movi _ => false
  | .movh _ => false
  | .lea _ _ => false
  | .leaImm _ => false
  | .pand _ _ => false
  | .por _ _ => false
  | .pxor _ _ => false
  | .pnot _ => false
  | .fadd _ _ => false
  | .fsub _ _ => false
  | .fmul _ _ => false
  | .ffma _ _ => false
  | .fmin _ _ => false
  | .fmax _ _ => false
  | .fabs _ _ => false
  | .fneg _ _ => false
  | .fcmp _ _ => false
  | .fclass _ _ => false
  | .frcp _ _ => false
  | .frsq _ _ => false
  | .fsqrt _ _ => false
  | .fex2 _ _ => false
  | .flg2 _ _ => false
  | .fcvt _ _ => false
  | .itof _ _ => false
  | .ftoi _ _ => false
  | .wadd _ _ => false
  | .wsub _ _ => false
  | .wmul _ _ => false
  | .wfma _ _ => false
  | .wmin _ _ => false
  | .wmax _ _ => false
  | .wact _ _ => false
  | .wrsum _ _ => false
  | .wdot _ _ => false
  | .wcvt _ _ => false
  | .wqnt _ _ => false
  | .wdq _ _ => false
  | .wscl _ _ => false
  | .wprm _ _ => false
  | .wbc _ _ => false
  | .wcmp _ _ => false
  | .wsel _ _ => false
  | .wins _ _ => false
  | .wext _ _ => false
  | .mset _ _ => false
  | .mcol _ _ => false
  | .mmov _ _ => false
  | .madd _ _ => false
  | .msub _ _ => false
  | .mmul _ _ => false
  | .mscl _ _ => false
  | .maddc _ _ => false
  | .mfma _ _ => false
  | .mrel _ _ => false
  | .msig _ _ => false
  | .mexp _ _ => false
  | .mchk _ _ => false
  | .ldU8 _ => false
  | .ldS8 _ => false
  | .ldU16 _ => false
  | .ldS16 _ => false
  | .ldU32 _ => false
  | .ldS32 _ => false
  | .ld64 _ => false
  | .ldG _ => false
  | .ldGE _ => false
  | .ldGS _ => false
  | .st8 _ => false
  | .st16 _ => false
  | .st32 _ => false
  | .st64 _ => false
  | .stG _ => false
  | .stGE _ => false
  | .stGS _ => false
  | .stn _ => false
  | .atom _ => false
  | .red _ => false
  | .cas _ => false
  | .fence _ _ _ => false
  | .pin _ => false
  | .unpin _ => false
  | .cclean _ => false
  | .cinv _ => false
  | .pref _ => false
  | .probe _ => false
  | .bred _ _ _ => false
  | .bupd _ _ => false
  | .mld _ => false
  | .mst _ => false
  | .wkset _ _ => false
  | .bread _ _ _ _ _ _ => false
  | .hexit _ _ => false
  | .acopy _ _ _ _ _ _ _ => false
  | .acopyt _ _ _ _ _ _ _ => false
  | .talloc _ _ => false
  | .tfree _ => false
  | .tstat _ => false
  | .tlwait _ _ => false
  | .tlread _ _ _ => false
  | .cstat _ _ => false
  | .ccancel _ _ _ => false
  | .xbind _ => false
  | .xbindU _ => false
  | .xbindQ _ => false
  | .acrd _ _ _ _ _ _ => false
  | .acwm _ => false
  | .acovf _ _ => false
  | .xnop => false
  | .xend => false
  | .xloop _ _ => false
  | .xlay _ => false
  | .xbw _ => false
  | .xba _ _ => false
  | .xlds _ _ _ => false
  | .xswp => false
  | .xzero _ _ _ => false
  | .xout _ _ _ _ _ _ _ _ => false
  | .xmma _ _ _ _ _ => false
  | .xmms _ _ _ _ _ => false
  | .xdual _ _ _ _ _ _ _ _ => false
  | .xmom _ _ _ _ _ _ _ _ => false
  | .rput _ => false
  | .rget _ => false
  | .ratom _ => false
  | .rputm _ _ _ _ => false
  | .coll _ => false
  | .topov _ _ => false
  | .psendData _ _ => false
  | .psendReduce _ _ _ => false
  | .psendDone _ _ => false
  | .precv _ => false
  | .pred _ _ _ _ => false
  | .pqnt _ _ _ _ => false
  | .pwait _ _ _ => false
  | .proute _ => false
  | .trap _ _ => false
  | .eret _ => false
  | .gets _ _ => false
  | .sets _ _ => false
  | .brk _ _ => false
  | .icinv _ _ _ => false
  | .tlbi _ _ _ => false
  | .halt _ => false
  | .time _ => false
  | .perf _ _ _ => false
  | .slotwBind _ => false
  | .slotwStop _ => false
  | .slotwRelease _ => false
  | .slotwKill _ => false
  | .slotwSet _ => false
  | .ctxsave _ => false
  | .ctxload _ => false
  | .waitev _ => false
  | .ccleanCinvComplete _ => true
  | .deliveryGiveUp _ => true
  | .ringLockRegain _ _ => true
  | .streamWordFault _ _ => true

end Sys2Proof
end

