-- ==== Sys2Proof/WellFormed.lean ====
section
/-! DEFINITION. Which operand and modifier values an instruction may bear: the encoding tables R115, R131, R149, R158,
R173, R182, R212, R248, R271, R305, R347 and the limits their chapters add. `reservedOk` is condition 7 of R59 (a
field the opcode does not accept is zero), `operandOk` condition 9 less its latch part (register numbers in range);
`wellFormed` is both. What only a processor kind or the rest of the clause can decide stands in Machine/Issue.lean. -/
namespace Sys2Proof

/-- What a register field holds: `z` must be zero, a file of R42, a tile or accumulator number, or a code of the
opcode's own that `reservedOk` checks. -/
inductive RF where
  | z | g | p | w | m | tile | acc | own
  deriving DecidableEq, Repr

/-- The files of DST, SRCA, SRCB and SRCC, and whether NW = 1 is accepted (R45). -/
structure Shape where
  dst : RF
  a : RF
  b : RF
  c : RF
  nw : Bool
  deriving DecidableEq, Repr

/-- The four register fields of an instruction as its format gives them; a format without a field reads it as
register 0. -/
structure Fields where
  dst : BitVec 6
  nw : Bool
  a : Src
  b : Src
  c : Src
  deriving DecidableEq, Repr

def BForm.fields (b : BForm) : Fields := ⟨b.dst, b.nw, b.a, b.b, b.c⟩
def LForm.fields (l : LForm) : Fields := ⟨l.dst, l.nw, l.a, .reg 0, .reg 0⟩
def JForm.fields (j : JForm) : Fields := ⟨0, false, j.a, .reg 0, .reg 0⟩
def MForm.fields (f : MForm) : Fields := ⟨f.dst, false, f.a, f.b, .reg 0⟩
def QForm.fields (q : QForm) : Fields := ⟨q.dst, false, q.a, q.b, q.c⟩

/-- Whether a source field fits its file (R42, R43): g sources are 0 to 31 or special registers 0 to 25. -/
def RF.srcOk : RF → Src → Bool
  | .z, s => s == .reg 0
  | .g, .reg n => n.toNat ≤ 57
  | .p, .reg n => n.toNat ≤ 7
  | .w, .reg n => n.toNat ≤ 15
  | .m, .reg n => n.toNat ≤ 7
  | .g, .latch _ | .p, .latch _ | .w, .latch _ | .m, .latch _ => true
  | .tile, .reg _ => true
  | .acc, .reg n => n.toNat ≤ 7
  | .tile, .latch _ | .acc, .latch _ => false
  | .own, _ => true

/-- Whether a destination number fits its file (R42): p7 is not writable. -/
def RF.dstOk : RF → BitVec 6 → Bool
  | .z, n => n == 0
  | .g, n => n.toNat ≤ 31
  | .p, n => n.toNat ≤ 6
  | .w, n => n.toNat ≤ 15
  | .m, n => n.toNat ≤ 7
  | .tile, _ | .acc, _ | .own, _ => true

/-- Unread fields are zero (R52), NW only where accepted and then with DST 0 (R45), SRCC bits 5:3 of an accumulator
name zero (R271). -/
def Shape.reservedOk (s : Shape) (f : Fields) : Bool :=
  (s.dst != .z || f.dst == 0) && (s.a != .z || f.a == .reg 0) && (s.b != .z || f.b == .reg 0) &&
  (s.c != .z || f.c == .reg 0) && (!f.nw || (s.nw && f.dst == 0)) &&
  (s.c != .acc || (match f.c with | .reg n => decide (n.toNat ≤ 7) | .latch _ => true))

/-- Every register number lies in its file's range. -/
def Shape.operandOk (s : Shape) (f : Fields) : Bool :=
  s.dst.dstOk f.dst && s.a.srcOk f.a && s.b.srcOk f.b && s.c.srcOk f.c

/-- IntMod fields an opcode accepts (R131); every other field must be zero. -/
def IntMod.only (m : IntMod) (w u sat i cond pos len : Bool) : Bool :=
  (w || !m.w) && (u || !m.u) && (sat || !m.sat) && (i || !m.i) && (cond || m.cond == 0) && (pos || m.pos == 0) &&
  (len || m.lenm1 == 0)

/-- The width in bits an integer word works at (R128). -/
def IntMod.width (m : IntMod) : Nat := if m.w then 32 else 64

/-- FltMod fields an opcode accepts (R149). -/
def FltMod.only (m : FltMod) (rnd wu cond cvt : Bool) : Bool :=
  (rnd || m.rnd == .dyn) && (wu || (!m.w && !m.u)) && (cond || m.cond == 0) &&
  (cvt || (m.fmt == .f32 && m.fmt2 == .f32 && !m.ftz))

/-- The code of a format (R51). -/
def Fmt.code : Fmt → Nat
  | .f32 => 0 | .f16 => 1 | .bf16 => 2 | .e4m3 => 3 | .e5m2 => 4 | .i8 => 5 | .i4 => 6 | .kf4 => 7 | .q4g => 8

/-- Bits of one element. -/
def Fmt.bits : Fmt → Nat
  | .f32 => 32 | .f16 | .bf16 => 16 | .e4m3 | .e5m2 | .i8 => 8 | .i4 | .kf4 | .q4g => 4

/-- Elements of a granule, n(fmt) of R157. -/
def Fmt.count (f : Fmt) : Nat := 256 / f.bits

/-- FP32, FP16 and BF16: the formats read under scale 1.0 only (R70). -/
def Fmt.isPlain : Fmt → Bool
  | .f32 | .f16 | .bf16 => true
  | _ => false

/-- The 8-bit float formats, where FTZ is accepted (R158). -/
def Fmt.isFp8 : Fmt → Bool
  | .e4m3 | .e5m2 => true
  | _ => false

/-- WideMod fields an opcode accepts (R158). -/
def WideMod.only (m : WideMod) (fmt2 rnd ftz p2 sc fn idx : Bool) : Bool :=
  (fmt2 || m.fmt2 == .f32) && (rnd || m.rnd == .dyn) && (ftz || !m.ftz) && (p2 || !m.p2) && (sc || !m.sc) &&
  (fn || m.fn == 0) && (idx || m.idx == 0)

/-- MomMod fields an opcode accepts (R173). -/
def MomMod.only (m : MomMod) (rnd fn n cm : Bool) : Bool :=
  (rnd || m.rnd == .dyn) && (fn || m.fn == 0) && (n || !m.n) && (cm || m.cm == 0)

/-- Registers of the source group of a conversion: n(FMT2)/n(FMT), at least 1 (R163). -/
def WideMod.group (m : WideMod) : Nat :=
  if m.fmt2.count ≤ m.fmt.count then 1 else m.fmt2.count / m.fmt.count

/-- Parts of a conversion's source: IDX lies below n(FMT)/n(FMT2), and is 0 for a group (R163). -/
def WideMod.parts (m : WideMod) : Nat :=
  if m.fmt2.count ≤ m.fmt.count then m.fmt.count / m.fmt2.count else 1

/-- Whether SBE and SB are as a deferred, an optional, or no scoreboard asks (R48). -/
inductive SbUse where
  | must | may | none
  deriving DecidableEq, Repr

def SbUse.ok : SbUse → Bool → BitVec 3 → Bool
  | .must, e, _ => e
  | .may, _, _ => true
  | .none, e, n => !e && n == 0

/-- SCOPE, ORD, INV, RC, SBE of a memory-format opcode (R182, R212, R305). -/
def MForm.modsOk (f : MForm) (anyScope acq rel cached : Bool) (sb : SbUse) : Bool :=
  (anyScope || f.scope == 0) && (f.ord == 0 || (acq && f.ord == 1) || (rel && f.ord == 2)) &&
  (cached || (!f.inv && !f.rc)) && !(f.inv && f.rc) && sb.ok f.sbe f.sb

/-- The operation word of ATOM, RED and CAS (R213). -/
def MForm.atomOk (f : MForm) (exch : Bool) : Bool :=
  let o := f.off.toNat
  let aop := o % 16
  decide (o < 32) && decide (aop ≤ 11) && (exch || aop != 8) && (decide (aop < 9) || decide (16 ≤ o))

/-- The operation word of RATOM (R308). -/
def MForm.ratomOk (f : MForm) : Bool :=
  let o := f.off.toNat
  let ty := o / 8 % 4
  let aop := o % 8
  decide (o < 64) && decide (aop ≤ 6) && decide (ty ≤ 2) && !(ty == 1 && decide (3 ≤ aop ∧ aop ≤ 5))

/-- NR of RATOM (R308). -/
def MForm.nr (f : MForm) : Bool := f.off.getLsbD 5

/-- A group of `n` registers from a source field: register operands only, none past w15 (R248, R305). -/
def Src.groupOk (s : Src) (n last : Nat) : Bool :=
  match s with
  | .reg r => decide (r.toNat + n ≤ last + 1)
  | .latch _ => n == 1

/-- As `Src.groupOk`, but a latch never fits (R248, R305). -/
def Src.regGroupOk (s : Src) (n last : Nat) : Bool :=
  match s with
  | .reg r => decide (r.toNat + n ≤ last + 1)
  | .latch _ => false

/-- Registers moved by SIZE (R306). -/
def sizeRegs (size : Nat) : Nat := if size = 0 then 2 else if size = 1 then 4 else 8

/-- Registers an ACRD writes (R271). -/
def acrdRegs (nc : BitVec 2) : Nat := 2 ^ nc.toNat

/-- The register fields an instruction reads and writes, by its encoding table; a stream word or event has none. -/
def Instr.shape : Instr → Option Shape
  | .nop _ => some ⟨.z, .z, .z, .z, false⟩
  | .yield_ _ => some ⟨.z, .z, .z, .z, false⟩
  | .sleep _ _ => some ⟨.z, .g, .z, .z, false⟩
  | .exit _ => some ⟨.z, .z, .z, .z, false⟩
  | .bra _ => some ⟨.z, .z, .z, .z, false⟩
  | .brc _ => some ⟨.z, .g, .z, .z, false⟩
  | .brx _ => some ⟨.z, .g, .z, .z, false⟩
  | .call _ => some ⟨.z, .z, .z, .z, false⟩
  | .callx _ => some ⟨.z, .g, .z, .z, false⟩
  | .ret _ => some ⟨.z, .z, .z, .z, false⟩
  | .spawn _ _ => some ⟨.g, .g, .g, .g, false⟩
  | .bandnew _ => some ⟨.g, .g, .z, .z, false⟩
  | .join _ => some ⟨.z, .g, .z, .z, false⟩
  | .leave _ => some ⟨.z, .z, .z, .z, false⟩
  | .bandq _ _ => some ⟨.g, .g, .g, .z, true⟩
  | .rjen _ _ => some ⟨.z, .z, .z, .z, false⟩
  | .rjwait _ _ => some ⟨.z, .z, .z, .z, false⟩
  | .rjstrike _ _ => some ⟨.z, .z, .z, .z, false⟩
  | .bari _ _ => some ⟨.z, .g, .z, .z, false⟩
  | .bara _ _ _ _ => some ⟨.g, .z, .z, .z, false⟩
  | .barx _ _ => some ⟨.z, .g, .z, .z, false⟩
  | .barw _ _ x => some ⟨.z, .g, if x then .g else .z, .z, false⟩
  | .bart _ _ x => some ⟨.g, .g, if x then .g else .z, .z, false⟩
  | .vote _ mode => some ⟨if mode = 3 then .g else .p, .p, .z, .z, true⟩
  | .shfl _ _ _ => some ⟨.g, .g, .g, .z, true⟩
  | .tra _ _ => some ⟨.g, .z, .z, .z, false⟩
  | .trw _ _ => some ⟨.z, .g, .z, .z, false⟩
  | .trq _ _ => some ⟨.g, .z, .z, .z, true⟩
  | .klaunch _ => some ⟨.z, .g, .g, .z, false⟩
  | .iadd _ _ => some ⟨.g, .g, .g, .z, true⟩
  | .iaddImm _ => some ⟨.g, .g, .z, .z, true⟩
  | .isub _ _ => some ⟨.g, .g, .g, .z, true⟩
  | .ineg _ _ => some ⟨.g, .g, .z, .z, true⟩
  | .iabs _ _ => some ⟨.g, .g, .z, .z, true⟩
  | .imul _ _ => some ⟨.g, .g, .g, .z, true⟩
  | .imulImm _ => some ⟨.g, .g, .z, .z, true⟩
  | .imulh _ _ => some ⟨.g, .g, .g, .z, true⟩
  | .imad _ _ => some ⟨.g, .g, .g, .g, true⟩
  | .idiv _ _ => some ⟨.g, .g, .g, .z, true⟩
  | .irem _ _ => some ⟨.g, .g, .g, .z, true⟩
  | .imin _ _ => some ⟨.g, .g, .g, .z, true⟩
  | .iminImm _ => some ⟨.g, .g, .z, .z, true⟩
  | .imax _ _ => some ⟨.g, .g, .g, .z, true⟩
  | .imaxImm _ => some ⟨.g, .g, .z, .z, true⟩
  | .and _ _ => some ⟨.g, .g, .g, .z, true⟩
  | .andImm _ => some ⟨.g, .g, .z, .z, true⟩
  | .or _ _ => some ⟨.g, .g, .g, .z, true⟩
  | .orImm _ => some ⟨.g, .g, .z, .z, true⟩
  | .xor _ _ => some ⟨.g, .g, .g, .z, true⟩
  | .xorImm _ => some ⟨.g, .g, .z, .z, true⟩
  | .andn _ _ => some ⟨.g, .g, .g, .z, true⟩
  | .shl _ m => some ⟨.g, .g, if m.i then .z else .g, .z, true⟩
  | .shr _ m => some ⟨.g, .g, if m.i then .z else .g, .z, true⟩
  | .sar _ m => some ⟨.g, .g, if m.i then .z else .g, .z, true⟩
  | .rol _ m => some ⟨.g, .g, if m.i then .z else .g, .z, true⟩
  | .clz _ _ => some ⟨.g, .g, .z, .z, true⟩
  | .ctz _ _ => some ⟨.g, .g, .z, .z, true⟩
  | .popc _ _ => some ⟨.g, .g, .z, .z, true⟩
  | .brev _ _ => some ⟨.g, .g, .z, .z, true⟩
  | .bfx _ _ => some ⟨.g, .g, .z, .z, true⟩
  | .bfi _ _ => some ⟨.g, .g, .g, .z, true⟩
  | .icmp _ _ => some ⟨.p, .g, .g, .z, true⟩
  | .icmpImm _ => some ⟨.p, .g, .z, .z, true⟩
  | .sel _ => some ⟨.g, .g, .g, .p, true⟩
  | .mov _ => some ⟨.g, .g, .z, .z, true⟩
  | .movi _ => some ⟨.g, .z, .z, .z, true⟩
  | .movh _ => some ⟨.g, .g, .z, .z, true⟩
  | .lea _ _ => some ⟨.g, .g, .g, .z, true⟩
  | .leaImm _ => some ⟨.g, .g, .z, .z, true⟩
  | .pand _ _ => some ⟨.p, .p, .p, .z, true⟩
  | .por _ _ => some ⟨.p, .p, .p, .z, true⟩
  | .pxor _ _ => some ⟨.p, .p, .p, .z, true⟩
  | .pnot _ => some ⟨.p, .p, .z, .z, true⟩
  | .fadd _ _ => some ⟨.g, .g, .g, .z, true⟩
  | .fsub _ _ => some ⟨.g, .g, .g, .z, true⟩
  | .fmul _ _ => some ⟨.g, .g, .g, .z, true⟩
  | .ffma _ _ => some ⟨.g, .g, .g, .g, true⟩
  | .fmin _ _ => some ⟨.g, .g, .g, .z, true⟩
  | .fmax _ _ => some ⟨.g, .g, .g, .z, true⟩
  | .fabs _ _ => some ⟨.g, .g, .z, .z, true⟩
  | .fneg _ _ => some ⟨.g, .g, .z, .z, true⟩
  | .fcmp _ _ => some ⟨.p, .g, .g, .z, true⟩
  | .fclass _ _ => some ⟨.g, .g, .z, .z, true⟩
  | .frcp _ _ => some ⟨.g, .g, .z, .z, true⟩
  | .frsq _ _ => some ⟨.g, .g, .z, .z, true⟩
  | .fsqrt _ _ => some ⟨.g, .g, .z, .z, true⟩
  | .fex2 _ _ => some ⟨.g, .g, .z, .z, true⟩
  | .flg2 _ _ => some ⟨.g, .g, .z, .z, true⟩
  | .fcvt _ _ => some ⟨.g, .g, .z, .z, true⟩
  | .itof _ _ => some ⟨.g, .g, .z, .z, true⟩
  | .ftoi _ _ => some ⟨.g, .g, .z, .z, true⟩
  | .wadd _ _ => some ⟨.w, .w, .w, .z, true⟩
  | .wsub _ _ => some ⟨.w, .w, .w, .z, true⟩
  | .wmul _ _ => some ⟨.w, .w, .w, .z, true⟩
  | .wfma _ _ => some ⟨.w, .w, .w, .w, true⟩
  | .wmin _ _ => some ⟨.w, .w, .w, .z, true⟩
  | .wmax _ _ => some ⟨.w, .w, .w, .z, true⟩
  | .wact _ _ => some ⟨.w, .w, .z, .z, true⟩
  | .wrsum _ _ => some ⟨.g, .w, .z, .g, true⟩
  | .wdot _ _ => some ⟨.g, .w, .w, .g, true⟩
  | .wcvt _ _ => some ⟨.w, .w, .z, .z, true⟩
  | .wqnt _ m => some ⟨.w, .w, if m.sc then .w else .z, .z, true⟩
  | .wdq _ _ => some ⟨.w, .w, .z, .z, true⟩
  | .wscl _ m => some ⟨if m.fn = 0 then .g else .w, .w, if m.fn = 0 then .z else .g, .z, true⟩
  | .wprm _ m => some ⟨.w, .w, if m.fn = 0 then .w else .z, .z, true⟩
  | .wbc _ m => some ⟨.w, if m.fn = 0 then .w else .z, if m.fn = 1 then .g else .z, .z, true⟩
  | .wcmp _ _ => some ⟨.g, .w, .w, .z, true⟩
  | .wsel _ _ => some ⟨.w, .w, .w, .g, true⟩
  | .wins _ _ => some ⟨.w, .w, .g, .z, true⟩
  | .wext _ _ => some ⟨.g, .w, .z, .z, true⟩
  | .mset _ _ => some ⟨.m, .g, .g, .z, true⟩
  | .mcol _ m => some ⟨.g, .m, if m.fn = 3 ∨ m.fn = 4 then .g else .z, .z, true⟩
  | .mmov _ m => some ⟨if m.fn = 1 then .g else .m, if m.fn = 2 then .g else .m, .z, .z, true⟩
  | .madd _ _ => some ⟨.m, .m, .m, .z, true⟩
  | .msub _ _ => some ⟨.m, .m, .m, .z, true⟩
  | .mmul _ _ => some ⟨.m, .m, .m, .z, true⟩
  | .mscl _ _ => some ⟨.m, .m, .g, .g, true⟩
  | .maddc _ _ => some ⟨.m, .m, .m, .g, true⟩
  | .mfma _ _ => some ⟨.m, .m, .m, .m, true⟩
  | .mrel _ _ => some ⟨.m, .m, .z, .z, true⟩
  | .msig _ _ => some ⟨.m, .m, .z, .z, true⟩
  | .mexp _ _ => some ⟨.m, .m, .z, .z, true⟩
  | .mchk _ m => some ⟨if m.fn = 0 then .p else .z, .m, .z, .z, m.fn == 0⟩
  | .ldU8 _ => some ⟨.g, .g, .z, .z, false⟩
  | .ldS8 _ => some ⟨.g, .g, .z, .z, false⟩
  | .ldU16 _ => some ⟨.g, .g, .z, .z, false⟩
  | .ldS16 _ => some ⟨.g, .g, .z, .z, false⟩
  | .ldU32 _ => some ⟨.g, .g, .z, .z, false⟩
  | .ldS32 _ => some ⟨.g, .g, .z, .z, false⟩
  | .ld64 _ => some ⟨.g, .g, .z, .z, false⟩
  | .ldG _ => some ⟨.w, .g, .z, .z, false⟩
  | .ldGE _ => some ⟨.w, .g, .z, .z, false⟩
  | .ldGS _ => some ⟨.w, .g, .z, .z, false⟩
  | .st8 _ => some ⟨.z, .g, .g, .z, false⟩
  | .st16 _ => some ⟨.z, .g, .g, .z, false⟩
  | .st32 _ => some ⟨.z, .g, .g, .z, false⟩
  | .st64 _ => some ⟨.z, .g, .g, .z, false⟩
  | .stG _ => some ⟨.z, .g, .w, .z, false⟩
  | .stGE _ => some ⟨.z, .g, .w, .z, false⟩
  | .stGS _ => some ⟨.z, .g, .w, .z, false⟩
  | .stn _ => some ⟨.own, .g, .w, .z, false⟩
  | .atom _ => some ⟨.g, .g, .g, .z, false⟩
  | .red _ => some ⟨.z, .g, .g, .z, false⟩
  | .cas _ => some ⟨.g, .g, .g, .z, false⟩
  | .fence _ _ _ => some ⟨.z, .z, .z, .z, false⟩
  | .pin _ => some ⟨.g, .g, .g, .z, false⟩
  | .unpin _ => some ⟨.z, .g, .g, .z, false⟩
  | .cclean _ => some ⟨.z, .g, .g, .z, false⟩
  | .cinv _ => some ⟨.z, .g, .g, .z, false⟩
  | .pref _ => some ⟨.z, .g, .z, .z, false⟩
  | .probe _ => some ⟨.g, .g, .z, .z, false⟩
  | .bred _ _ _ => some ⟨.z, .g, .w, .z, false⟩
  | .bupd _ _ => some ⟨.g, .g, .z, .z, false⟩
  | .mld _ => some ⟨.m, .g, .z, .z, false⟩
  | .mst _ => some ⟨.z, .g, .m, .z, false⟩
  | .wkset _ _ => some ⟨.z, .g, .z, .z, false⟩
  | .bread _ _ _ _ _ _ => some ⟨.g, .g, .g, .g, false⟩
  | .hexit _ err => some ⟨.z, if err then .g else .z, .z, .z, false⟩
  | .acopy _ _ _ _ _ _ _ => some ⟨.g, .z, .z, .z, false⟩
  | .acopyt _ _ mode _ _ _ _ => some ⟨.g, .g, if mode = 2 ∨ mode = 3 then .w else .z, .tile, false⟩
  | .talloc _ _ => some ⟨.g, .g, .z, .tile, false⟩
  | .tfree _ => some ⟨.z, .z, .z, .tile, false⟩
  | .tstat _ => some ⟨.g, .z, .z, .tile, false⟩
  | .tlwait _ _ => some ⟨.z, .g, .z, .z, false⟩
  | .tlread _ _ _ => some ⟨.g, .z, .z, .z, false⟩
  | .cstat _ _ => some ⟨.g, .g, .z, .z, false⟩
  | .ccancel _ _ _ => some ⟨.z, .g, .z, .z, false⟩
  | .xbind _ => some ⟨.g, .g, .z, .z, false⟩
  | .xbindU _ => some ⟨.g, .z, .z, .z, false⟩
  | .xbindQ _ => some ⟨.g, .z, .z, .z, false⟩
  | .acrd _ _ _ _ m _ => some ⟨if m then .m else .w, .g, .g, .acc, false⟩
  | .acwm _ => some ⟨.g, .g, .z, .acc, false⟩
  | .acovf _ _ => some ⟨.g, .z, .z, .acc, false⟩
  | .rput _ => some ⟨.own, .g, .w, .z, false⟩
  | .rget _ => some ⟨.w, .g, .own, .z, false⟩
  | .ratom f => some ⟨if f.nr then .z else .w, .g, .w, .z, false⟩
  | .rputm _ _ _ _ => some ⟨.z, .g, .w, .g, false⟩
  | .coll _ => some ⟨.g, .g, .z, .z, false⟩
  | .topov _ d => some ⟨.g, if d then .g else .z, .z, .z, false⟩
  | .psendData _ _ => some ⟨.g, .g, .g, .g, false⟩
  | .psendReduce _ _ _ => some ⟨.g, .g, .g, .g, false⟩
  | .psendDone _ _ => some ⟨.g, .z, .g, .g, false⟩
  | .precv _ => some ⟨.g, .g, .g, .z, false⟩
  | .pred _ _ _ _ => some ⟨.g, .g, .g, .g, false⟩
  | .pqnt _ _ _ _ => some ⟨.g, .g, .g, .g, false⟩
  | .pwait _ _ _ => some ⟨.z, .g, .z, .z, false⟩
  | .proute _ => some ⟨.g, .g, .z, .z, false⟩
  | .trap _ _ => some ⟨.z, .z, .z, .z, false⟩
  | .eret _ => some ⟨.z, .z, .z, .z, false⟩
  | .gets _ _ => some ⟨.g, .z, .z, .z, true⟩
  | .sets _ _ => some ⟨.z, .g, .z, .z, false⟩
  | .brk _ _ => some ⟨.z, .z, .z, .z, false⟩
  | .icinv _ all _ => some ⟨.z, if all then .z else .g, if all then .z else .g, .z, false⟩
  | .tlbi _ kind _ => some ⟨.z, if kind = 0 then .g else .z, .z, .z, false⟩
  | .halt _ => some ⟨.z, .z, .z, .z, false⟩
  | .time _ => some ⟨.g, .z, .z, .z, true⟩
  | .perf _ _ _ => some ⟨.z, .g, .z, .z, false⟩
  | .slotwBind _ => some ⟨.g, .g, .z, .z, false⟩
  | .slotwStop _ => some ⟨.g, .g, .z, .z, false⟩
  | .slotwRelease _ => some ⟨.g, .g, .z, .z, false⟩
  | .slotwKill _ => some ⟨.g, .g, .z, .z, false⟩
  | .slotwSet _ => some ⟨.g, .g, .z, .z, false⟩
  | .ctxsave _ => some ⟨.g, .g, .g, .z, false⟩
  | .ctxload _ => some ⟨.g, .g, .g, .z, false⟩
  | .waitev _ => some ⟨.g, .z, .z, .z, false⟩
  | .xnop => none
  | .xend => none
  | .xloop _ _ => none
  | .xlay _ => none
  | .xbw _ => none
  | .xba _ _ => none
  | .xlds _ _ _ => none
  | .xswp => none
  | .xzero _ _ _ => none
  | .xout _ _ _ _ _ _ _ _ => none
  | .xmma _ _ _ _ _ => none
  | .xmms _ _ _ _ _ => none
  | .xdual _ _ _ _ _ _ _ _ => none
  | .xmom _ _ _ _ _ _ _ _ => none
  | .issueGroup _ _ => none
  | .asyncTrapDelivery _ => none
  | .deferredWrite _ => none
  | .sleepWake _ => none
  | .starvation _ => none
  | .storeDrain _ _ => none
  | .storeAtHome _ => none
  | .storeAck _ => none
  | .loadAtHome _ _ => none
  | .atomicAtHome _ => none
  | .bfaAdd _ => none
  | .burstRequest _ => none
  | .burstArrival _ _ => none
  | .handlerAdmit _ => none
  | .lastBurst _ => none
  | .copyUnit _ => none
  | .copyComplete _ => none
  | .tileScrubEnd _ _ => none
  | .tileAddLand _ => none
  | .acrdRead _ => none
  | .acwmResult _ => none
  | .packetHop _ => none
  | .icinvComplete _ => none
  | .tlbiComplete _ => none
  | .bootStart _ _ _ _ _ => none
  | .llsDecay _ => none
  | .rjhTimeout _ _ => none
  | .bandNumberRelease _ _ => none
  | .trussRelease _ => none
  | .trussReleaseArrival _ _ => none
  | .partMaskWrite _ => none
  | .pageWalk _ _ _ => none
  | .verdictReply _ _ _ _ _ => none
  | .cacheLineExpiry _ _ _ => none
  | .bupdElement _ _ => none
  | .eccError _ _ => none
  | .windowTableWrite _ _ _ _ _ => none
  | .scrubGo _ => none
  | .scrubDone _ => none
  | .faultRetry _ _ => none
  | .faultAbandon _ _ => none
  | .entryStopped _ _ => none
  | .scanOut _ _ => none
  | .entryActivate _ _ => none
  | .entryRestore _ _ => none
  | .quantumExpiry _ _ => none
  | .entryDone _ _ => none
  | .entryKillDone _ _ => none
  | .threadResume _ => none
  | .threadKill _ => none
  | .threadPcWrite _ _ => none
  | .ctxCreate _ _ => none
  | .ctxKill _ _ => none
  | .ctxFree _ _ => none
  | .bandKill _ _ => none
  | .chunkSend _ _ => none
  | .dlaunchEntryFree _ _ => none
  | .windowSpill _ => none
  | .windowFill _ => none
  | .normAcc _ _ _ => none
  | .normZero _ _ => none
  | .normStatWrite _ _ _ => none
  | .arrayRowFinal _ _ => none
  | .streamInstrComplete _ _ => none
  | .linkTrain _ _ _ => none
  | .linkTakeDown _ _ _ => none
  | .linkPartnerDetect _ _ _ _ => none
  | .linkTrainResult _ _ _ _ => none
  | .linkStateTimeout _ _ _ => none
  | .linkLaneFail _ _ _ _ => none
  | .flitCrcRetry _ _ _ _ => none
  | .portWaitTimeout _ => none
  | .multicastReplicate _ => none
  | .ppPacketArrival _ => none
  | .versionHoldTimeout _ => none
  | .collAccept _ => none
  | .collAbort _ => none
  | .doneDelivery _ => none
  | .topologyVersionWrite _ _ => none
  | .extPacketReceive _ _ _ _ => none
  | .hostRdmaWrite _ _ _ _ => none
  | .hostRdmaRead _ _ _ _ => none
  | .hostRdmaAtomic _ _ _ _ _ _ => none
  | .alarmSensor _ _ => none
  | .telemetryUpdate _ _ _ _ _ => none
  | .clockStepDown _ => none
  | .clockStepUp _ => none
  | .currentLimitWrite _ _ => none
  | .thermalUpdate _ _ _ => none
  | .ringLockLoss _ _ => none
  | .wearSample _ _ _ _ => none
  | .ctxsaveDone _ _ => none
  | .ctxloadDone _ _ => none
  | .registerWrite _ _ _ => none
  | .ccleanCinvComplete _ => none
  | .deliveryGiveUp _ => none
  | .ringLockRegain _ _ => none
  | .streamWordFault _ _ => none
  | .powerOnReset => none
  | .waferRelease => none
  | .clauseCommit => none
  | .alarmContextsKilled => none
  | .keyEraseDone => none
  | .powerOff => none

/-- The register fields as the instruction word holds them. -/
def Instr.fields : Instr → Option Fields
  | .nop b => some b.fields
  | .yield_ b => some b.fields
  | .sleep b _ => some b.fields
  | .exit b => some b.fields
  | .bra j => some j.fields
  | .brc j => some j.fields
  | .brx b => some b.fields
  | .call j => some j.fields
  | .callx b => some b.fields
  | .ret b => some b.fields
  | .spawn b _ => some b.fields
  | .bandnew b => some b.fields
  | .join b => some b.fields
  | .leave b => some b.fields
  | .bandq b _ => some b.fields
  | .rjen b _ => some b.fields
  | .rjwait b _ => some b.fields
  | .rjstrike b _ => some b.fields
  | .bari b _ => some b.fields
  | .bara b _ _ _ => some b.fields
  | .barx b _ => some b.fields
  | .barw b _ _ => some b.fields
  | .bart b _ _ => some b.fields
  | .vote b _ => some b.fields
  | .shfl b _ _ => some b.fields
  | .tra b _ => some b.fields
  | .trw b _ => some b.fields
  | .trq b _ => some b.fields
  | .klaunch b => some b.fields
  | .iadd b _ => some b.fields
  | .iaddImm l => some l.fields
  | .isub b _ => some b.fields
  | .ineg b _ => some b.fields
  | .iabs b _ => some b.fields
  | .imul b _ => some b.fields
  | .imulImm l => some l.fields
  | .imulh b _ => some b.fields
  | .imad b _ => some b.fields
  | .idiv b _ => some b.fields
  | .irem b _ => some b.fields
  | .imin b _ => some b.fields
  | .iminImm l => some l.fields
  | .imax b _ => some b.fields
  | .imaxImm l => some l.fields
  | .and b _ => some b.fields
  | .andImm l => some l.fields
  | .or b _ => some b.fields
  | .orImm l => some l.fields
  | .xor b _ => some b.fields
  | .xorImm l => some l.fields
  | .andn b _ => some b.fields
  | .shl b _ => some b.fields
  | .shr b _ => some b.fields
  | .sar b _ => some b.fields
  | .rol b _ => some b.fields
  | .clz b _ => some b.fields
  | .ctz b _ => some b.fields
  | .popc b _ => some b.fields
  | .brev b _ => some b.fields
  | .bfx b _ => some b.fields
  | .bfi b _ => some b.fields
  | .icmp b _ => some b.fields
  | .icmpImm l => some l.fields
  | .sel b => some b.fields
  | .mov b => some b.fields
  | .movi l => some l.fields
  | .movh l => some l.fields
  | .lea b _ => some b.fields
  | .leaImm l => some l.fields
  | .pand b _ => some b.fields
  | .por b _ => some b.fields
  | .pxor b _ => some b.fields
  | .pnot b => some b.fields
  | .fadd b _ => some b.fields
  | .fsub b _ => some b.fields
  | .fmul b _ => some b.fields
  | .ffma b _ => some b.fields
  | .fmin b _ => some b.fields
  | .fmax b _ => some b.fields
  | .fabs b _ => some b.fields
  | .fneg b _ => some b.fields
  | .fcmp b _ => some b.fields
  | .fclass b _ => some b.fields
  | .frcp b _ => some b.fields
  | .frsq b _ => some b.fields
  | .fsqrt b _ => some b.fields
  | .fex2 b _ => some b.fields
  | .flg2 b _ => some b.fields
  | .fcvt b _ => some b.fields
  | .itof b _ => some b.fields
  | .ftoi b _ => some b.fields
  | .wadd b _ => some b.fields
  | .wsub b _ => some b.fields
  | .wmul b _ => some b.fields
  | .wfma b _ => some b.fields
  | .wmin b _ => some b.fields
  | .wmax b _ => some b.fields
  | .wact b _ => some b.fields
  | .wrsum b _ => some b.fields
  | .wdot b _ => some b.fields
  | .wcvt b _ => some b.fields
  | .wqnt b _ => some b.fields
  | .wdq b _ => some b.fields
  | .wscl b _ => some b.fields
  | .wprm b _ => some b.fields
  | .wbc b _ => some b.fields
  | .wcmp b _ => some b.fields
  | .wsel b _ => some b.fields
  | .wins b _ => some b.fields
  | .wext b _ => some b.fields
  | .mset b _ => some b.fields
  | .mcol b _ => some b.fields
  | .mmov b _ => some b.fields
  | .madd b _ => some b.fields
  | .msub b _ => some b.fields
  | .mmul b _ => some b.fields
  | .mscl b _ => some b.fields
  | .maddc b _ => some b.fields
  | .mfma b _ => some b.fields
  | .mrel b _ => some b.fields
  | .msig b _ => some b.fields
  | .mexp b _ => some b.fields
  | .mchk b _ => some b.fields
  | .ldU8 f => some f.fields
  | .ldS8 f => some f.fields
  | .ldU16 f => some f.fields
  | .ldS16 f => some f.fields
  | .ldU32 f => some f.fields
  | .ldS32 f => some f.fields
  | .ld64 f => some f.fields
  | .ldG f => some f.fields
  | .ldGE f => some f.fields
  | .ldGS f => some f.fields
  | .st8 f => some f.fields
  | .st16 f => some f.fields
  | .st32 f => some f.fields
  | .st64 f => some f.fields
  | .stG f => some f.fields
  | .stGE f => some f.fields
  | .stGS f => some f.fields
  | .stn f => some f.fields
  | .atom f => some f.fields
  | .red f => some f.fields
  | .cas f => some f.fields
  | .fence q _ _ => some q.fields
  | .pin q => some q.fields
  | .unpin q => some q.fields
  | .cclean q => some q.fields
  | .cinv q => some q.fields
  | .pref f => some f.fields
  | .probe f => some f.fields
  | .bred q _ _ => some q.fields
  | .bupd q _ => some q.fields
  | .mld f => some f.fields
  | .mst f => some f.fields
  | .wkset q _ => some q.fields
  | .bread q _ _ _ _ _ => some q.fields
  | .hexit q _ => some q.fields
  | .acopy q _ _ _ _ _ _ => some q.fields
  | .acopyt q _ _ _ _ _ _ => some q.fields
  | .talloc q _ => some q.fields
  | .tfree q => some q.fields
  | .tstat q => some q.fields
  | .tlwait q _ => some q.fields
  | .tlread q _ _ => some q.fields
  | .cstat q _ => some q.fields
  | .ccancel q _ _ => some q.fields
  | .xbind q => some q.fields
  | .xbindU q => some q.fields
  | .xbindQ q => some q.fields
  | .acrd q _ _ _ _ _ => some q.fields
  | .acwm q => some q.fields
  | .acovf q _ => some q.fields
  | .rput f => some f.fields
  | .rget f => some f.fields
  | .ratom f => some f.fields
  | .rputm q _ _ _ => some q.fields
  | .coll q => some q.fields
  | .topov q _ => some q.fields
  | .psendData q _ => some q.fields
  | .psendReduce q _ _ => some q.fields
  | .psendDone q _ => some q.fields
  | .precv q => some q.fields
  | .pred q _ _ _ => some q.fields
  | .pqnt q _ _ _ => some q.fields
  | .pwait q _ _ => some q.fields
  | .proute q => some q.fields
  | .trap b _ => some b.fields
  | .eret b => some b.fields
  | .gets b _ => some b.fields
  | .sets b _ => some b.fields
  | .brk b _ => some b.fields
  | .icinv b _ _ => some b.fields
  | .tlbi b _ _ => some b.fields
  | .halt b => some b.fields
  | .time b => some b.fields
  | .perf b _ _ => some b.fields
  | .slotwBind b => some b.fields
  | .slotwStop b => some b.fields
  | .slotwRelease b => some b.fields
  | .slotwKill b => some b.fields
  | .slotwSet b => some b.fields
  | .ctxsave b => some b.fields
  | .ctxload b => some b.fields
  | .waitev b => some b.fields
  | .xnop => none
  | .xend => none
  | .xloop _ _ => none
  | .xlay _ => none
  | .xbw _ => none
  | .xba _ _ => none
  | .xlds _ _ _ => none
  | .xswp => none
  | .xzero _ _ _ => none
  | .xout _ _ _ _ _ _ _ _ => none
  | .xmma _ _ _ _ _ => none
  | .xmms _ _ _ _ _ => none
  | .xdual _ _ _ _ _ _ _ _ => none
  | .xmom _ _ _ _ _ _ _ _ => none
  | .issueGroup _ _ => none
  | .asyncTrapDelivery _ => none
  | .deferredWrite _ => none
  | .sleepWake _ => none
  | .starvation _ => none
  | .storeDrain _ _ => none
  | .storeAtHome _ => none
  | .storeAck _ => none
  | .loadAtHome _ _ => none
  | .atomicAtHome _ => none
  | .bfaAdd _ => none
  | .burstRequest _ => none
  | .burstArrival _ _ => none
  | .handlerAdmit _ => none
  | .lastBurst _ => none
  | .copyUnit _ => none
  | .copyComplete _ => none
  | .tileScrubEnd _ _ => none
  | .tileAddLand _ => none
  | .acrdRead _ => none
  | .acwmResult _ => none
  | .packetHop _ => none
  | .icinvComplete _ => none
  | .tlbiComplete _ => none
  | .bootStart _ _ _ _ _ => none
  | .llsDecay _ => none
  | .rjhTimeout _ _ => none
  | .bandNumberRelease _ _ => none
  | .trussRelease _ => none
  | .trussReleaseArrival _ _ => none
  | .partMaskWrite _ => none
  | .pageWalk _ _ _ => none
  | .verdictReply _ _ _ _ _ => none
  | .cacheLineExpiry _ _ _ => none
  | .bupdElement _ _ => none
  | .eccError _ _ => none
  | .windowTableWrite _ _ _ _ _ => none
  | .scrubGo _ => none
  | .scrubDone _ => none
  | .faultRetry _ _ => none
  | .faultAbandon _ _ => none
  | .entryStopped _ _ => none
  | .scanOut _ _ => none
  | .entryActivate _ _ => none
  | .entryRestore _ _ => none
  | .quantumExpiry _ _ => none
  | .entryDone _ _ => none
  | .entryKillDone _ _ => none
  | .threadResume _ => none
  | .threadKill _ => none
  | .threadPcWrite _ _ => none
  | .ctxCreate _ _ => none
  | .ctxKill _ _ => none
  | .ctxFree _ _ => none
  | .bandKill _ _ => none
  | .chunkSend _ _ => none
  | .dlaunchEntryFree _ _ => none
  | .windowSpill _ => none
  | .windowFill _ => none
  | .normAcc _ _ _ => none
  | .normZero _ _ => none
  | .normStatWrite _ _ _ => none
  | .arrayRowFinal _ _ => none
  | .streamInstrComplete _ _ => none
  | .linkTrain _ _ _ => none
  | .linkTakeDown _ _ _ => none
  | .linkPartnerDetect _ _ _ _ => none
  | .linkTrainResult _ _ _ _ => none
  | .linkStateTimeout _ _ _ => none
  | .linkLaneFail _ _ _ _ => none
  | .flitCrcRetry _ _ _ _ => none
  | .portWaitTimeout _ => none
  | .multicastReplicate _ => none
  | .ppPacketArrival _ => none
  | .versionHoldTimeout _ => none
  | .collAccept _ => none
  | .collAbort _ => none
  | .doneDelivery _ => none
  | .topologyVersionWrite _ _ => none
  | .extPacketReceive _ _ _ _ => none
  | .hostRdmaWrite _ _ _ _ => none
  | .hostRdmaRead _ _ _ _ => none
  | .hostRdmaAtomic _ _ _ _ _ _ => none
  | .alarmSensor _ _ => none
  | .telemetryUpdate _ _ _ _ _ => none
  | .clockStepDown _ => none
  | .clockStepUp _ => none
  | .currentLimitWrite _ _ => none
  | .thermalUpdate _ _ _ => none
  | .ringLockLoss _ _ => none
  | .wearSample _ _ _ _ => none
  | .ctxsaveDone _ _ => none
  | .ctxloadDone _ _ => none
  | .registerWrite _ _ _ => none
  | .ccleanCinvComplete _ => none
  | .deliveryGiveUp _ => none
  | .ringLockRegain _ _ => none
  | .streamWordFault _ _ => none
  | .powerOnReset => none
  | .waferRelease => none
  | .clauseCommit => none
  | .alarmContextsKilled => none
  | .keyEraseDone => none
  | .powerOff => none

/-- Whether the modifier fields hold values their encoding table accepts (condition 7 of R59). -/
def Instr.modsOk : Instr → Bool
  | .bandq _ q => q.toNat ≤ 3
  | .shfl _ _ seg => seg.toNat ≤ 5
  | .iadd _ m | .isub _ m | .ineg _ m | .iabs _ m => m.only true false true false false false false
  | .imul _ m | .imad _ m | .and _ m | .or _ m | .xor _ m | .andn _ m | .clz _ m | .ctz _ m | .popc _ m
  | .brev _ m => m.only true false false false false false false
  | .imulh _ m | .idiv _ m | .irem _ m | .imin _ m | .imax _ m => m.only true true false false false false false
  | .shl _ m | .shr _ m | .sar _ m | .rol _ m => m.only true false false true false true false && (m.i || m.pos == 0)
  | .bfx _ m => m.only true true false false false true true && decide (m.pos.toNat + m.lenm1.toNat + 1 ≤ m.width)
  | .bfi _ m => m.only true false false false false true true && decide (m.pos.toNat + m.lenm1.toNat + 1 ≤ m.width)
  | .icmp _ m => m.only true true false false true false false && decide (m.cond.toNat ≤ 5)
  | .lea _ m => m.only true true false false true false false && (!m.u || m.w)
  | .pand _ m | .por _ m | .pxor _ m => m.only true true false false false false false
  | .icmpImm l => decide (l.imm.toNat / 2 ^ 28 ≤ 9)
  | .fadd _ m | .fsub _ m | .fmul _ m | .ffma _ m | .frcp _ m | .frsq _ m | .fsqrt _ m | .fex2 _ m | .flg2 _ m =>
    m.only true false false false
  | .fmin _ m | .fmax _ m | .fabs _ m | .fneg _ m | .fclass _ m => m.only false false false false
  | .fcmp _ m => m.only false false true false && decide (m.cond.toNat ≤ 7)
  | .fcvt _ m => m.only true false false true && decide (m.fmt.code ≤ 4) && decide (m.fmt2.code ≤ 4) &&
      (!m.ftz || m.fmt2.isFp8)
  | .itof _ m | .ftoi _ m => m.only true true false false
  | .wadd _ m | .wsub _ m | .wmul _ m | .wfma _ m | .wmin _ m | .wmax _ m =>
    m.only false true true true true false false && decide (m.fmt.code ≤ 5) && (!m.ftz || m.fmt.isFp8) &&
      (!m.sc || !m.fmt.isPlain) && (!m.p2 || m.sc)
  | .wact _ m => m.only false true false false false true false &&
      (if m.fn = 0 then decide (m.fmt.code ≤ 5) else decide (m.fn.toNat ≤ 4) && m.fmt.isPlain)
  | .wrsum _ m => m.only false true false false false true false && decide (m.fn.toNat ≤ 4)
  | .wdot _ m => m.only false true false false false false false
  | .wcvt _ m => m.only true true false false false false true && m.fmt.isPlain && m.fmt2.isPlain &&
      decide (m.idx.toNat < m.parts)
  | .wqnt _ m => m.only true true true true true false false && m.fmt.isPlain && !m.fmt2.isPlain &&
      (!m.ftz || m.fmt2.isFp8) && (!m.p2 || !m.sc)
  | .wdq _ m => m.only true true false false false false true && !m.fmt.isPlain && m.fmt2.isPlain &&
      decide (m.idx.toNat < m.parts)
  | .wscl _ m => m.only false false false false false true false && m.fmt == .f32 && decide (m.fn.toNat ≤ 3)
  | .wprm _ m => m.only false false false false false true true &&
      (match m.fn.toNat with
        | 0 => m.idx == 0 && decide (4 < m.fmt.bits)
        | 1 | 2 => decide (m.idx.toNat < m.fmt.count)
        | 3 => m.idx == 0
        | _ => false)
  | .wbc _ m => m.only false false false false false true true &&
      (match m.fn.toNat with
        | 0 => decide (m.idx.toNat < m.fmt.count)
        | 1 => m.idx == 0
        | _ => false)
  | .wcmp _ m => m.only false false false false false true false && decide (m.fmt.code ≤ 5) && decide (m.fn.toNat ≤ 5)
  | .wsel _ m => m.only false false false false false false false
  | .wins _ m | .wext _ m => m.only false false false false false false true && decide (m.idx.toNat < m.fmt.count)
  | .mset _ m => m.only false false false false
  | .mcol _ m => m.only true true false false && decide (m.fn.toNat ≤ 5) && (decide (2 ≤ m.fn.toNat) || m.rnd == .dyn)
  | .mmov _ m => m.only false true false false && decide (m.fn.toNat ≤ 2)
  | .madd _ m | .msub _ m | .mmul _ m | .mfma _ m => m.only true false false true
  | .mscl _ m | .mrel _ m | .msig _ m | .mexp _ m => m.only true false false false
  | .maddc _ m => m.only true false true false
  | .mchk _ m => m.only false true false false && decide (m.fn.toNat ≤ 1)
  | .ldU8 f | .ldS8 f | .ldU16 f | .ldS16 f | .ldU32 f | .ldS32 f | .ld64 f | .ldG f | .ldGE f | .ldGS f | .mld f =>
    f.modsOk true true false true .must
  | .st8 f | .st16 f | .st32 f | .st64 f | .stG f | .stGE f | .stGS f | .mst f => f.modsOk true false true false .may
  | .stn f => f.modsOk true false true false .may && decide (f.dst.toNat < 48)
  | .atom f => f.modsOk true true true false .must && f.atomOk true
  | .red f => f.modsOk true false true false .may && f.atomOk false
  | .cas f => f.modsOk true true true false .must && f.atomOk true && decide (f.off.toNat % 16 = 0)
  | .fence q _ _ => SbUse.none.ok q.sbe q.sb
  | .pin q => SbUse.must.ok q.sbe q.sb
  | .unpin q => SbUse.none.ok q.sbe q.sb
  | .cclean q | .cinv q => SbUse.may.ok q.sbe q.sb
  | .pref f => f.modsOk false false false true .none && !f.inv
  | .probe f => f.modsOk false false false false .must
  | .bred q fmt part => SbUse.may.ok q.sbe q.sb && decide (fmt.code ≤ 5) &&
      decide ((part.toNat + 1) * fmt.count ≤ 32)
  | .bupd q _ => SbUse.must.ok q.sbe q.sb
  | .wkset q _ | .hexit q _ | .tfree q | .tlwait q _ => SbUse.none.ok q.sbe q.sb
  | .talloc q span => SbUse.none.ok q.sbe q.sb && decide (span.toNat ≤ 5)
  | .pwait q k mode => SbUse.none.ok q.sbe q.sb && decide (mode.toNat ≤ 2) &&
      (decide (mode.toNat ≠ 1) || decide (k.toNat < 16)) && (decide (mode.toNat ≠ 2) || k == 0)
  | .bread q _ bs _ _ _ => SbUse.must.ok q.sbe q.sb && decide (bs.toNat ≤ 2)
  | .acopy q _ _ _ _ _ _ => SbUse.must.ok q.sbe q.sb
  | .acopyt q _ mode wk _ _ _ => SbUse.must.ok q.sbe q.sb && decide (mode.toNat ≤ 3) &&
      (decide (mode.toNat < 2) || decide (wk.toNat ≤ 2))
  | .tstat q | .tlread q _ _ | .cstat q _ | .xbind q | .xbindU q | .xbindQ q | .acwm q | .acovf q _ =>
    SbUse.must.ok q.sbe q.sb
  | .ccancel q _ _ => SbUse.may.ok q.sbe q.sb
  | .acrd q fmt _ _ m aq => SbUse.must.ok q.sbe q.sb && fmt.isPlain && (m || aq == 0) && (!m || fmt == .f32)
  | .xlds _ fmt _ => 1 ≤ fmt.code
  | .xzero _ int sat => int || !sat
  | .xout _ _ fmt _ _ ne norm _ => decide (fmt.code ≤ 5) && (ne || norm == 0)
  | .xmma _ _ fmt _ _ | .xmms _ _ fmt _ _ => 1 ≤ fmt.code
  | .xdual _ _ _ _ fmt _ _ _ | .xmom _ _ _ _ fmt _ _ _ => fmt == .f16 || fmt == .bf16
  | .rput f => f.modsOk true false true false .may && decide (f.dst.toNat < 8) && decide (f.dst.toNat % 4 < 3)
  | .rget f => f.modsOk true true false false .must &&
      (match f.b with | .reg n => decide (n.toNat < 3) | .latch _ => false)
  | .ratom f => f.modsOk true true true false (if f.nr then .may else .must) && f.ratomOk
  | .rputm q size _ _ => SbUse.may.ok q.sbe q.sb && decide (size.toNat ≤ 2)
  | .coll q | .topov q _ | .psendData q _ | .psendReduce q _ _ | .psendDone q _ | .precv q | .proute q =>
    SbUse.must.ok q.sbe q.sb
  | .pred q op bfa fmt => SbUse.must.ok q.sbe q.sb && fmt.isPlain && (!bfa || decide (op.toNat < 2))
  | .pqnt q _ fmt _ => SbUse.must.ok q.sbe q.sb && decide (3 ≤ fmt.code ∧ fmt.code ≤ 5)
  | .tlbi _ kind _ => kind.toNat ≤ 2
  | .perf _ counter clr => !clr || counter == 0
  | .nop _ | .yield_ _ | .sleep _ _ | .exit _ | .bra _ | .brc _ | .brx _ | .call _ | .callx _ | .ret _
  | .spawn _ _ | .bandnew _ | .join _ | .leave _ | .rjen _ _ | .rjwait _ _ | .rjstrike _ _ | .bari _ _
  | .bara _ _ _ _ | .barx _ _ | .barw _ _ _ | .bart _ _ _ | .vote _ _ | .tra _ _ | .trw _ _ | .trq _ _
  | .klaunch _ | .iaddImm _ | .imulImm _ | .iminImm _ | .imaxImm _ | .andImm _ | .orImm _ | .xorImm _ | .sel _
  | .mov _ | .movi _ | .movh _ | .leaImm _ | .pnot _ | .xnop | .xend | .xloop _ _ | .xlay _ | .xbw _ | .xba _ _
  | .xswp | .trap _ _ | .eret _ | .gets _ _ | .sets _ _ | .brk _ _ | .icinv _ _ _ | .halt _ | .time _
  | .slotwBind _ | .slotwStop _ | .slotwRelease _ | .slotwKill _ | .slotwSet _ | .ctxsave _ | .ctxload _
  | .waitev _ | .issueGroup _ _ | .asyncTrapDelivery _ | .deferredWrite _ | .sleepWake _ | .starvation _
  | .storeDrain _ _ | .storeAtHome _ | .storeAck _ | .loadAtHome _ _ | .atomicAtHome _ | .bfaAdd _
  | .burstRequest _ | .burstArrival _ _ | .handlerAdmit _ | .lastBurst _ | .copyUnit _ | .copyComplete _
  | .tileScrubEnd _ _ | .tileAddLand _ | .acrdRead _ | .acwmResult _ | .packetHop _ | .icinvComplete _
  | .tlbiComplete _ | .bootStart _ _ _ _ _ | .llsDecay _ | .rjhTimeout _ _ | .bandNumberRelease _ _
  | .trussRelease _ | .trussReleaseArrival _ _ | .partMaskWrite _ | .pageWalk _ _ _ | .verdictReply _ _ _ _ _
  | .cacheLineExpiry _ _ _ | .bupdElement _ _ | .eccError _ _ | .windowTableWrite _ _ _ _ _ | .scrubGo _
  | .scrubDone _ | .faultRetry _ _ | .faultAbandon _ _ | .entryStopped _ _ | .scanOut _ _ | .entryActivate _ _
  | .entryRestore _ _ | .quantumExpiry _ _ | .entryDone _ _ | .entryKillDone _ _ | .threadResume _ | .threadKill _
  | .threadPcWrite _ _ | .ctxCreate _ _ | .ctxKill _ _ | .ctxFree _ _ | .bandKill _ _ | .chunkSend _ _
  | .dlaunchEntryFree _ _ | .windowSpill _ | .windowFill _ | .normAcc _ _ _ | .normZero _ _ | .normStatWrite _ _ _
  | .arrayRowFinal _ _ | .streamInstrComplete _ _ | .linkTrain _ _ _ | .linkTakeDown _ _ _
  | .linkPartnerDetect _ _ _ _ | .linkTrainResult _ _ _ _ | .linkStateTimeout _ _ _ | .linkLaneFail _ _ _ _
  | .flitCrcRetry _ _ _ _ | .portWaitTimeout _ | .multicastReplicate _ | .ppPacketArrival _
  | .versionHoldTimeout _ | .collAccept _ | .collAbort _ | .doneDelivery _ | .topologyVersionWrite _ _
  | .extPacketReceive _ _ _ _ | .hostRdmaWrite _ _ _ _ | .hostRdmaRead _ _ _ _ | .hostRdmaAtomic _ _ _ _ _ _
  | .alarmSensor _ _ | .telemetryUpdate _ _ _ _ _ | .clockStepDown _ | .clockStepUp _ | .currentLimitWrite _ _
  | .thermalUpdate _ _ _ | .ringLockLoss _ _ | .wearSample _ _ _ _ | .ctxsaveDone _ _ | .ctxloadDone _ _
  | .registerWrite _ _ _ | .ccleanCinvComplete _ | .deliveryGiveUp _ | .ringLockRegain _ _ | .streamWordFault _ _
  | .powerOnReset | .waferRelease | .clauseCommit | .alarmContextsKilled | .keyEraseDone | .powerOff => true

/-- The register groups of the multi-register operands (R163, R248, R271, R305). -/
def Instr.groupsOk : Instr → Bool
  | .wcvt b m | .wqnt b m => b.a.groupOk m.group 15
  | .bread q _ _ _ _ _ => q.b.regGroupOk 4 31
  | .acopyt q _ mode wk _ _ _ => decide (mode.toNat < 2) || q.b.regGroupOk (2 ^ (wk.toNat + 1)) 15
  | .acrd q _ _ nc m _ => decide (q.dst.toNat + acrdRegs nc ≤ if m then 8 else 16)
  | .rput f => f.b.regGroupOk (sizeRegs (f.dst.toNat % 4)) 15
  | .rget f => decide (f.dst.toNat + sizeRegs (match f.b with | .reg n => n.toNat | .latch _ => 0) ≤ 16)
  | .rputm q size _ _ => q.b.regGroupOk (sizeRegs size.toNat) 15
  | .nop _ | .yield_ _ | .sleep _ _ | .exit _ | .bra _ | .brc _ | .brx _ | .call _ | .callx _ | .ret _
  | .spawn _ _ | .bandnew _ | .join _ | .leave _ | .bandq _ _ | .rjen _ _ | .rjwait _ _ | .rjstrike _ _
  | .bari _ _ | .bara _ _ _ _ | .barx _ _ | .barw _ _ _ | .bart _ _ _ | .vote _ _ | .shfl _ _ _ | .tra _ _
  | .trw _ _ | .trq _ _ | .klaunch _ | .iadd _ _ | .iaddImm _ | .isub _ _ | .ineg _ _ | .iabs _ _ | .imul _ _
  | .imulImm _ | .imulh _ _ | .imad _ _ | .idiv _ _ | .irem _ _ | .imin _ _ | .iminImm _ | .imax _ _ | .imaxImm _
  | .and _ _ | .andImm _ | .or _ _ | .orImm _ | .xor _ _ | .xorImm _ | .andn _ _ | .shl _ _ | .shr _ _ | .sar _ _
  | .rol _ _ | .clz _ _ | .ctz _ _ | .popc _ _ | .brev _ _ | .bfx _ _ | .bfi _ _ | .icmp _ _ | .icmpImm _ | .sel _
  | .mov _ | .movi _ | .movh _ | .lea _ _ | .leaImm _ | .pand _ _ | .por _ _ | .pxor _ _ | .pnot _ | .fadd _ _
  | .fsub _ _ | .fmul _ _ | .ffma _ _ | .fmin _ _ | .fmax _ _ | .fabs _ _ | .fneg _ _ | .fcmp _ _ | .fclass _ _
  | .frcp _ _ | .frsq _ _ | .fsqrt _ _ | .fex2 _ _ | .flg2 _ _ | .fcvt _ _ | .itof _ _ | .ftoi _ _ | .wadd _ _
  | .wsub _ _ | .wmul _ _ | .wfma _ _ | .wmin _ _ | .wmax _ _ | .wact _ _ | .wrsum _ _ | .wdot _ _ | .wdq _ _
  | .wscl _ _ | .wprm _ _ | .wbc _ _ | .wcmp _ _ | .wsel _ _ | .wins _ _ | .wext _ _ | .mset _ _ | .mcol _ _
  | .mmov _ _ | .madd _ _ | .msub _ _ | .mmul _ _ | .mscl _ _ | .maddc _ _ | .mfma _ _ | .mrel _ _ | .msig _ _
  | .mexp _ _ | .mchk _ _ | .ldU8 _ | .ldS8 _ | .ldU16 _ | .ldS16 _ | .ldU32 _ | .ldS32 _ | .ld64 _ | .ldG _
  | .ldGE _ | .ldGS _ | .st8 _ | .st16 _ | .st32 _ | .st64 _ | .stG _ | .stGE _ | .stGS _ | .stn _ | .atom _
  | .red _ | .cas _ | .fence _ _ _ | .pin _ | .unpin _ | .cclean _ | .cinv _ | .pref _ | .probe _ | .bred _ _ _
  | .bupd _ _ | .mld _ | .mst _ | .wkset _ _ | .hexit _ _ | .acopy _ _ _ _ _ _ _ | .talloc _ _ | .tfree _
  | .tstat _ | .tlwait _ _ | .tlread _ _ _ | .cstat _ _ | .ccancel _ _ _ | .xbind _ | .xbindU _ | .xbindQ _
  | .acwm _ | .acovf _ _ | .xnop | .xend | .xloop _ _ | .xlay _ | .xbw _ | .xba _ _ | .xlds _ _ _ | .xswp
  | .xzero _ _ _ | .xout _ _ _ _ _ _ _ _ | .xmma _ _ _ _ _ | .xmms _ _ _ _ _ | .xdual _ _ _ _ _ _ _ _
  | .xmom _ _ _ _ _ _ _ _ | .ratom _ | .coll _ | .topov _ _ | .psendData _ _ | .psendReduce _ _ _ | .psendDone _ _
  | .precv _ | .pred _ _ _ _ | .pqnt _ _ _ _ | .pwait _ _ _ | .proute _ | .trap _ _ | .eret _ | .gets _ _
  | .sets _ _ | .brk _ _ | .icinv _ _ _ | .tlbi _ _ _ | .halt _ | .time _ | .perf _ _ _ | .slotwBind _
  | .slotwStop _ | .slotwRelease _ | .slotwKill _ | .slotwSet _ | .ctxsave _ | .ctxload _ | .waitev _
  | .issueGroup _ _ | .asyncTrapDelivery _ | .deferredWrite _ | .sleepWake _ | .starvation _ | .storeDrain _ _
  | .storeAtHome _ | .storeAck _ | .loadAtHome _ _ | .atomicAtHome _ | .bfaAdd _ | .burstRequest _
  | .burstArrival _ _ | .handlerAdmit _ | .lastBurst _ | .copyUnit _ | .copyComplete _ | .tileScrubEnd _ _
  | .tileAddLand _ | .acrdRead _ | .acwmResult _ | .packetHop _ | .icinvComplete _ | .tlbiComplete _
  | .bootStart _ _ _ _ _ | .llsDecay _ | .rjhTimeout _ _ | .bandNumberRelease _ _ | .trussRelease _
  | .trussReleaseArrival _ _ | .partMaskWrite _ | .pageWalk _ _ _ | .verdictReply _ _ _ _ _
  | .cacheLineExpiry _ _ _ | .bupdElement _ _ | .eccError _ _ | .windowTableWrite _ _ _ _ _ | .scrubGo _
  | .scrubDone _ | .faultRetry _ _ | .faultAbandon _ _ | .entryStopped _ _ | .scanOut _ _ | .entryActivate _ _
  | .entryRestore _ _ | .quantumExpiry _ _ | .entryDone _ _ | .entryKillDone _ _ | .threadResume _ | .threadKill _
  | .threadPcWrite _ _ | .ctxCreate _ _ | .ctxKill _ _ | .ctxFree _ _ | .bandKill _ _ | .chunkSend _ _
  | .dlaunchEntryFree _ _ | .windowSpill _ | .windowFill _ | .normAcc _ _ _ | .normZero _ _ | .normStatWrite _ _ _
  | .arrayRowFinal _ _ | .streamInstrComplete _ _ | .linkTrain _ _ _ | .linkTakeDown _ _ _
  | .linkPartnerDetect _ _ _ _ | .linkTrainResult _ _ _ _ | .linkStateTimeout _ _ _ | .linkLaneFail _ _ _ _
  | .flitCrcRetry _ _ _ _ | .portWaitTimeout _ | .multicastReplicate _ | .ppPacketArrival _
  | .versionHoldTimeout _ | .collAccept _ | .collAbort _ | .doneDelivery _ | .topologyVersionWrite _ _
  | .extPacketReceive _ _ _ _ | .hostRdmaWrite _ _ _ _ | .hostRdmaRead _ _ _ _ | .hostRdmaAtomic _ _ _ _ _ _
  | .alarmSensor _ _ | .telemetryUpdate _ _ _ _ _ | .clockStepDown _ | .clockStepUp _ | .currentLimitWrite _ _
  | .thermalUpdate _ _ _ | .ringLockLoss _ _ | .wearSample _ _ _ _ | .ctxsaveDone _ _ | .ctxloadDone _ _
  | .registerWrite _ _ _ | .ccleanCinvComplete _ | .deliveryGiveUp _ | .ringLockRegain _ _ | .streamWordFault _ _
  | .powerOnReset | .waferRelease | .clauseCommit | .alarmContextsKilled | .keyEraseDone | .powerOff => true

/-- Condition 7 of R59: every field the opcode does not accept is zero. -/
def Instr.reservedOk (i : Instr) : Bool :=
  i.modsOk && (match i.shape, i.fields with | some s, some f => s.reservedOk f | _, _ => true)

/-- Condition 9 of R59, less the latch part: register numbers and groups lie in their files. -/
def Instr.operandOk (i : Instr) : Bool :=
  (match i.shape, i.fields with | some s, some f => s.operandOk f | _, _ => true) && i.groupsOk

/-- The instructions some word stands for. A row of SLOTW other than the first has the first row's word (R347). -/
def Instr.wellFormed (i : Instr) : Bool := i.reservedOk && i.operandOk && !i.isEvent

end Sys2Proof
end

