-- ==== Sys2Proof/Decode.lean ====
section
/-! DEFINITION. The decoder, total on any word: clause headers (R28), the word formats (R41, R47 to R50), the opcode
maps (R53 to R58) and the checks of R59 that the word alone settles; after it the encoder, written from the same
tables. What needs the processor kind or the rest of the clause (conditions 4, 6, 8 and the latch part of 9) stands
in Machine/Issue.lean. -/
namespace Sys2Proof

/-- Why a word is no instruction: conditions 5, 7 and 9 of R59. -/
inductive DecErr where
  | illegalOpcode | reservedField | illegalOperand
  deriving DecidableEq, Repr

/-- Why a word is no clause header: conditions 1 and 2 (illegal-header) and 3 (reserved-field) of R59. -/
inductive HdrErr where
  | illegalHeader | reservedField
  deriving DecidableEq, Repr

/-- A clause header (R28); `cnt` is the number of words minus 1. -/
structure Header where
  pipe : Pipe
  cnt : BitVec 4
  wait : BitVec 8
  yld : Bool
  rjh : Bool
  deriving DecidableEq, Repr

def Pipe.of : Nat → Option Pipe
  | 0 => some .s
  | 1 => some .w
  | 2 => some .m
  | 3 => some .y
  | _ => none

def Pipe.code : Pipe → BitVec 4
  | .s => 0 | .w => 1 | .m => 2 | .y => 3

/-- A header word, checked in the order of R59. -/
def decodeHeader (w : Word) : Except HdrErr Header :=
  if w.extractLsb' 60 4 != 0xA then .error .illegalHeader else
  match Pipe.of (w.extractLsb' 56 4).toNat with
  | none => .error .illegalHeader
  | some p =>
    if w.extractLsb' 0 42 != 0 then .error .reservedField else
    .ok ⟨p, w.extractLsb' 52 4, w.extractLsb' 44 8, w.getLsbD 43, w.getLsbD 42⟩

/-- A source field (R42). -/
def srcOf (f : BitVec 7) : Src := if f.getLsbD 6 then .latch (f.extractLsb' 0 2) else .reg (f.extractLsb' 0 6)

/-- Bits 5:2 of a latch operand are zero (R42). -/
def latchClean (f : BitVec 7) : Bool := !f.getLsbD 6 || f.extractLsb' 2 4 == 0

def unB (w : Word) : BForm :=
  ⟨w.getLsbD 55, w.extractLsb' 52 3, w.extractLsb' 46 6, w.getLsbD 45, srcOf (w.extractLsb' 38 7),
    srcOf (w.extractLsb' 31 7), srcOf (w.extractLsb' 24 7)⟩

def unL (w : Word) : LForm :=
  ⟨w.getLsbD 55, w.extractLsb' 52 3, w.extractLsb' 46 6, w.getLsbD 45, srcOf (w.extractLsb' 38 7), w.extractLsb' 0 32⟩

def unJ (w : Word) : JForm :=
  ⟨w.getLsbD 55, w.extractLsb' 52 3, srcOf (w.extractLsb' 38 7), w.extractLsb' 0 32⟩

def unM (w : Word) : MForm :=
  ⟨w.getLsbD 55, w.extractLsb' 52 3, w.extractLsb' 46 6, srcOf (w.extractLsb' 38 7), srcOf (w.extractLsb' 31 7),
    w.extractLsb' 29 2, w.extractLsb' 27 2, w.getLsbD 26, w.getLsbD 25, w.getLsbD 23, w.extractLsb' 20 3,
    w.extractLsb' 0 20⟩

def unQ (w : Word) : QForm :=
  ⟨w.getLsbD 55, w.extractLsb' 52 3, w.extractLsb' 46 6, srcOf (w.extractLsb' 38 7), srcOf (w.extractLsb' 31 7),
    srcOf (w.extractLsb' 24 7), w.getLsbD 23, w.extractLsb' 20 3⟩

/-- Format codes of R51; 9 to 15 are reserved. -/
def Fmt.of (c : BitVec 4) : Option Fmt :=
  match c.toNat with
  | 0 => some .f32 | 1 => some .f16 | 2 => some .bf16 | 3 => some .e4m3 | 4 => some .e5m2
  | 5 => some .i8 | 6 => some .i4 | 7 => some .kf4 | 8 => some .q4g | _ => none

/-- RND codes of R147; 6 and 7 are reserved. -/
def Rnd.of (c : BitVec 3) : Option Rnd :=
  match c.toNat with
  | 0 => some .dyn | 1 => some .rn | 2 => some .rz | 3 => some .ru | 4 => some .rd | 5 => some .rs | _ => none

/-- MOD of R130. -/
def unInt (w : Word) : IntMod :=
  ⟨w.extractLsb' 16 6, w.extractLsb' 8 6, w.extractLsb' 4 4, w.getLsbD 3, w.getLsbD 2, w.getLsbD 1, w.getLsbD 0⟩

/-- MOD of R149. -/
def unFlt (w : Word) : Option FltMod :=
  match Fmt.of (w.extractLsb' 12 4), Fmt.of (w.extractLsb' 8 4), Rnd.of (w.extractLsb' 0 3) with
  | some f2, some f, some r => some ⟨w.getLsbD 17, w.getLsbD 16, f2, f, w.extractLsb' 4 4, w.getLsbD 3, r⟩
  | _, _, _ => none

/-- MOD of R158. -/
def unWide (w : Word) : Option WideMod :=
  match Fmt.of (w.extractLsb' 20 4), Fmt.of (w.extractLsb' 16 4), Rnd.of (w.extractLsb' 12 3) with
  | some f2, some f, some r =>
    some ⟨f2, f, r, w.getLsbD 11, w.getLsbD 10, w.getLsbD 9, w.extractLsb' 6 3, w.extractLsb' 0 6⟩
  | _, _, _ => none

/-- MOD of R172. -/
def unMom (w : Word) : Option MomMod :=
  match Rnd.of (w.extractLsb' 12 3) with
  | some r => some ⟨r, w.extractLsb' 6 3, w.getLsbD 5, w.extractLsb' 3 2⟩
  | none => none

/-- The word formats of clauses: basic (R41), basic with SBE and SB (R48), long immediate (R47), branch (R49) and
memory (R48). -/
inductive Form where
  | b | q | l | j | m
  deriving DecidableEq, Repr

/-- The opcode map of a pipe (R54 to R57): first code, last code, word format. Codes in no row are reserved. -/
def opMap : Pipe → List (Nat × Nat × Form)
  | .s => [(0x00, 0x03, .b), (0x04, 0x05, .j), (0x06, 0x06, .b), (0x07, 0x07, .j), (0x08, 0x0A, .b), (0x10,
      0x16, .b), (0x18, 0x1E, .b), (0x20, 0x22, .b), (0x30, 0x3A, .b), (0x40, 0x4D, .b), (0x50, 0x57, .b), (0x60,
      0x6A, .l), (0x80, 0x91, .b)]
  | .w => [(0x00, 0x12, .b), (0x40, 0x4C, .b)]
  | .m => [(0x00, 0x09, .m), (0x10, 0x16, .m), (0x20, 0x23, .m), (0x24, 0x28, .q), (0x29, 0x29, .m), (0x2A,
      0x2B, .q), (0x2C, 0x2E, .m), (0x30, 0x3B, .q), (0x40, 0x43, .q), (0x50, 0x52, .m), (0x53, 0x55, .q), (0x60,
      0x65, .q)]
  | .y => [(0x00, 0x0A, .b), (0x20, 0x23, .b)]

/-- Codes assigned but lacking on a core (R54 to R57). -/
def lackCore : Pipe → List (Nat × Nat)
  | .s => []
  | .w => []
  | .m => [(0x60, 0x65)]
  | .y => [(0x20, 0x23)]

/-- Codes assigned but lacking on a framer (R54 to R57; the W pipe as a whole under R21). -/
def lackFramer : Pipe → List (Nat × Nat)
  | .s => [(0x10, 0x13), (0x18, 0x1C), (0x20, 0x22)]
  | .w => []
  | .m => [(0x2D, 0x2E), (0x30, 0x31), (0x34, 0x37), (0x40, 0x43), (0x60, 0x65)]
  | .y => []

/-- Codes assigned but lacking on a port processor (R54 to R57). -/
def lackPort : Pipe → List (Nat × Nat)
  | .s => [(0x10, 0x13), (0x18, 0x1C), (0x20, 0x22)]
  | .w => [(0x40, 0x4C)]
  | .m => [(0x2D, 0x2E), (0x30, 0x31), (0x34, 0x37), (0x40, 0x43)]
  | .y => [(0x20, 0x23)]

/-- Codes of the instructions that end their clause (R38). -/
def endCodes : Pipe → List (Nat × Nat)
  | .s => [(0x01, 0x0A), (0x10, 0x12), (0x14, 0x16), (0x18, 0x1C), (0x20, 0x21)]
  | .w => []
  | .m => [(0x20, 0x28), (0x2A, 0x2B), (0x30, 0x36), (0x38, 0x38), (0x3B, 0x3B), (0x40, 0x40), (0x50, 0x55), (0x60, 0x65)]
  | .y => [(0x00, 0x01), (0x03, 0x07), (0x09, 0x0A), (0x20, 0x23)]

def inRanges (l : List (Nat × Nat)) (op : Nat) : Bool := l.any fun r => r.1 ≤ op && op ≤ r.2

/-- The format of an assigned opcode; `none` for a reserved one (condition 5 of R59). -/
def opForm (p : Pipe) (op : Nat) : Option Form :=
  ((opMap p).find? fun r => r.1 ≤ op && op ≤ r.2.1).map (·.2.2)

/-- Bits every word of the format holds zero (R47, R48, R49; NW of the M pipe, R45). -/
def Form.clean : Form → Word → Bool
  | .b, _ => true
  | .q, w => !w.getLsbD 45
  | .l, w => w.extractLsb' 32 6 == 0
  | .j, w => w.extractLsb' 45 7 == 0 && w.extractLsb' 32 6 == 0
  | .m, w => !w.getLsbD 45 && !w.getLsbD 24

/-- Latch operands of the format's source fields have bits 5:2 zero (condition 9 of R59). -/
def Form.latchesClean : Form → Word → Bool
  | .b, w | .q, w => latchClean (w.extractLsb' 38 7) && latchClean (w.extractLsb' 31 7) && latchClean (w.extractLsb' 24 7)
  | .l, w | .j, w => latchClean (w.extractLsb' 38 7)
  | .m, w => latchClean (w.extractLsb' 38 7) && latchClean (w.extractLsb' 31 7)

def Fmt.bits4 (f : Fmt) : BitVec 4 := BitVec.ofNat 4 f.code

def Rnd.bits3 : Rnd → BitVec 3
  | .dyn => 0 | .rn => 1 | .rz => 2 | .ru => 3 | .rd => 4 | .rs => 5

def IntMod.bits (m : IntMod) : BitVec 24 :=
  0#2 ++ m.lenm1 ++ 0#2 ++ m.pos ++ m.cond ++ BitVec.ofBool m.i ++ BitVec.ofBool m.sat ++ BitVec.ofBool m.u ++
    BitVec.ofBool m.w

def FltMod.bits (m : FltMod) : BitVec 24 :=
  0#6 ++ BitVec.ofBool m.u ++ BitVec.ofBool m.w ++ m.fmt2.bits4 ++ m.fmt.bits4 ++ m.cond ++ BitVec.ofBool m.ftz ++
    m.rnd.bits3

def WideMod.bits (m : WideMod) : BitVec 24 :=
  m.fmt2.bits4 ++ m.fmt.bits4 ++ 0#1 ++ m.rnd.bits3 ++ BitVec.ofBool m.ftz ++ BitVec.ofBool m.p2 ++
    BitVec.ofBool m.sc ++ m.fn ++ m.idx

def MomMod.bits (m : MomMod) : BitVec 24 := 0#9 ++ m.rnd.bits3 ++ 0#3 ++ m.fn ++ BitVec.ofBool m.n ++ m.cm ++ 0#3

def QForm.sbBits (q : QForm) : BitVec 4 := BitVec.ofBool q.sbe ++ q.sb

/-- MOD (bits 23:0) of a basic-format word by the instruction's encoding table; 0 in the other formats. -/
def Instr.md : Instr → BitVec 24
  | .nop _ => 0#24
  | .yield_ _ => 0#24
  | .sleep _ cycles => cycles
  | .exit _ => 0#24
  | .bra _ => 0
  | .brc _ => 0
  | .brx _ => 0#24
  | .call _ => 0
  | .callx _ => 0#24
  | .ret _ => 0#24
  | .spawn _ jn => 0#23 ++ BitVec.ofBool jn
  | .bandnew _ => 0#24
  | .join _ => 0#24
  | .leave _ => 0#24
  | .bandq _ query => 0#22 ++ query
  | .rjen _ j => 0#21 ++ j
  | .rjwait _ j => 0#21 ++ j
  | .rjstrike _ j => 0#21 ++ j
  | .bari _ bar => 0#20 ++ bar
  | .bara _ bar wait scope => 0#16 ++ scope ++ BitVec.ofBool wait ++ 0#1 ++ bar
  | .barx _ bar => 0#20 ++ bar
  | .barw _ bar x => 0#19 ++ BitVec.ofBool x ++ bar
  | .bart _ bar x => 0#19 ++ BitVec.ofBool x ++ bar
  | .vote _ mode => 0#22 ++ mode
  | .shfl _ mode seg => 0#19 ++ seg ++ mode
  | .tra _ ch => 0#20 ++ ch
  | .trw _ ch => 0#20 ++ ch
  | .trq _ ch => 0#20 ++ ch
  | .klaunch _ => 0#24
  | .iadd _ m => m.bits
  | .iaddImm _ => 0
  | .isub _ m => m.bits
  | .ineg _ m => m.bits
  | .iabs _ m => m.bits
  | .imul _ m => m.bits
  | .imulImm _ => 0
  | .imulh _ m => m.bits
  | .imad _ m => m.bits
  | .idiv _ m => m.bits
  | .irem _ m => m.bits
  | .imin _ m => m.bits
  | .iminImm _ => 0
  | .imax _ m => m.bits
  | .imaxImm _ => 0
  | .and _ m => m.bits
  | .andImm _ => 0
  | .or _ m => m.bits
  | .orImm _ => 0
  | .xor _ m => m.bits
  | .xorImm _ => 0
  | .andn _ m => m.bits
  | .shl _ m => m.bits
  | .shr _ m => m.bits
  | .sar _ m => m.bits
  | .rol _ m => m.bits
  | .clz _ m => m.bits
  | .ctz _ m => m.bits
  | .popc _ m => m.bits
  | .brev _ m => m.bits
  | .bfx _ m => m.bits
  | .bfi _ m => m.bits
  | .icmp _ m => m.bits
  | .icmpImm _ => 0
  | .sel _ => 0#24
  | .mov _ => 0#24
  | .movi _ => 0
  | .movh _ => 0
  | .lea _ m => m.bits
  | .leaImm _ => 0
  | .pand _ m => m.bits
  | .por _ m => m.bits
  | .pxor _ m => m.bits
  | .pnot _ => 0#24
  | .fadd _ m => m.bits
  | .fsub _ m => m.bits
  | .fmul _ m => m.bits
  | .ffma _ m => m.bits
  | .fmin _ m => m.bits
  | .fmax _ m => m.bits
  | .fabs _ m => m.bits
  | .fneg _ m => m.bits
  | .fcmp _ m => m.bits
  | .fclass _ m => m.bits
  | .frcp _ m => m.bits
  | .frsq _ m => m.bits
  | .fsqrt _ m => m.bits
  | .fex2 _ m => m.bits
  | .flg2 _ m => m.bits
  | .fcvt _ m => m.bits
  | .itof _ m => m.bits
  | .ftoi _ m => m.bits
  | .wadd _ m => m.bits
  | .wsub _ m => m.bits
  | .wmul _ m => m.bits
  | .wfma _ m => m.bits
  | .wmin _ m => m.bits
  | .wmax _ m => m.bits
  | .wact _ m => m.bits
  | .wrsum _ m => m.bits
  | .wdot _ m => m.bits
  | .wcvt _ m => m.bits
  | .wqnt _ m => m.bits
  | .wdq _ m => m.bits
  | .wscl _ m => m.bits
  | .wprm _ m => m.bits
  | .wbc _ m => m.bits
  | .wcmp _ m => m.bits
  | .wsel _ m => m.bits
  | .wins _ m => m.bits
  | .wext _ m => m.bits
  | .mset _ m => m.bits
  | .mcol _ m => m.bits
  | .mmov _ m => m.bits
  | .madd _ m => m.bits
  | .msub _ m => m.bits
  | .mmul _ m => m.bits
  | .mscl _ m => m.bits
  | .maddc _ m => m.bits
  | .mfma _ m => m.bits
  | .mrel _ m => m.bits
  | .msig _ m => m.bits
  | .mexp _ m => m.bits
  | .mchk _ m => m.bits
  | .ldU8 _ => 0
  | .ldS8 _ => 0
  | .ldU16 _ => 0
  | .ldS16 _ => 0
  | .ldU32 _ => 0
  | .ldS32 _ => 0
  | .ld64 _ => 0
  | .ldG _ => 0
  | .ldGE _ => 0
  | .ldGS _ => 0
  | .st8 _ => 0
  | .st16 _ => 0
  | .st32 _ => 0
  | .st64 _ => 0
  | .stG _ => 0
  | .stGE _ => 0
  | .stGS _ => 0
  | .stn _ => 0
  | .atom _ => 0
  | .red _ => 0
  | .cas _ => 0
  | .fence q scope kind => q.sbBits ++ (0#16 ++ scope ++ kind)
  | .pin q => q.sbBits ++ (0#20)
  | .unpin q => q.sbBits ++ (0#20)
  | .cclean q => q.sbBits ++ (0#20)
  | .cinv q => q.sbBits ++ (0#20)
  | .pref _ => 0
  | .probe _ => 0
  | .bred q fmt part => q.sbBits ++ (fmt.bits4 ++ 0#10 ++ part ++ 0#4)
  | .bupd q tl => q.sbBits ++ (0#16 ++ tl)
  | .mld _ => 0
  | .mst _ => 0
  | .wkset q wk => q.sbBits ++ (0#18 ++ wk)
  | .bread q tl bs wk scp jb => q.sbBits ++ (tl ++ bs ++ 0#1 ++ wk ++ scp ++ BitVec.ofBool jb ++ 0#8)
  | .hexit q err => q.sbBits ++ (0#19 ++ BitVec.ofBool err)
  | .acopy q tl ws wd scp be bar => q.sbBits ++ (tl ++ ws ++ wd ++ 0#1 ++ scp ++ BitVec.ofBool be ++ bar ++ 0#4)
  | .acopyt q tl mode wk scp be bar => q.sbBits ++ (tl ++ mode ++ wk ++ scp ++ BitVec.ofBool be ++ bar ++ 0#4)
  | .talloc q span => q.sbBits ++ (0#17 ++ span)
  | .tfree q => q.sbBits ++ (0#20)
  | .tstat q => q.sbBits ++ (0#20)
  | .tlwait q tl => q.sbBits ++ (0#16 ++ tl)
  | .tlread q tl iss => q.sbBits ++ (0#15 ++ BitVec.ofBool iss ++ tl)
  | .cstat q tl => q.sbBits ++ (0#16 ++ tl)
  | .ccancel q tl all => q.sbBits ++ (0#15 ++ BitVec.ofBool all ++ tl)
  | .xbind q => q.sbBits ++ (0#18 ++ 0#2)
  | .xbindU q => q.sbBits ++ (0#18 ++ 1#2)
  | .xbindQ q => q.sbBits ++ (0#18 ++ 2#2)
  | .acrd q fmt rnd nc m aq => q.sbBits ++ (fmt.bits4 ++ 0#1 ++ rnd.bits3 ++ nc ++ BitVec.ofBool m ++ aq ++ 0#6)
  | .acwm q => q.sbBits ++ (0#20)
  | .acovf q clr => q.sbBits ++ (0#19 ++ BitVec.ofBool clr)
  | .xnop => 0
  | .xend => 0
  | .xloop _ _ => 0
  | .xlay _ => 0
  | .xbw _ => 0
  | .xba _ _ => 0
  | .xlds _ _ _ => 0
  | .xswp => 0
  | .xzero _ _ _ => 0
  | .xout _ _ _ _ _ _ _ _ => 0
  | .xmma _ _ _ _ _ => 0
  | .xmms _ _ _ _ _ => 0
  | .xdual _ _ _ _ _ _ _ _ => 0
  | .xmom _ _ _ _ _ _ _ _ => 0
  | .rput _ => 0
  | .rget _ => 0
  | .ratom _ => 0
  | .rputm q size rel scp => q.sbBits ++ (0#9 ++ scp ++ BitVec.ofBool rel ++ 0#6 ++ size)
  | .coll q => q.sbBits ++ (0#20)
  | .topov q d => q.sbBits ++ (0#19 ++ BitVec.ofBool d)
  | .psendData q scp => q.sbBits ++ (0#9 ++ scp ++ 0#7 ++ 0#2)
  | .psendReduce q sec scp => q.sbBits ++ (0#9 ++ scp ++ 0#6 ++ BitVec.ofBool sec ++ 1#2)
  | .psendDone q scp => q.sbBits ++ (0#9 ++ scp ++ 0#7 ++ 2#2)
  | .precv q => q.sbBits ++ (0#20)
  | .pred q op bfa fmt => q.sbBits ++ (fmt.bits4 ++ 0#11 ++ BitVec.ofBool bfa ++ 0#2 ++ op)
  | .pqnt q granules fmt p2 => q.sbBits ++ (0#7 ++ BitVec.ofBool p2 ++ fmt.bits4 ++ granules)
  | .pwait q k mode => q.sbBits ++ (0#12 ++ mode ++ k)
  | .proute q => q.sbBits ++ (0#20)
  | .trap _ code => code
  | .eret _ => 0#24
  | .gets _ num => 0#12 ++ num
  | .sets _ num => 0#12 ++ num
  | .brk _ code => code
  | .icinv _ all rt => 0#22 ++ BitVec.ofBool rt ++ BitVec.ofBool all
  | .tlbi _ kind waf => 0#21 ++ BitVec.ofBool waf ++ kind
  | .halt _ => 0#24
  | .time _ => 0#24
  | .perf _ counter clr => 0#20 ++ BitVec.ofBool clr ++ counter
  | .slotwBind _ => 0#24
  | .slotwStop _ => 0#24
  | .slotwRelease _ => 0#24
  | .slotwKill _ => 0#24
  | .slotwSet _ => 0#24
  | .ctxsave _ => 0#24
  | .ctxload _ => 0#24
  | .waitev _ => 0#24
  | .issueGroup _ _ => 0
  | .asyncTrapDelivery _ => 0
  | .deferredWrite _ => 0
  | .sleepWake _ => 0
  | .starvation _ => 0
  | .storeDrain _ _ => 0
  | .storeAtHome _ => 0
  | .storeAck _ => 0
  | .loadAtHome _ _ => 0
  | .atomicAtHome _ => 0
  | .bfaAdd _ => 0
  | .burstRequest _ => 0
  | .burstArrival _ _ => 0
  | .handlerAdmit _ => 0
  | .lastBurst _ => 0
  | .copyUnit _ => 0
  | .copyComplete _ => 0
  | .tileScrubEnd _ _ => 0
  | .tileAddLand _ => 0
  | .acrdRead _ => 0
  | .acwmResult _ => 0
  | .packetHop _ => 0
  | .icinvComplete _ => 0
  | .tlbiComplete _ => 0
  | .bootStart _ _ _ _ _ => 0
  | .llsDecay _ => 0
  | .rjhTimeout _ _ => 0
  | .bandNumberRelease _ _ => 0
  | .trussRelease _ => 0
  | .trussReleaseArrival _ _ => 0
  | .partMaskWrite _ => 0
  | .pageWalk _ _ _ => 0
  | .verdictReply _ _ _ _ _ => 0
  | .cacheLineExpiry _ _ _ => 0
  | .bupdElement _ _ => 0
  | .eccError _ _ => 0
  | .windowTableWrite _ _ _ _ _ => 0
  | .scrubGo _ => 0
  | .scrubDone _ => 0
  | .faultRetry _ _ => 0
  | .faultAbandon _ _ => 0
  | .entryStopped _ _ => 0
  | .scanOut _ _ => 0
  | .entryActivate _ _ => 0
  | .entryRestore _ _ => 0
  | .quantumExpiry _ _ => 0
  | .entryDone _ _ => 0
  | .entryKillDone _ _ => 0
  | .threadResume _ => 0
  | .threadKill _ => 0
  | .threadPcWrite _ _ => 0
  | .ctxCreate _ _ => 0
  | .ctxKill _ _ => 0
  | .ctxFree _ _ => 0
  | .bandKill _ _ => 0
  | .chunkSend _ _ => 0
  | .dlaunchEntryFree _ _ => 0
  | .windowSpill _ => 0
  | .windowFill _ => 0
  | .normAcc _ _ _ => 0
  | .normZero _ _ => 0
  | .normStatWrite _ _ _ => 0
  | .arrayRowFinal _ _ => 0
  | .streamInstrComplete _ _ => 0
  | .linkTrain _ _ _ => 0
  | .linkTakeDown _ _ _ => 0
  | .linkPartnerDetect _ _ _ _ => 0
  | .linkTrainResult _ _ _ _ => 0
  | .linkStateTimeout _ _ _ => 0
  | .linkLaneFail _ _ _ _ => 0
  | .flitCrcRetry _ _ _ _ => 0
  | .portWaitTimeout _ => 0
  | .multicastReplicate _ => 0
  | .ppPacketArrival _ => 0
  | .versionHoldTimeout _ => 0
  | .collAccept _ => 0
  | .collAbort _ => 0
  | .doneDelivery _ => 0
  | .topologyVersionWrite _ _ => 0
  | .extPacketReceive _ _ _ _ => 0
  | .hostRdmaWrite _ _ _ _ => 0
  | .hostRdmaRead _ _ _ _ => 0
  | .hostRdmaAtomic _ _ _ _ _ _ => 0
  | .alarmSensor _ _ => 0
  | .telemetryUpdate _ _ _ _ _ => 0
  | .clockStepDown _ => 0
  | .clockStepUp _ => 0
  | .currentLimitWrite _ _ => 0
  | .thermalUpdate _ _ _ => 0
  | .ringLockLoss _ _ => 0
  | .wearSample _ _ _ _ => 0
  | .ctxsaveDone _ _ => 0
  | .ctxloadDone _ _ => 0
  | .registerWrite _ _ _ => 0
  | .ccleanCinvComplete _ => 0
  | .deliveryGiveUp _ => 0
  | .ringLockRegain _ _ => 0
  | .streamWordFault _ _ => 0
  | .powerOnReset => 0
  | .waferRelease => 0
  | .clauseCommit => 0
  | .alarmContextsKilled => 0
  | .keyEraseDone => 0
  | .powerOff => 0

/-- The instruction of R54 that opcode `op` names, its fields taken from the word; `none` where a format or rounding
code is reserved. -/
def buildS (op : Nat) (w : Word) : Option Instr :=
  match op with
  | 0x00 => some (.nop (unB w))
  | 0x01 => some (.yield_ (unB w))
  | 0x02 => some (.sleep (unB w) (w.extractLsb' 0 24))
  | 0x03 => some (.exit (unB w))
  | 0x04 => some (.bra (unJ w))
  | 0x05 => some (.brc (unJ w))
  | 0x06 => some (.brx (unB w))
  | 0x07 => some (.call (unJ w))
  | 0x08 => some (.callx (unB w))
  | 0x09 => some (.ret (unB w))
  | 0x0A => some (.spawn (unB w) (w.getLsbD 0))
  | 0x10 => some (.bandnew (unB w))
  | 0x11 => some (.join (unB w))
  | 0x12 => some (.leave (unB w))
  | 0x13 => some (.bandq (unB w) (w.extractLsb' 0 2))
  | 0x14 => some (.rjen (unB w) (w.extractLsb' 0 3))
  | 0x15 => some (.rjwait (unB w) (w.extractLsb' 0 3))
  | 0x16 => some (.rjstrike (unB w) (w.extractLsb' 0 3))
  | 0x18 => some (.bari (unB w) (w.extractLsb' 0 4))
  | 0x19 => some (.bara (unB w) (w.extractLsb' 0 4) (w.getLsbD 5) (w.extractLsb' 6 2))
  | 0x1A => some (.barx (unB w) (w.extractLsb' 0 4))
  | 0x1B => some (.barw (unB w) (w.extractLsb' 0 4) (w.getLsbD 4))
  | 0x1C => some (.bart (unB w) (w.extractLsb' 0 4) (w.getLsbD 4))
  | 0x1D => some (.vote (unB w) (w.extractLsb' 0 2))
  | 0x1E => some (.shfl (unB w) (w.extractLsb' 0 2) (w.extractLsb' 2 3))
  | 0x20 => some (.tra (unB w) (w.extractLsb' 0 4))
  | 0x21 => some (.trw (unB w) (w.extractLsb' 0 4))
  | 0x22 => some (.trq (unB w) (w.extractLsb' 0 4))
  | 0x30 => some (.iadd (unB w) (unInt w))
  | 0x31 => some (.isub (unB w) (unInt w))
  | 0x32 => some (.imul (unB w) (unInt w))
  | 0x33 => some (.imulh (unB w) (unInt w))
  | 0x34 => some (.imad (unB w) (unInt w))
  | 0x35 => some (.idiv (unB w) (unInt w))
  | 0x36 => some (.irem (unB w) (unInt w))
  | 0x37 => some (.ineg (unB w) (unInt w))
  | 0x38 => some (.iabs (unB w) (unInt w))
  | 0x39 => some (.imin (unB w) (unInt w))
  | 0x3A => some (.imax (unB w) (unInt w))
  | 0x40 => some (.and (unB w) (unInt w))
  | 0x41 => some (.or (unB w) (unInt w))
  | 0x42 => some (.xor (unB w) (unInt w))
  | 0x43 => some (.andn (unB w) (unInt w))
  | 0x44 => some (.shl (unB w) (unInt w))
  | 0x45 => some (.shr (unB w) (unInt w))
  | 0x46 => some (.sar (unB w) (unInt w))
  | 0x47 => some (.rol (unB w) (unInt w))
  | 0x48 => some (.clz (unB w) (unInt w))
  | 0x49 => some (.ctz (unB w) (unInt w))
  | 0x4A => some (.popc (unB w) (unInt w))
  | 0x4B => some (.brev (unB w) (unInt w))
  | 0x4C => some (.bfx (unB w) (unInt w))
  | 0x4D => some (.bfi (unB w) (unInt w))
  | 0x50 => some (.icmp (unB w) (unInt w))
  | 0x51 => some (.sel (unB w))
  | 0x52 => some (.mov (unB w))
  | 0x53 => some (.lea (unB w) (unInt w))
  | 0x54 => some (.pand (unB w) (unInt w))
  | 0x55 => some (.por (unB w) (unInt w))
  | 0x56 => some (.pxor (unB w) (unInt w))
  | 0x57 => some (.pnot (unB w))
  | 0x60 => some (.iaddImm (unL w))
  | 0x61 => some (.imulImm (unL w))
  | 0x62 => some (.andImm (unL w))
  | 0x63 => some (.orImm (unL w))
  | 0x64 => some (.xorImm (unL w))
  | 0x65 => some (.iminImm (unL w))
  | 0x66 => some (.imaxImm (unL w))
  | 0x67 => some (.icmpImm (unL w))
  | 0x68 => some (.movi (unL w))
  | 0x69 => some (.movh (unL w))
  | 0x6A => some (.leaImm (unL w))
  | 0x80 => (unFlt w).map (.fadd (unB w))
  | 0x81 => (unFlt w).map (.fsub (unB w))
  | 0x82 => (unFlt w).map (.fmul (unB w))
  | 0x83 => (unFlt w).map (.ffma (unB w))
  | 0x84 => (unFlt w).map (.fmin (unB w))
  | 0x85 => (unFlt w).map (.fmax (unB w))
  | 0x86 => (unFlt w).map (.fabs (unB w))
  | 0x87 => (unFlt w).map (.fneg (unB w))
  | 0x88 => (unFlt w).map (.fcmp (unB w))
  | 0x89 => (unFlt w).map (.fclass (unB w))
  | 0x8A => (unFlt w).map (.frcp (unB w))
  | 0x8B => (unFlt w).map (.frsq (unB w))
  | 0x8C => (unFlt w).map (.fsqrt (unB w))
  | 0x8D => (unFlt w).map (.fex2 (unB w))
  | 0x8E => (unFlt w).map (.flg2 (unB w))
  | 0x8F => (unFlt w).map (.fcvt (unB w))
  | 0x90 => (unFlt w).map (.itof (unB w))
  | 0x91 => (unFlt w).map (.ftoi (unB w))
  | _ => none

/-- The instruction of R55 that opcode `op` names, its fields taken from the word; `none` where a format or rounding
code is reserved. -/
def buildW (op : Nat) (w : Word) : Option Instr :=
  match op with
  | 0x00 => (unWide w).map (.wadd (unB w))
  | 0x01 => (unWide w).map (.wsub (unB w))
  | 0x02 => (unWide w).map (.wmul (unB w))
  | 0x03 => (unWide w).map (.wfma (unB w))
  | 0x04 => (unWide w).map (.wmin (unB w))
  | 0x05 => (unWide w).map (.wmax (unB w))
  | 0x06 => (unWide w).map (.wact (unB w))
  | 0x07 => (unWide w).map (.wrsum (unB w))
  | 0x08 => (unWide w).map (.wdot (unB w))
  | 0x09 => (unWide w).map (.wcvt (unB w))
  | 0x0A => (unWide w).map (.wqnt (unB w))
  | 0x0B => (unWide w).map (.wdq (unB w))
  | 0x0C => (unWide w).map (.wscl (unB w))
  | 0x0D => (unWide w).map (.wprm (unB w))
  | 0x0E => (unWide w).map (.wbc (unB w))
  | 0x0F => (unWide w).map (.wcmp (unB w))
  | 0x10 => (unWide w).map (.wsel (unB w))
  | 0x11 => (unWide w).map (.wins (unB w))
  | 0x12 => (unWide w).map (.wext (unB w))
  | 0x40 => (unMom w).map (.mset (unB w))
  | 0x41 => (unMom w).map (.mcol (unB w))
  | 0x42 => (unMom w).map (.mmov (unB w))
  | 0x43 => (unMom w).map (.madd (unB w))
  | 0x44 => (unMom w).map (.msub (unB w))
  | 0x45 => (unMom w).map (.mmul (unB w))
  | 0x46 => (unMom w).map (.mscl (unB w))
  | 0x47 => (unMom w).map (.maddc (unB w))
  | 0x48 => (unMom w).map (.mfma (unB w))
  | 0x49 => (unMom w).map (.mrel (unB w))
  | 0x4A => (unMom w).map (.msig (unB w))
  | 0x4B => (unMom w).map (.mexp (unB w))
  | 0x4C => (unMom w).map (.mchk (unB w))
  | _ => none

/-- The instruction of R56 that opcode `op` names, its fields taken from the word; `none` where a format or rounding
code is reserved. -/
def buildM (op : Nat) (w : Word) : Option Instr :=
  match op with
  | 0x00 => some (.ldU8 (unM w))
  | 0x01 => some (.ldS8 (unM w))
  | 0x02 => some (.ldU16 (unM w))
  | 0x03 => some (.ldS16 (unM w))
  | 0x04 => some (.ldU32 (unM w))
  | 0x05 => some (.ldS32 (unM w))
  | 0x06 => some (.ld64 (unM w))
  | 0x07 => some (.ldG (unM w))
  | 0x08 => some (.ldGE (unM w))
  | 0x09 => some (.ldGS (unM w))
  | 0x10 => some (.st8 (unM w))
  | 0x11 => some (.st16 (unM w))
  | 0x12 => some (.st32 (unM w))
  | 0x13 => some (.st64 (unM w))
  | 0x14 => some (.stG (unM w))
  | 0x15 => some (.stGE (unM w))
  | 0x16 => some (.stGS (unM w))
  | 0x20 => some (.stn (unM w))
  | 0x21 => some (.atom (unM w))
  | 0x22 => some (.red (unM w))
  | 0x23 => some (.cas (unM w))
  | 0x24 => some (.fence (unQ w) (w.extractLsb' 2 2) (w.extractLsb' 0 2))
  | 0x25 => some (.pin (unQ w))
  | 0x26 => some (.unpin (unQ w))
  | 0x27 => some (.cclean (unQ w))
  | 0x28 => some (.cinv (unQ w))
  | 0x29 => some (.pref (unM w))
  | 0x2A => some (.bupd (unQ w) (w.extractLsb' 0 4))
  | 0x2B => (Fmt.of (w.extractLsb' 16 4)).bind fun fmt => some (.bred (unQ w) fmt (w.extractLsb' 4 2))
  | 0x2C => some (.probe (unM w))
  | 0x2D => some (.mld (unM w))
  | 0x2E => some (.mst (unM w))
  | 0x30 => some (.bread (unQ w) (w.extractLsb' 16 4) (w.extractLsb' 14 2) (w.extractLsb' 11 2) (w.extractLsb' 9 2) (w.getLsbD 8))
  | 0x31 => some (.hexit (unQ w) (w.getLsbD 0))
  | 0x32 => some (.wkset (unQ w) (w.extractLsb' 0 2))
  | 0x33 => some (.acopy (unQ w) (w.extractLsb' 16 4) (w.extractLsb' 14 2) (w.extractLsb' 12 2) (w.extractLsb' 9 2) (w.getLsbD 8) (w.extractLsb' 4 4))
  | 0x34 => some (.acopyt (unQ w) (w.extractLsb' 16 4) (w.extractLsb' 13 3) (w.extractLsb' 11 2) (w.extractLsb' 9 2) (w.getLsbD 8) (w.extractLsb' 4 4))
  | 0x35 => some (.talloc (unQ w) (w.extractLsb' 0 3))
  | 0x36 => some (.tfree (unQ w))
  | 0x37 => some (.tstat (unQ w))
  | 0x38 => some (.tlwait (unQ w) (w.extractLsb' 0 4))
  | 0x39 => some (.tlread (unQ w) (w.extractLsb' 0 4) (w.getLsbD 4))
  | 0x3A => some (.cstat (unQ w) (w.extractLsb' 0 4))
  | 0x3B => some (.ccancel (unQ w) (w.extractLsb' 0 4) (w.getLsbD 4))
  | 0x40 =>
    match (w.extractLsb' 0 2).toNat with
    | 0 => some (.xbind (unQ w))
    | 1 => some (.xbindU (unQ w))
    | 2 => some (.xbindQ (unQ w))
    | _ => none
  | 0x41 => (Fmt.of (w.extractLsb' 16 4)).bind fun fmt => (Rnd.of (w.extractLsb' 12 3)).bind fun rnd => some (.acrd (unQ w) fmt rnd (w.extractLsb' 10 2) (w.getLsbD 9) (w.extractLsb' 6 3))
  | 0x42 => some (.acwm (unQ w))
  | 0x43 => some (.acovf (unQ w) (w.getLsbD 0))
  | 0x50 => some (.rput (unM w))
  | 0x51 => some (.rget (unM w))
  | 0x52 => some (.ratom (unM w))
  | 0x53 => some (.rputm (unQ w) (w.extractLsb' 0 2) (w.getLsbD 8) (w.extractLsb' 9 2))
  | 0x54 => some (.coll (unQ w))
  | 0x55 => some (.topov (unQ w) (w.getLsbD 0))
  | 0x60 =>
    match (w.extractLsb' 0 2).toNat with
    | 0 => some (.psendData (unQ w) (w.extractLsb' 9 2))
    | 1 => some (.psendReduce (unQ w) (w.getLsbD 2) (w.extractLsb' 9 2))
    | 2 => some (.psendDone (unQ w) (w.extractLsb' 9 2))
    | _ => none
  | 0x61 => some (.precv (unQ w))
  | 0x62 => (Fmt.of (w.extractLsb' 16 4)).bind fun fmt => some (.pred (unQ w) (w.extractLsb' 0 2) (w.getLsbD 4) fmt)
  | 0x63 => (Fmt.of (w.extractLsb' 8 4)).bind fun fmt => some (.pqnt (unQ w) (w.extractLsb' 0 8) fmt (w.getLsbD 12))
  | 0x64 => some (.pwait (unQ w) (w.extractLsb' 0 6) (w.extractLsb' 6 2))
  | 0x65 => some (.proute (unQ w))
  | _ => none

/-- The instruction of R57 that opcode `op` names, its fields taken from the word; `none` where a format or rounding
code is reserved. -/
def buildY (op : Nat) (w : Word) : Option Instr :=
  match op with
  | 0x00 => some (.trap (unB w) (w.extractLsb' 0 24))
  | 0x01 => some (.eret (unB w))
  | 0x02 => some (.gets (unB w) (w.extractLsb' 0 12))
  | 0x03 => some (.sets (unB w) (w.extractLsb' 0 12))
  | 0x04 => some (.brk (unB w) (w.extractLsb' 0 24))
  | 0x05 => some (.icinv (unB w) (w.getLsbD 0) (w.getLsbD 1))
  | 0x06 => some (.tlbi (unB w) (w.extractLsb' 0 2) (w.getLsbD 2))
  | 0x07 => some (.halt (unB w))
  | 0x08 => some (.time (unB w))
  | 0x09 => some (.perf (unB w) (w.extractLsb' 0 3) (w.getLsbD 3))
  | 0x0A => some (.klaunch (unB w))
  | 0x20 => some (.slotwBind (unB w))
  | 0x21 => some (.ctxsave (unB w))
  | 0x22 => some (.ctxload (unB w))
  | 0x23 => some (.waitev (unB w))
  | _ => none
/-- The instruction an opcode of a pipe names. -/
def build : Pipe → Nat → Word → Option Instr
  | .s => buildS
  | .w => buildW
  | .m => buildM
  | .y => buildY

/-- SRCC bits 5:3 of an accumulator operand are zero, latch or not (R271). -/
def accClean (i : Instr) (w : Word) : Bool :=
  match i.shape with
  | some s => s.c != .acc || w.extractLsb' 27 3 == 0
  | none => true

/-- A word of a clause for pipe `p`, checked in the order of R59: reserved opcode, reserved fields (every MOD bit the
instruction does not use is zero), operands. -/
def decodeWord (p : Pipe) (w : Word) : Except DecErr Instr :=
  let op := (w.extractLsb' 56 8).toNat
  match opForm p op with
  | none => .error .illegalOpcode
  | some f =>
    if !f.clean w then .error .reservedField else
    match build p op w with
    | none => .error .reservedField
    | some i =>
      if (f == .b || f == .q) && i.md != w.extractLsb' 0 24 then .error .reservedField
      else if !(i.reservedOk && accClean i w) then .error .reservedField
      else if !(f.latchesClean w && i.operandOk) then .error .illegalOperand
      else .ok i

/-- The seven fields of a stream word below its opcode (R50). -/
structure XFields where
  ta : BitVec 6
  tb : BitVec 6
  ap : BitVec 3
  aq : BitVec 3
  bar : BitVec 4
  fmt : BitVec 4
  imm : BitVec 24
  deriving DecidableEq, Repr

def unX (w : Word) : XFields :=
  ⟨w.extractLsb' 50 6, w.extractLsb' 44 6, w.extractLsb' 41 3, w.extractLsb' 38 3, w.extractLsb' 34 4,
    w.extractLsb' 30 4, w.extractLsb' 0 24⟩

/-- The fields of a stream word (R50, R272), unused ones zero. -/
def Instr.xfields : Instr → XFields
  | .nop _ => ⟨0, 0, 0, 0, 0, 0, 0⟩
  | .yield_ _ => ⟨0, 0, 0, 0, 0, 0, 0⟩
  | .sleep _ _ => ⟨0, 0, 0, 0, 0, 0, 0⟩
  | .exit _ => ⟨0, 0, 0, 0, 0, 0, 0⟩
  | .bra _ => ⟨0, 0, 0, 0, 0, 0, 0⟩
  | .brc _ => ⟨0, 0, 0, 0, 0, 0, 0⟩
  | .brx _ => ⟨0, 0, 0, 0, 0, 0, 0⟩
  | .call _ => ⟨0, 0, 0, 0, 0, 0, 0⟩
  | .callx _ => ⟨0, 0, 0, 0, 0, 0, 0⟩
  | .ret _ => ⟨0, 0, 0, 0, 0, 0, 0⟩
  | .spawn _ _ => ⟨0, 0, 0, 0, 0, 0, 0⟩
  | .bandnew _ => ⟨0, 0, 0, 0, 0, 0, 0⟩
  | .join _ => ⟨0, 0, 0, 0, 0, 0, 0⟩
  | .leave _ => ⟨0, 0, 0, 0, 0, 0, 0⟩
  | .bandq _ _ => ⟨0, 0, 0, 0, 0, 0, 0⟩
  | .rjen _ _ => ⟨0, 0, 0, 0, 0, 0, 0⟩
  | .rjwait _ _ => ⟨0, 0, 0, 0, 0, 0, 0⟩
  | .rjstrike _ _ => ⟨0, 0, 0, 0, 0, 0, 0⟩
  | .bari _ _ => ⟨0, 0, 0, 0, 0, 0, 0⟩
  | .bara _ _ _ _ => ⟨0, 0, 0, 0, 0, 0, 0⟩
  | .barx _ _ => ⟨0, 0, 0, 0, 0, 0, 0⟩
  | .barw _ _ _ => ⟨0, 0, 0, 0, 0, 0, 0⟩
  | .bart _ _ _ => ⟨0, 0, 0, 0, 0, 0, 0⟩
  | .vote _ _ => ⟨0, 0, 0, 0, 0, 0, 0⟩
  | .shfl _ _ _ => ⟨0, 0, 0, 0, 0, 0, 0⟩
  | .tra _ _ => ⟨0, 0, 0, 0, 0, 0, 0⟩
  | .trw _ _ => ⟨0, 0, 0, 0, 0, 0, 0⟩
  | .trq _ _ => ⟨0, 0, 0, 0, 0, 0, 0⟩
  | .klaunch _ => ⟨0, 0, 0, 0, 0, 0, 0⟩
  | .iadd _ _ => ⟨0, 0, 0, 0, 0, 0, 0⟩
  | .iaddImm _ => ⟨0, 0, 0, 0, 0, 0, 0⟩
  | .isub _ _ => ⟨0, 0, 0, 0, 0, 0, 0⟩
  | .ineg _ _ => ⟨0, 0, 0, 0, 0, 0, 0⟩
  | .iabs _ _ => ⟨0, 0, 0, 0, 0, 0, 0⟩
  | .imul _ _ => ⟨0, 0, 0, 0, 0, 0, 0⟩
  | .imulImm _ => ⟨0, 0, 0, 0, 0, 0, 0⟩
  | .imulh _ _ => ⟨0, 0, 0, 0, 0, 0, 0⟩
  | .imad _ _ => ⟨0, 0, 0, 0, 0, 0, 0⟩
  | .idiv _ _ => ⟨0, 0, 0, 0, 0, 0, 0⟩
  | .irem _ _ => ⟨0, 0, 0, 0, 0, 0, 0⟩
  | .imin _ _ => ⟨0, 0, 0, 0, 0, 0, 0⟩
  | .iminImm _ => ⟨0, 0, 0, 0, 0, 0, 0⟩
  | .imax _ _ => ⟨0, 0, 0, 0, 0, 0, 0⟩
  | .imaxImm _ => ⟨0, 0, 0, 0, 0, 0, 0⟩
  | .and _ _ => ⟨0, 0, 0, 0, 0, 0, 0⟩
  | .andImm _ => ⟨0, 0, 0, 0, 0, 0, 0⟩
  | .or _ _ => ⟨0, 0, 0, 0, 0, 0, 0⟩
  | .orImm _ => ⟨0, 0, 0, 0, 0, 0, 0⟩
  | .xor _ _ => ⟨0, 0, 0, 0, 0, 0, 0⟩
  | .xorImm _ => ⟨0, 0, 0, 0, 0, 0, 0⟩
  | .andn _ _ => ⟨0, 0, 0, 0, 0, 0, 0⟩
  | .shl _ _ => ⟨0, 0, 0, 0, 0, 0, 0⟩
  | .shr _ _ => ⟨0, 0, 0, 0, 0, 0, 0⟩
  | .sar _ _ => ⟨0, 0, 0, 0, 0, 0, 0⟩
  | .rol _ _ => ⟨0, 0, 0, 0, 0, 0, 0⟩
  | .clz _ _ => ⟨0, 0, 0, 0, 0, 0, 0⟩
  | .ctz _ _ => ⟨0, 0, 0, 0, 0, 0, 0⟩
  | .popc _ _ => ⟨0, 0, 0, 0, 0, 0, 0⟩
  | .brev _ _ => ⟨0, 0, 0, 0, 0, 0, 0⟩
  | .bfx _ _ => ⟨0, 0, 0, 0, 0, 0, 0⟩
  | .bfi _ _ => ⟨0, 0, 0, 0, 0, 0, 0⟩
  | .icmp _ _ => ⟨0, 0, 0, 0, 0, 0, 0⟩
  | .icmpImm _ => ⟨0, 0, 0, 0, 0, 0, 0⟩
  | .sel _ => ⟨0, 0, 0, 0, 0, 0, 0⟩
  | .mov _ => ⟨0, 0, 0, 0, 0, 0, 0⟩
  | .movi _ => ⟨0, 0, 0, 0, 0, 0, 0⟩
  | .movh _ => ⟨0, 0, 0, 0, 0, 0, 0⟩
  | .lea _ _ => ⟨0, 0, 0, 0, 0, 0, 0⟩
  | .leaImm _ => ⟨0, 0, 0, 0, 0, 0, 0⟩
  | .pand _ _ => ⟨0, 0, 0, 0, 0, 0, 0⟩
  | .por _ _ => ⟨0, 0, 0, 0, 0, 0, 0⟩
  | .pxor _ _ => ⟨0, 0, 0, 0, 0, 0, 0⟩
  | .pnot _ => ⟨0, 0, 0, 0, 0, 0, 0⟩
  | .fadd _ _ => ⟨0, 0, 0, 0, 0, 0, 0⟩
  | .fsub _ _ => ⟨0, 0, 0, 0, 0, 0, 0⟩
  | .fmul _ _ => ⟨0, 0, 0, 0, 0, 0, 0⟩
  | .ffma _ _ => ⟨0, 0, 0, 0, 0, 0, 0⟩
  | .fmin _ _ => ⟨0, 0, 0, 0, 0, 0, 0⟩
  | .fmax _ _ => ⟨0, 0, 0, 0, 0, 0, 0⟩
  | .fabs _ _ => ⟨0, 0, 0, 0, 0, 0, 0⟩
  | .fneg _ _ => ⟨0, 0, 0, 0, 0, 0, 0⟩
  | .fcmp _ _ => ⟨0, 0, 0, 0, 0, 0, 0⟩
  | .fclass _ _ => ⟨0, 0, 0, 0, 0, 0, 0⟩
  | .frcp _ _ => ⟨0, 0, 0, 0, 0, 0, 0⟩
  | .frsq _ _ => ⟨0, 0, 0, 0, 0, 0, 0⟩
  | .fsqrt _ _ => ⟨0, 0, 0, 0, 0, 0, 0⟩
  | .fex2 _ _ => ⟨0, 0, 0, 0, 0, 0, 0⟩
  | .flg2 _ _ => ⟨0, 0, 0, 0, 0, 0, 0⟩
  | .fcvt _ _ => ⟨0, 0, 0, 0, 0, 0, 0⟩
  | .itof _ _ => ⟨0, 0, 0, 0, 0, 0, 0⟩
  | .ftoi _ _ => ⟨0, 0, 0, 0, 0, 0, 0⟩
  | .wadd _ _ => ⟨0, 0, 0, 0, 0, 0, 0⟩
  | .wsub _ _ => ⟨0, 0, 0, 0, 0, 0, 0⟩
  | .wmul _ _ => ⟨0, 0, 0, 0, 0, 0, 0⟩
  | .wfma _ _ => ⟨0, 0, 0, 0, 0, 0, 0⟩
  | .wmin _ _ => ⟨0, 0, 0, 0, 0, 0, 0⟩
  | .wmax _ _ => ⟨0, 0, 0, 0, 0, 0, 0⟩
  | .wact _ _ => ⟨0, 0, 0, 0, 0, 0, 0⟩
  | .wrsum _ _ => ⟨0, 0, 0, 0, 0, 0, 0⟩
  | .wdot _ _ => ⟨0, 0, 0, 0, 0, 0, 0⟩
  | .wcvt _ _ => ⟨0, 0, 0, 0, 0, 0, 0⟩
  | .wqnt _ _ => ⟨0, 0, 0, 0, 0, 0, 0⟩
  | .wdq _ _ => ⟨0, 0, 0, 0, 0, 0, 0⟩
  | .wscl _ _ => ⟨0, 0, 0, 0, 0, 0, 0⟩
  | .wprm _ _ => ⟨0, 0, 0, 0, 0, 0, 0⟩
  | .wbc _ _ => ⟨0, 0, 0, 0, 0, 0, 0⟩
  | .wcmp _ _ => ⟨0, 0, 0, 0, 0, 0, 0⟩
  | .wsel _ _ => ⟨0, 0, 0, 0, 0, 0, 0⟩
  | .wins _ _ => ⟨0, 0, 0, 0, 0, 0, 0⟩
  | .wext _ _ => ⟨0, 0, 0, 0, 0, 0, 0⟩
  | .mset _ _ => ⟨0, 0, 0, 0, 0, 0, 0⟩
  | .mcol _ _ => ⟨0, 0, 0, 0, 0, 0, 0⟩
  | .mmov _ _ => ⟨0, 0, 0, 0, 0, 0, 0⟩
  | .madd _ _ => ⟨0, 0, 0, 0, 0, 0, 0⟩
  | .msub _ _ => ⟨0, 0, 0, 0, 0, 0, 0⟩
  | .mmul _ _ => ⟨0, 0, 0, 0, 0, 0, 0⟩
  | .mscl _ _ => ⟨0, 0, 0, 0, 0, 0, 0⟩
  | .maddc _ _ => ⟨0, 0, 0, 0, 0, 0, 0⟩
  | .mfma _ _ => ⟨0, 0, 0, 0, 0, 0, 0⟩
  | .mrel _ _ => ⟨0, 0, 0, 0, 0, 0, 0⟩
  | .msig _ _ => ⟨0, 0, 0, 0, 0, 0, 0⟩
  | .mexp _ _ => ⟨0, 0, 0, 0, 0, 0, 0⟩
  | .mchk _ _ => ⟨0, 0, 0, 0, 0, 0, 0⟩
  | .ldU8 _ => ⟨0, 0, 0, 0, 0, 0, 0⟩
  | .ldS8 _ => ⟨0, 0, 0, 0, 0, 0, 0⟩
  | .ldU16 _ => ⟨0, 0, 0, 0, 0, 0, 0⟩
  | .ldS16 _ => ⟨0, 0, 0, 0, 0, 0, 0⟩
  | .ldU32 _ => ⟨0, 0, 0, 0, 0, 0, 0⟩
  | .ldS32 _ => ⟨0, 0, 0, 0, 0, 0, 0⟩
  | .ld64 _ => ⟨0, 0, 0, 0, 0, 0, 0⟩
  | .ldG _ => ⟨0, 0, 0, 0, 0, 0, 0⟩
  | .ldGE _ => ⟨0, 0, 0, 0, 0, 0, 0⟩
  | .ldGS _ => ⟨0, 0, 0, 0, 0, 0, 0⟩
  | .st8 _ => ⟨0, 0, 0, 0, 0, 0, 0⟩
  | .st16 _ => ⟨0, 0, 0, 0, 0, 0, 0⟩
  | .st32 _ => ⟨0, 0, 0, 0, 0, 0, 0⟩
  | .st64 _ => ⟨0, 0, 0, 0, 0, 0, 0⟩
  | .stG _ => ⟨0, 0, 0, 0, 0, 0, 0⟩
  | .stGE _ => ⟨0, 0, 0, 0, 0, 0, 0⟩
  | .stGS _ => ⟨0, 0, 0, 0, 0, 0, 0⟩
  | .stn _ => ⟨0, 0, 0, 0, 0, 0, 0⟩
  | .atom _ => ⟨0, 0, 0, 0, 0, 0, 0⟩
  | .red _ => ⟨0, 0, 0, 0, 0, 0, 0⟩
  | .cas _ => ⟨0, 0, 0, 0, 0, 0, 0⟩
  | .fence _ _ _ => ⟨0, 0, 0, 0, 0, 0, 0⟩
  | .pin _ => ⟨0, 0, 0, 0, 0, 0, 0⟩
  | .unpin _ => ⟨0, 0, 0, 0, 0, 0, 0⟩
  | .cclean _ => ⟨0, 0, 0, 0, 0, 0, 0⟩
  | .cinv _ => ⟨0, 0, 0, 0, 0, 0, 0⟩
  | .pref _ => ⟨0, 0, 0, 0, 0, 0, 0⟩
  | .probe _ => ⟨0, 0, 0, 0, 0, 0, 0⟩
  | .bred _ _ _ => ⟨0, 0, 0, 0, 0, 0, 0⟩
  | .bupd _ _ => ⟨0, 0, 0, 0, 0, 0, 0⟩
  | .mld _ => ⟨0, 0, 0, 0, 0, 0, 0⟩
  | .mst _ => ⟨0, 0, 0, 0, 0, 0, 0⟩
  | .wkset _ _ => ⟨0, 0, 0, 0, 0, 0, 0⟩
  | .bread _ _ _ _ _ _ => ⟨0, 0, 0, 0, 0, 0, 0⟩
  | .hexit _ _ => ⟨0, 0, 0, 0, 0, 0, 0⟩
  | .acopy _ _ _ _ _ _ _ => ⟨0, 0, 0, 0, 0, 0, 0⟩
  | .acopyt _ _ _ _ _ _ _ => ⟨0, 0, 0, 0, 0, 0, 0⟩
  | .talloc _ _ => ⟨0, 0, 0, 0, 0, 0, 0⟩
  | .tfree _ => ⟨0, 0, 0, 0, 0, 0, 0⟩
  | .tstat _ => ⟨0, 0, 0, 0, 0, 0, 0⟩
  | .tlwait _ _ => ⟨0, 0, 0, 0, 0, 0, 0⟩
  | .tlread _ _ _ => ⟨0, 0, 0, 0, 0, 0, 0⟩
  | .cstat _ _ => ⟨0, 0, 0, 0, 0, 0, 0⟩
  | .ccancel _ _ _ => ⟨0, 0, 0, 0, 0, 0, 0⟩
  | .xbind _ => ⟨0, 0, 0, 0, 0, 0, 0⟩
  | .xbindU _ => ⟨0, 0, 0, 0, 0, 0, 0⟩
  | .xbindQ _ => ⟨0, 0, 0, 0, 0, 0, 0⟩
  | .acrd _ _ _ _ _ _ => ⟨0, 0, 0, 0, 0, 0, 0⟩
  | .acwm _ => ⟨0, 0, 0, 0, 0, 0, 0⟩
  | .acovf _ _ => ⟨0, 0, 0, 0, 0, 0, 0⟩
  | .xnop => ⟨0, 0, 0, 0, 0, 0, 0⟩
  | .xend => ⟨0, 0, 0, 0, 0, 0, 0⟩
  | .xloop count len => ⟨0, 0, 0, 0, 0, 0, count ++ len⟩
  | .xlay layout => ⟨0, 0, 0, 0, 0, 0, 0#20 ++ layout⟩
  | .xbw bar => ⟨0, 0, 0, 0, bar, 0, 0⟩
  | .xba bar scope => ⟨0, 0, 0, 0, bar, 0, 0#22 ++ scope⟩
  | .xlds ta fmt sa => ⟨ta, 0, 0, 0, 0, fmt.bits4, 0#22 ++ BitVec.ofBool sa ++ 0#1⟩
  | .xswp => ⟨0, 0, 0, 0, 0, 0, 0⟩
  | .xzero ap int sat => ⟨0, 0, ap, 0, 0, 0, 0#22 ++ BitVec.ofBool sat ++ BitVec.ofBool int⟩
  | .xout ta ap fmt rnd satf ne norm sa => ⟨ta, 0, ap, 0, 0, fmt.bits4, 0#14 ++ BitVec.ofBool sa ++ norm ++ BitVec.ofBool ne ++ BitVec.ofBool satf ++ 0#1 ++ rnd⟩
  | .xmma ta ap fmt fin sa => ⟨ta, 0, ap, 0, 0, fmt.bits4, 0#22 ++ BitVec.ofBool sa ++ BitVec.ofBool fin⟩
  | .xmms ta ap fmt fin sa => ⟨ta, 0, ap, 0, 0, fmt.bits4, 0#22 ++ BitVec.ofBool sa ++ BitVec.ofBool fin⟩
  | .xdual ta tb ap aq fmt fin sa sb => ⟨ta, tb, ap, aq, 0, fmt.bits4, 0#21 ++ BitVec.ofBool sb ++ BitVec.ofBool sa ++ BitVec.ofBool fin⟩
  | .xmom ta tb ap aq fmt fin sa sb => ⟨ta, tb, ap, aq, 0, fmt.bits4, 0#21 ++ BitVec.ofBool sb ++ BitVec.ofBool sa ++ BitVec.ofBool fin⟩
  | .rput _ => ⟨0, 0, 0, 0, 0, 0, 0⟩
  | .rget _ => ⟨0, 0, 0, 0, 0, 0, 0⟩
  | .ratom _ => ⟨0, 0, 0, 0, 0, 0, 0⟩
  | .rputm _ _ _ _ => ⟨0, 0, 0, 0, 0, 0, 0⟩
  | .coll _ => ⟨0, 0, 0, 0, 0, 0, 0⟩
  | .topov _ _ => ⟨0, 0, 0, 0, 0, 0, 0⟩
  | .psendData _ _ => ⟨0, 0, 0, 0, 0, 0, 0⟩
  | .psendReduce _ _ _ => ⟨0, 0, 0, 0, 0, 0, 0⟩
  | .psendDone _ _ => ⟨0, 0, 0, 0, 0, 0, 0⟩
  | .precv _ => ⟨0, 0, 0, 0, 0, 0, 0⟩
  | .pred _ _ _ _ => ⟨0, 0, 0, 0, 0, 0, 0⟩
  | .pqnt _ _ _ _ => ⟨0, 0, 0, 0, 0, 0, 0⟩
  | .pwait _ _ _ => ⟨0, 0, 0, 0, 0, 0, 0⟩
  | .proute _ => ⟨0, 0, 0, 0, 0, 0, 0⟩
  | .trap _ _ => ⟨0, 0, 0, 0, 0, 0, 0⟩
  | .eret _ => ⟨0, 0, 0, 0, 0, 0, 0⟩
  | .gets _ _ => ⟨0, 0, 0, 0, 0, 0, 0⟩
  | .sets _ _ => ⟨0, 0, 0, 0, 0, 0, 0⟩
  | .brk _ _ => ⟨0, 0, 0, 0, 0, 0, 0⟩
  | .icinv _ _ _ => ⟨0, 0, 0, 0, 0, 0, 0⟩
  | .tlbi _ _ _ => ⟨0, 0, 0, 0, 0, 0, 0⟩
  | .halt _ => ⟨0, 0, 0, 0, 0, 0, 0⟩
  | .time _ => ⟨0, 0, 0, 0, 0, 0, 0⟩
  | .perf _ _ _ => ⟨0, 0, 0, 0, 0, 0, 0⟩
  | .slotwBind _ => ⟨0, 0, 0, 0, 0, 0, 0⟩
  | .slotwStop _ => ⟨0, 0, 0, 0, 0, 0, 0⟩
  | .slotwRelease _ => ⟨0, 0, 0, 0, 0, 0, 0⟩
  | .slotwKill _ => ⟨0, 0, 0, 0, 0, 0, 0⟩
  | .slotwSet _ => ⟨0, 0, 0, 0, 0, 0, 0⟩
  | .ctxsave _ => ⟨0, 0, 0, 0, 0, 0, 0⟩
  | .ctxload _ => ⟨0, 0, 0, 0, 0, 0, 0⟩
  | .waitev _ => ⟨0, 0, 0, 0, 0, 0, 0⟩
  | .issueGroup _ _ => ⟨0, 0, 0, 0, 0, 0, 0⟩
  | .asyncTrapDelivery _ => ⟨0, 0, 0, 0, 0, 0, 0⟩
  | .deferredWrite _ => ⟨0, 0, 0, 0, 0, 0, 0⟩
  | .sleepWake _ => ⟨0, 0, 0, 0, 0, 0, 0⟩
  | .starvation _ => ⟨0, 0, 0, 0, 0, 0, 0⟩
  | .storeDrain _ _ => ⟨0, 0, 0, 0, 0, 0, 0⟩
  | .storeAtHome _ => ⟨0, 0, 0, 0, 0, 0, 0⟩
  | .storeAck _ => ⟨0, 0, 0, 0, 0, 0, 0⟩
  | .loadAtHome _ _ => ⟨0, 0, 0, 0, 0, 0, 0⟩
  | .atomicAtHome _ => ⟨0, 0, 0, 0, 0, 0, 0⟩
  | .bfaAdd _ => ⟨0, 0, 0, 0, 0, 0, 0⟩
  | .burstRequest _ => ⟨0, 0, 0, 0, 0, 0, 0⟩
  | .burstArrival _ _ => ⟨0, 0, 0, 0, 0, 0, 0⟩
  | .handlerAdmit _ => ⟨0, 0, 0, 0, 0, 0, 0⟩
  | .lastBurst _ => ⟨0, 0, 0, 0, 0, 0, 0⟩
  | .copyUnit _ => ⟨0, 0, 0, 0, 0, 0, 0⟩
  | .copyComplete _ => ⟨0, 0, 0, 0, 0, 0, 0⟩
  | .tileScrubEnd _ _ => ⟨0, 0, 0, 0, 0, 0, 0⟩
  | .tileAddLand _ => ⟨0, 0, 0, 0, 0, 0, 0⟩
  | .acrdRead _ => ⟨0, 0, 0, 0, 0, 0, 0⟩
  | .acwmResult _ => ⟨0, 0, 0, 0, 0, 0, 0⟩
  | .packetHop _ => ⟨0, 0, 0, 0, 0, 0, 0⟩
  | .icinvComplete _ => ⟨0, 0, 0, 0, 0, 0, 0⟩
  | .tlbiComplete _ => ⟨0, 0, 0, 0, 0, 0, 0⟩
  | .bootStart _ _ _ _ _ => ⟨0, 0, 0, 0, 0, 0, 0⟩
  | .llsDecay _ => ⟨0, 0, 0, 0, 0, 0, 0⟩
  | .rjhTimeout _ _ => ⟨0, 0, 0, 0, 0, 0, 0⟩
  | .bandNumberRelease _ _ => ⟨0, 0, 0, 0, 0, 0, 0⟩
  | .trussRelease _ => ⟨0, 0, 0, 0, 0, 0, 0⟩
  | .trussReleaseArrival _ _ => ⟨0, 0, 0, 0, 0, 0, 0⟩
  | .partMaskWrite _ => ⟨0, 0, 0, 0, 0, 0, 0⟩
  | .pageWalk _ _ _ => ⟨0, 0, 0, 0, 0, 0, 0⟩
  | .verdictReply _ _ _ _ _ => ⟨0, 0, 0, 0, 0, 0, 0⟩
  | .cacheLineExpiry _ _ _ => ⟨0, 0, 0, 0, 0, 0, 0⟩
  | .bupdElement _ _ => ⟨0, 0, 0, 0, 0, 0, 0⟩
  | .eccError _ _ => ⟨0, 0, 0, 0, 0, 0, 0⟩
  | .windowTableWrite _ _ _ _ _ => ⟨0, 0, 0, 0, 0, 0, 0⟩
  | .scrubGo _ => ⟨0, 0, 0, 0, 0, 0, 0⟩
  | .scrubDone _ => ⟨0, 0, 0, 0, 0, 0, 0⟩
  | .faultRetry _ _ => ⟨0, 0, 0, 0, 0, 0, 0⟩
  | .faultAbandon _ _ => ⟨0, 0, 0, 0, 0, 0, 0⟩
  | .entryStopped _ _ => ⟨0, 0, 0, 0, 0, 0, 0⟩
  | .scanOut _ _ => ⟨0, 0, 0, 0, 0, 0, 0⟩
  | .entryActivate _ _ => ⟨0, 0, 0, 0, 0, 0, 0⟩
  | .entryRestore _ _ => ⟨0, 0, 0, 0, 0, 0, 0⟩
  | .quantumExpiry _ _ => ⟨0, 0, 0, 0, 0, 0, 0⟩
  | .entryDone _ _ => ⟨0, 0, 0, 0, 0, 0, 0⟩
  | .entryKillDone _ _ => ⟨0, 0, 0, 0, 0, 0, 0⟩
  | .threadResume _ => ⟨0, 0, 0, 0, 0, 0, 0⟩
  | .threadKill _ => ⟨0, 0, 0, 0, 0, 0, 0⟩
  | .threadPcWrite _ _ => ⟨0, 0, 0, 0, 0, 0, 0⟩
  | .ctxCreate _ _ => ⟨0, 0, 0, 0, 0, 0, 0⟩
  | .ctxKill _ _ => ⟨0, 0, 0, 0, 0, 0, 0⟩
  | .ctxFree _ _ => ⟨0, 0, 0, 0, 0, 0, 0⟩
  | .bandKill _ _ => ⟨0, 0, 0, 0, 0, 0, 0⟩
  | .chunkSend _ _ => ⟨0, 0, 0, 0, 0, 0, 0⟩
  | .dlaunchEntryFree _ _ => ⟨0, 0, 0, 0, 0, 0, 0⟩
  | .windowSpill _ => ⟨0, 0, 0, 0, 0, 0, 0⟩
  | .windowFill _ => ⟨0, 0, 0, 0, 0, 0, 0⟩
  | .normAcc _ _ _ => ⟨0, 0, 0, 0, 0, 0, 0⟩
  | .normZero _ _ => ⟨0, 0, 0, 0, 0, 0, 0⟩
  | .normStatWrite _ _ _ => ⟨0, 0, 0, 0, 0, 0, 0⟩
  | .arrayRowFinal _ _ => ⟨0, 0, 0, 0, 0, 0, 0⟩
  | .streamInstrComplete _ _ => ⟨0, 0, 0, 0, 0, 0, 0⟩
  | .linkTrain _ _ _ => ⟨0, 0, 0, 0, 0, 0, 0⟩
  | .linkTakeDown _ _ _ => ⟨0, 0, 0, 0, 0, 0, 0⟩
  | .linkPartnerDetect _ _ _ _ => ⟨0, 0, 0, 0, 0, 0, 0⟩
  | .linkTrainResult _ _ _ _ => ⟨0, 0, 0, 0, 0, 0, 0⟩
  | .linkStateTimeout _ _ _ => ⟨0, 0, 0, 0, 0, 0, 0⟩
  | .linkLaneFail _ _ _ _ => ⟨0, 0, 0, 0, 0, 0, 0⟩
  | .flitCrcRetry _ _ _ _ => ⟨0, 0, 0, 0, 0, 0, 0⟩
  | .portWaitTimeout _ => ⟨0, 0, 0, 0, 0, 0, 0⟩
  | .multicastReplicate _ => ⟨0, 0, 0, 0, 0, 0, 0⟩
  | .ppPacketArrival _ => ⟨0, 0, 0, 0, 0, 0, 0⟩
  | .versionHoldTimeout _ => ⟨0, 0, 0, 0, 0, 0, 0⟩
  | .collAccept _ => ⟨0, 0, 0, 0, 0, 0, 0⟩
  | .collAbort _ => ⟨0, 0, 0, 0, 0, 0, 0⟩
  | .doneDelivery _ => ⟨0, 0, 0, 0, 0, 0, 0⟩
  | .topologyVersionWrite _ _ => ⟨0, 0, 0, 0, 0, 0, 0⟩
  | .extPacketReceive _ _ _ _ => ⟨0, 0, 0, 0, 0, 0, 0⟩
  | .hostRdmaWrite _ _ _ _ => ⟨0, 0, 0, 0, 0, 0, 0⟩
  | .hostRdmaRead _ _ _ _ => ⟨0, 0, 0, 0, 0, 0, 0⟩
  | .hostRdmaAtomic _ _ _ _ _ _ => ⟨0, 0, 0, 0, 0, 0, 0⟩
  | .alarmSensor _ _ => ⟨0, 0, 0, 0, 0, 0, 0⟩
  | .telemetryUpdate _ _ _ _ _ => ⟨0, 0, 0, 0, 0, 0, 0⟩
  | .clockStepDown _ => ⟨0, 0, 0, 0, 0, 0, 0⟩
  | .clockStepUp _ => ⟨0, 0, 0, 0, 0, 0, 0⟩
  | .currentLimitWrite _ _ => ⟨0, 0, 0, 0, 0, 0, 0⟩
  | .thermalUpdate _ _ _ => ⟨0, 0, 0, 0, 0, 0, 0⟩
  | .ringLockLoss _ _ => ⟨0, 0, 0, 0, 0, 0, 0⟩
  | .wearSample _ _ _ _ => ⟨0, 0, 0, 0, 0, 0, 0⟩
  | .ctxsaveDone _ _ => ⟨0, 0, 0, 0, 0, 0, 0⟩
  | .ctxloadDone _ _ => ⟨0, 0, 0, 0, 0, 0, 0⟩
  | .registerWrite _ _ _ => ⟨0, 0, 0, 0, 0, 0, 0⟩
  | .ccleanCinvComplete _ => ⟨0, 0, 0, 0, 0, 0, 0⟩
  | .deliveryGiveUp _ => ⟨0, 0, 0, 0, 0, 0, 0⟩
  | .ringLockRegain _ _ => ⟨0, 0, 0, 0, 0, 0, 0⟩
  | .streamWordFault _ _ => ⟨0, 0, 0, 0, 0, 0, 0⟩
  | .powerOnReset => ⟨0, 0, 0, 0, 0, 0, 0⟩
  | .waferRelease => ⟨0, 0, 0, 0, 0, 0, 0⟩
  | .clauseCommit => ⟨0, 0, 0, 0, 0, 0, 0⟩
  | .alarmContextsKilled => ⟨0, 0, 0, 0, 0, 0, 0⟩
  | .keyEraseDone => ⟨0, 0, 0, 0, 0, 0, 0⟩
  | .powerOff => ⟨0, 0, 0, 0, 0, 0, 0⟩

/-- The stream instruction that opcode `op` names (R272), its fields taken from the word. -/
def buildX (op : Nat) (w : Word) : Option Instr :=
  match op with
  | 0x00 => some (.xnop)
  | 0x01 => some (.xend)
  | 0x02 => some (.xloop (w.extractLsb' 12 12) (w.extractLsb' 0 12))
  | 0x03 => some (.xlay (w.extractLsb' 0 4))
  | 0x04 => some (.xbw (w.extractLsb' 34 4))
  | 0x05 => some (.xba (w.extractLsb' 34 4) (w.extractLsb' 0 2))
  | 0x08 => (Fmt.of (w.extractLsb' 30 4)).bind fun fmt => some (.xlds (w.extractLsb' 50 6) fmt (w.getLsbD 1))
  | 0x09 => some (.xswp)
  | 0x0A => some (.xzero (w.extractLsb' 41 3) (w.getLsbD 0) (w.getLsbD 1))
  | 0x0B => (Fmt.of (w.extractLsb' 30 4)).bind fun fmt => some (.xout (w.extractLsb' 50 6) (w.extractLsb' 41 3) fmt (w.extractLsb' 0 2) (w.getLsbD 3) (w.getLsbD 4) (w.extractLsb' 5 4) (w.getLsbD 9))
  | 0x10 => (Fmt.of (w.extractLsb' 30 4)).bind fun fmt => some (.xmma (w.extractLsb' 50 6) (w.extractLsb' 41 3) fmt (w.getLsbD 0) (w.getLsbD 1))
  | 0x11 => (Fmt.of (w.extractLsb' 30 4)).bind fun fmt => some (.xmms (w.extractLsb' 50 6) (w.extractLsb' 41 3) fmt (w.getLsbD 0) (w.getLsbD 1))
  | 0x12 => (Fmt.of (w.extractLsb' 30 4)).bind fun fmt => some (.xdual (w.extractLsb' 50 6) (w.extractLsb' 44 6) (w.extractLsb' 41 3) (w.extractLsb' 38 3) fmt (w.getLsbD 0) (w.getLsbD 1) (w.getLsbD 2))
  | 0x13 => (Fmt.of (w.extractLsb' 30 4)).bind fun fmt => some (.xmom (w.extractLsb' 50 6) (w.extractLsb' 44 6) (w.extractLsb' 41 3) (w.extractLsb' 38 3) fmt (w.getLsbD 0) (w.getLsbD 1) (w.getLsbD 2))
  | _ => none

/-- The stream opcode map (R58). -/
def xMap : List (Nat × Nat) := [(0x00, 0x05), (0x08, 0x0B), (0x10, 0x13)]

/-- A stream word (R50, R59): illegal opcode, then reserved fields. -/
def decodeX (w : Word) : Except DecErr Instr :=
  let op := (w.extractLsb' 56 8).toNat
  if !inRanges xMap op then .error .illegalOpcode else
  match buildX op w with
  | none => .error .reservedField
  | some i =>
    if i.xfields != unX w || w.extractLsb' 24 6 != 0 || !i.reservedOk then .error .reservedField else .ok i

/-- What the host's table asks of the decoder: a clause header in the first 64 bits makes the next 64 bits a word of its
pipe; a first word without the header's MARK is a stream word. -/
def decodeTableWord (nbits w : Nat) : Option Instr :=
  let v := w % 2 ^ nbits
  let h := BitVec.ofNat 64 v
  match decodeHeader h with
  | .ok hd => (decodeWord hd.pipe (BitVec.ofNat 64 (v >>> 64))).toOption
  | .error _ => (decodeX h).toOption

/-! The encoder. -/

def Src.bits : Src → BitVec 7
  | .reg n => 0#1 ++ n
  | .latch k => 1#1 ++ 0#4 ++ k

def BForm.body (b : BForm) (md : BitVec 24) : BitVec 56 :=
  BitVec.ofBool b.pn ++ b.pr ++ b.dst ++ BitVec.ofBool b.nw ++ b.a.bits ++ b.b.bits ++ b.c.bits ++ md

def QForm.body (q : QForm) (md : BitVec 24) : BitVec 56 :=
  BitVec.ofBool q.pn ++ q.pr ++ q.dst ++ 0#1 ++ q.a.bits ++ q.b.bits ++ q.c.bits ++ md

def LForm.body (l : LForm) : BitVec 56 :=
  BitVec.ofBool l.pn ++ l.pr ++ l.dst ++ BitVec.ofBool l.nw ++ l.a.bits ++ 0#6 ++ l.imm

def JForm.body (j : JForm) : BitVec 56 := BitVec.ofBool j.pn ++ j.pr ++ 0#7 ++ j.a.bits ++ 0#6 ++ j.off

def MForm.body (f : MForm) : BitVec 56 :=
  BitVec.ofBool f.pn ++ f.pr ++ f.dst ++ 0#1 ++ f.a.bits ++ f.b.bits ++ f.scope ++ f.ord ++ BitVec.ofBool f.inv ++
    BitVec.ofBool f.rc ++ 0#1 ++ BitVec.ofBool f.sbe ++ f.sb ++ f.off

def XFields.body (x : XFields) : BitVec 56 := x.ta ++ x.tb ++ x.ap ++ x.aq ++ x.bar ++ x.fmt ++ 0#6 ++ x.imm

/-- Pipe and opcode of an instruction word (R54 to R57); a stream word or an event has none. -/
def Instr.code : Instr → Option (Pipe × Nat)
  | .nop _ => some (.s, 0x00)
  | .yield_ _ => some (.s, 0x01)
  | .sleep _ _ => some (.s, 0x02)
  | .exit _ => some (.s, 0x03)
  | .bra _ => some (.s, 0x04)
  | .brc _ => some (.s, 0x05)
  | .brx _ => some (.s, 0x06)
  | .call _ => some (.s, 0x07)
  | .callx _ => some (.s, 0x08)
  | .ret _ => some (.s, 0x09)
  | .spawn _ _ => some (.s, 0x0A)
  | .bandnew _ => some (.s, 0x10)
  | .join _ => some (.s, 0x11)
  | .leave _ => some (.s, 0x12)
  | .bandq _ _ => some (.s, 0x13)
  | .rjen _ _ => some (.s, 0x14)
  | .rjwait _ _ => some (.s, 0x15)
  | .rjstrike _ _ => some (.s, 0x16)
  | .bari _ _ => some (.s, 0x18)
  | .bara _ _ _ _ => some (.s, 0x19)
  | .barx _ _ => some (.s, 0x1A)
  | .barw _ _ _ => some (.s, 0x1B)
  | .bart _ _ _ => some (.s, 0x1C)
  | .vote _ _ => some (.s, 0x1D)
  | .shfl _ _ _ => some (.s, 0x1E)
  | .tra _ _ => some (.s, 0x20)
  | .trw _ _ => some (.s, 0x21)
  | .trq _ _ => some (.s, 0x22)
  | .klaunch _ => some (.y, 0x0A)
  | .iadd _ _ => some (.s, 0x30)
  | .iaddImm _ => some (.s, 0x60)
  | .isub _ _ => some (.s, 0x31)
  | .ineg _ _ => some (.s, 0x37)
  | .iabs _ _ => some (.s, 0x38)
  | .imul _ _ => some (.s, 0x32)
  | .imulImm _ => some (.s, 0x61)
  | .imulh _ _ => some (.s, 0x33)
  | .imad _ _ => some (.s, 0x34)
  | .idiv _ _ => some (.s, 0x35)
  | .irem _ _ => some (.s, 0x36)
  | .imin _ _ => some (.s, 0x39)
  | .iminImm _ => some (.s, 0x65)
  | .imax _ _ => some (.s, 0x3A)
  | .imaxImm _ => some (.s, 0x66)
  | .and _ _ => some (.s, 0x40)
  | .andImm _ => some (.s, 0x62)
  | .or _ _ => some (.s, 0x41)
  | .orImm _ => some (.s, 0x63)
  | .xor _ _ => some (.s, 0x42)
  | .xorImm _ => some (.s, 0x64)
  | .andn _ _ => some (.s, 0x43)
  | .shl _ _ => some (.s, 0x44)
  | .shr _ _ => some (.s, 0x45)
  | .sar _ _ => some (.s, 0x46)
  | .rol _ _ => some (.s, 0x47)
  | .clz _ _ => some (.s, 0x48)
  | .ctz _ _ => some (.s, 0x49)
  | .popc _ _ => some (.s, 0x4A)
  | .brev _ _ => some (.s, 0x4B)
  | .bfx _ _ => some (.s, 0x4C)
  | .bfi _ _ => some (.s, 0x4D)
  | .icmp _ _ => some (.s, 0x50)
  | .icmpImm _ => some (.s, 0x67)
  | .sel _ => some (.s, 0x51)
  | .mov _ => some (.s, 0x52)
  | .movi _ => some (.s, 0x68)
  | .movh _ => some (.s, 0x69)
  | .lea _ _ => some (.s, 0x53)
  | .leaImm _ => some (.s, 0x6A)
  | .pand _ _ => some (.s, 0x54)
  | .por _ _ => some (.s, 0x55)
  | .pxor _ _ => some (.s, 0x56)
  | .pnot _ => some (.s, 0x57)
  | .fadd _ _ => some (.s, 0x80)
  | .fsub _ _ => some (.s, 0x81)
  | .fmul _ _ => some (.s, 0x82)
  | .ffma _ _ => some (.s, 0x83)
  | .fmin _ _ => some (.s, 0x84)
  | .fmax _ _ => some (.s, 0x85)
  | .fabs _ _ => some (.s, 0x86)
  | .fneg _ _ => some (.s, 0x87)
  | .fcmp _ _ => some (.s, 0x88)
  | .fclass _ _ => some (.s, 0x89)
  | .frcp _ _ => some (.s, 0x8A)
  | .frsq _ _ => some (.s, 0x8B)
  | .fsqrt _ _ => some (.s, 0x8C)
  | .fex2 _ _ => some (.s, 0x8D)
  | .flg2 _ _ => some (.s, 0x8E)
  | .fcvt _ _ => some (.s, 0x8F)
  | .itof _ _ => some (.s, 0x90)
  | .ftoi _ _ => some (.s, 0x91)
  | .wadd _ _ => some (.w, 0x00)
  | .wsub _ _ => some (.w, 0x01)
  | .wmul _ _ => some (.w, 0x02)
  | .wfma _ _ => some (.w, 0x03)
  | .wmin _ _ => some (.w, 0x04)
  | .wmax _ _ => some (.w, 0x05)
  | .wact _ _ => some (.w, 0x06)
  | .wrsum _ _ => some (.w, 0x07)
  | .wdot _ _ => some (.w, 0x08)
  | .wcvt _ _ => some (.w, 0x09)
  | .wqnt _ _ => some (.w, 0x0A)
  | .wdq _ _ => some (.w, 0x0B)
  | .wscl _ _ => some (.w, 0x0C)
  | .wprm _ _ => some (.w, 0x0D)
  | .wbc _ _ => some (.w, 0x0E)
  | .wcmp _ _ => some (.w, 0x0F)
  | .wsel _ _ => some (.w, 0x10)
  | .wins _ _ => some (.w, 0x11)
  | .wext _ _ => some (.w, 0x12)
  | .mset _ _ => some (.w, 0x40)
  | .mcol _ _ => some (.w, 0x41)
  | .mmov _ _ => some (.w, 0x42)
  | .madd _ _ => some (.w, 0x43)
  | .msub _ _ => some (.w, 0x44)
  | .mmul _ _ => some (.w, 0x45)
  | .mscl _ _ => some (.w, 0x46)
  | .maddc _ _ => some (.w, 0x47)
  | .mfma _ _ => some (.w, 0x48)
  | .mrel _ _ => some (.w, 0x49)
  | .msig _ _ => some (.w, 0x4A)
  | .mexp _ _ => some (.w, 0x4B)
  | .mchk _ _ => some (.w, 0x4C)
  | .ldU8 _ => some (.m, 0x00)
  | .ldS8 _ => some (.m, 0x01)
  | .ldU16 _ => some (.m, 0x02)
  | .ldS16 _ => some (.m, 0x03)
  | .ldU32 _ => some (.m, 0x04)
  | .ldS32 _ => some (.m, 0x05)
  | .ld64 _ => some (.m, 0x06)
  | .ldG _ => some (.m, 0x07)
  | .ldGE _ => some (.m, 0x08)
  | .ldGS _ => some (.m, 0x09)
  | .st8 _ => some (.m, 0x10)
  | .st16 _ => some (.m, 0x11)
  | .st32 _ => some (.m, 0x12)
  | .st64 _ => some (.m, 0x13)
  | .stG _ => some (.m, 0x14)
  | .stGE _ => some (.m, 0x15)
  | .stGS _ => some (.m, 0x16)
  | .stn _ => some (.m, 0x20)
  | .atom _ => some (.m, 0x21)
  | .red _ => some (.m, 0x22)
  | .cas _ => some (.m, 0x23)
  | .fence _ _ _ => some (.m, 0x24)
  | .pin _ => some (.m, 0x25)
  | .unpin _ => some (.m, 0x26)
  | .cclean _ => some (.m, 0x27)
  | .cinv _ => some (.m, 0x28)
  | .pref _ => some (.m, 0x29)
  | .probe _ => some (.m, 0x2C)
  | .bred _ _ _ => some (.m, 0x2B)
  | .bupd _ _ => some (.m, 0x2A)
  | .mld _ => some (.m, 0x2D)
  | .mst _ => some (.m, 0x2E)
  | .wkset _ _ => some (.m, 0x32)
  | .bread _ _ _ _ _ _ => some (.m, 0x30)
  | .hexit _ _ => some (.m, 0x31)
  | .acopy _ _ _ _ _ _ _ => some (.m, 0x33)
  | .acopyt _ _ _ _ _ _ _ => some (.m, 0x34)
  | .talloc _ _ => some (.m, 0x35)
  | .tfree _ => some (.m, 0x36)
  | .tstat _ => some (.m, 0x37)
  | .tlwait _ _ => some (.m, 0x38)
  | .tlread _ _ _ => some (.m, 0x39)
  | .cstat _ _ => some (.m, 0x3A)
  | .ccancel _ _ _ => some (.m, 0x3B)
  | .xbind _ => some (.m, 0x40)
  | .xbindU _ => some (.m, 0x40)
  | .xbindQ _ => some (.m, 0x40)
  | .acrd _ _ _ _ _ _ => some (.m, 0x41)
  | .acwm _ => some (.m, 0x42)
  | .acovf _ _ => some (.m, 0x43)
  | .xnop => none
  | .xend => none
  | .xloop _ _ => none
  | .xlay _ => none
  | .xbw _ => none
  | .xba _ _ => none
  | .xlds _ _ _ => none
  | .xswp => none
  | .xzero _ _ _ => none
  | .xout _ _ _ _ _ _ _ _ => none
  | .xmma _ _ _ _ _ => none
  | .xmms _ _ _ _ _ => none
  | .xdual _ _ _ _ _ _ _ _ => none
  | .xmom _ _ _ _ _ _ _ _ => none
  | .rput _ => some (.m, 0x50)
  | .rget _ => some (.m, 0x51)
  | .ratom _ => some (.m, 0x52)
  | .rputm _ _ _ _ => some (.m, 0x53)
  | .coll _ => some (.m, 0x54)
  | .topov _ _ => some (.m, 0x55)
  | .psendData _ _ => some (.m, 0x60)
  | .psendReduce _ _ _ => some (.m, 0x60)
  | .psendDone _ _ => some (.m, 0x60)
  | .precv _ => some (.m, 0x61)
  | .pred _ _ _ _ => some (.m, 0x62)
  | .pqnt _ _ _ _ => some (.m, 0x63)
  | .pwait _ _ _ => some (.m, 0x64)
  | .proute _ => some (.m, 0x65)
  | .trap _ _ => some (.y, 0x00)
  | .eret _ => some (.y, 0x01)
  | .gets _ _ => some (.y, 0x02)
  | .sets _ _ => some (.y, 0x03)
  | .brk _ _ => some (.y, 0x04)
  | .icinv _ _ _ => some (.y, 0x05)
  | .tlbi _ _ _ => some (.y, 0x06)
  | .halt _ => some (.y, 0x07)
  | .time _ => some (.y, 0x08)
  | .perf _ _ _ => some (.y, 0x09)
  | .slotwBind _ => some (.y, 0x20)
  | .slotwStop _ => some (.y, 0x20)
  | .slotwRelease _ => some (.y, 0x20)
  | .slotwKill _ => some (.y, 0x20)
  | .slotwSet _ => some (.y, 0x20)
  | .ctxsave _ => some (.y, 0x21)
  | .ctxload _ => some (.y, 0x22)
  | .waitev _ => some (.y, 0x23)
  | .issueGroup _ _ => none
  | .asyncTrapDelivery _ => none
  | .deferredWrite _ => none
  | .sleepWake _ => none
  | .starvation _ => none
  | .storeDrain _ _ => none
  | .storeAtHome _ => none
  | .storeAck _ => none
  | .loadAtHome _ _ => none
  | .atomicAtHome _ => none
  | .bfaAdd _ => none
  | .burstRequest _ => none
  | .burstArrival _ _ => none
  | .handlerAdmit _ => none
  | .lastBurst _ => none
  | .copyUnit _ => none
  | .copyComplete _ => none
  | .tileScrubEnd _ _ => none
  | .tileAddLand _ => none
  | .acrdRead _ => none
  | .acwmResult _ => none
  | .packetHop _ => none
  | .icinvComplete _ => none
  | .tlbiComplete _ => none
  | .bootStart _ _ _ _ _ => none
  | .llsDecay _ => none
  | .rjhTimeout _ _ => none
  | .bandNumberRelease _ _ => none
  | .trussRelease _ => none
  | .trussReleaseArrival _ _ => none
  | .partMaskWrite _ => none
  | .pageWalk _ _ _ => none
  | .verdictReply _ _ _ _ _ => none
  | .cacheLineExpiry _ _ _ => none
  | .bupdElement _ _ => none
  | .eccError _ _ => none
  | .windowTableWrite _ _ _ _ _ => none
  | .scrubGo _ => none
  | .scrubDone _ => none
  | .faultRetry _ _ => none
  | .faultAbandon _ _ => none
  | .entryStopped _ _ => none
  | .scanOut _ _ => none
  | .entryActivate _ _ => none
  | .entryRestore _ _ => none
  | .quantumExpiry _ _ => none
  | .entryDone _ _ => none
  | .entryKillDone _ _ => none
  | .threadResume _ => none
  | .threadKill _ => none
  | .threadPcWrite _ _ => none
  | .ctxCreate _ _ => none
  | .ctxKill _ _ => none
  | .ctxFree _ _ => none
  | .bandKill _ _ => none
  | .chunkSend _ _ => none
  | .dlaunchEntryFree _ _ => none
  | .windowSpill _ => none
  | .windowFill _ => none
  | .normAcc _ _ _ => none
  | .normZero _ _ => none
  | .normStatWrite _ _ _ => none
  | .arrayRowFinal _ _ => none
  | .streamInstrComplete _ _ => none
  | .linkTrain _ _ _ => none
  | .linkTakeDown _ _ _ => none
  | .linkPartnerDetect _ _ _ _ => none
  | .linkTrainResult _ _ _ _ => none
  | .linkStateTimeout _ _ _ => none
  | .linkLaneFail _ _ _ _ => none
  | .flitCrcRetry _ _ _ _ => none
  | .portWaitTimeout _ => none
  | .multicastReplicate _ => none
  | .ppPacketArrival _ => none
  | .versionHoldTimeout _ => none
  | .collAccept _ => none
  | .collAbort _ => none
  | .doneDelivery _ => none
  | .topologyVersionWrite _ _ => none
  | .extPacketReceive _ _ _ _ => none
  | .hostRdmaWrite _ _ _ _ => none
  | .hostRdmaRead _ _ _ _ => none
  | .hostRdmaAtomic _ _ _ _ _ _ => none
  | .alarmSensor _ _ => none
  | .telemetryUpdate _ _ _ _ _ => none
  | .clockStepDown _ => none
  | .clockStepUp _ => none
  | .currentLimitWrite _ _ => none
  | .thermalUpdate _ _ _ => none
  | .ringLockLoss _ _ => none
  | .wearSample _ _ _ _ => none
  | .ctxsaveDone _ _ => none
  | .ctxloadDone _ _ => none
  | .registerWrite _ _ _ => none
  | .ccleanCinvComplete _ => none
  | .deliveryGiveUp _ => none
  | .ringLockRegain _ _ => none
  | .streamWordFault _ _ => none
  | .powerOnReset => none
  | .waferRelease => none
  | .clauseCommit => none
  | .alarmContextsKilled => none
  | .keyEraseDone => none
  | .powerOff => none

/-- Opcode of a stream word (R58). -/
def Instr.xcode : Instr → Option Nat
  | .nop _ => none
  | .yield_ _ => none
  | .sleep _ _ => none
  | .exit _ => none
  | .bra _ => none
  | .brc _ => none
  | .brx _ => none
  | .call _ => none
  | .callx _ => none
  | .ret _ => none
  | .spawn _ _ => none
  | .bandnew _ => none
  | .join _ => none
  | .leave _ => none
  | .bandq _ _ => none
  | .rjen _ _ => none
  | .rjwait _ _ => none
  | .rjstrike _ _ => none
  | .bari _ _ => none
  | .bara _ _ _ _ => none
  | .barx _ _ => none
  | .barw _ _ _ => none
  | .bart _ _ _ => none
  | .vote _ _ => none
  | .shfl _ _ _ => none
  | .tra _ _ => none
  | .trw _ _ => none
  | .trq _ _ => none
  | .klaunch _ => none
  | .iadd _ _ => none
  | .iaddImm _ => none
  | .isub _ _ => none
  | .ineg _ _ => none
  | .iabs _ _ => none
  | .imul _ _ => none
  | .imulImm _ => none
  | .imulh _ _ => none
  | .imad _ _ => none
  | .idiv _ _ => none
  | .irem _ _ => none
  | .imin _ _ => none
  | .iminImm _ => none
  | .imax _ _ => none
  | .imaxImm _ => none
  | .and _ _ => none
  | .andImm _ => none
  | .or _ _ => none
  | .orImm _ => none
  | .xor _ _ => none
  | .xorImm _ => none
  | .andn _ _ => none
  | .shl _ _ => none
  | .shr _ _ => none
  | .sar _ _ => none
  | .rol _ _ => none
  | .clz _ _ => none
  | .ctz _ _ => none
  | .popc _ _ => none
  | .brev _ _ => none
  | .bfx _ _ => none
  | .bfi _ _ => none
  | .icmp _ _ => none
  | .icmpImm _ => none
  | .sel _ => none
  | .mov _ => none
  | .movi _ => none
  | .movh _ => none
  | .lea _ _ => none
  | .leaImm _ => none
  | .pand _ _ => none
  | .por _ _ => none
  | .pxor _ _ => none
  | .pnot _ => none
  | .fadd _ _ => none
  | .fsub _ _ => none
  | .fmul _ _ => none
  | .ffma _ _ => none
  | .fmin _ _ => none
  | .fmax _ _ => none
  | .fabs _ _ => none
  | .fneg _ _ => none
  | .fcmp _ _ => none
  | .fclass _ _ => none
  | .frcp _ _ => none
  | .frsq _ _ => none
  | .fsqrt _ _ => none
  | .fex2 _ _ => none
  | .flg2 _ _ => none
  | .fcvt _ _ => none
  | .itof _ _ => none
  | .ftoi _ _ => none
  | .wadd _ _ => none
  | .wsub _ _ => none
  | .wmul _ _ => none
  | .wfma _ _ => none
  | .wmin _ _ => none
  | .wmax _ _ => none
  | .wact _ _ => none
  | .wrsum _ _ => none
  | .wdot _ _ => none
  | .wcvt _ _ => none
  | .wqnt _ _ => none
  | .wdq _ _ => none
  | .wscl _ _ => none
  | .wprm _ _ => none
  | .wbc _ _ => none
  | .wcmp _ _ => none
  | .wsel _ _ => none
  | .wins _ _ => none
  | .wext _ _ => none
  | .mset _ _ => none
  | .mcol _ _ => none
  | .mmov _ _ => none
  | .madd _ _ => none
  | .msub _ _ => none
  | .mmul _ _ => none
  | .mscl _ _ => none
  | .maddc _ _ => none
  | .mfma _ _ => none
  | .mrel _ _ => none
  | .msig _ _ => none
  | .mexp _ _ => none
  | .mchk _ _ => none
  | .ldU8 _ => none
  | .ldS8 _ => none
  | .ldU16 _ => none
  | .ldS16 _ => none
  | .ldU32 _ => none
  | .ldS32 _ => none
  | .ld64 _ => none
  | .ldG _ => none
  | .ldGE _ => none
  | .ldGS _ => none
  | .st8 _ => none
  | .st16 _ => none
  | .st32 _ => none
  | .st64 _ => none
  | .stG _ => none
  | .stGE _ => none
  | .stGS _ => none
  | .stn _ => none
  | .atom _ => none
  | .red _ => none
  | .cas _ => none
  | .fence _ _ _ => none
  | .pin _ => none
  | .unpin _ => none
  | .cclean _ => none
  | .cinv _ => none
  | .pref _ => none
  | .probe _ => none
  | .bred _ _ _ => none
  | .bupd _ _ => none
  | .mld _ => none
  | .mst _ => none
  | .wkset _ _ => none
  | .bread _ _ _ _ _ _ => none
  | .hexit _ _ => none
  | .acopy _ _ _ _ _ _ _ => none
  | .acopyt _ _ _ _ _ _ _ => none
  | .talloc _ _ => none
  | .tfree _ => none
  | .tstat _ => none
  | .tlwait _ _ => none
  | .tlread _ _ _ => none
  | .cstat _ _ => none
  | .ccancel _ _ _ => none
  | .xbind _ => none
  | .xbindU _ => none
  | .xbindQ _ => none
  | .acrd _ _ _ _ _ _ => none
  | .acwm _ => none
  | .acovf _ _ => none
  | .xnop => some 0x00
  | .xend => some 0x01
  | .xloop _ _ => some 0x02
  | .xlay _ => some 0x03
  | .xbw _ => some 0x04
  | .xba _ _ => some 0x05
  | .xlds _ _ _ => some 0x08
  | .xswp => some 0x09
  | .xzero _ _ _ => some 0x0A
  | .xout _ _ _ _ _ _ _ _ => some 0x0B
  | .xmma _ _ _ _ _ => some 0x10
  | .xmms _ _ _ _ _ => some 0x11
  | .xdual _ _ _ _ _ _ _ _ => some 0x12
  | .xmom _ _ _ _ _ _ _ _ => some 0x13
  | .rput _ => none
  | .rget _ => none
  | .ratom _ => none
  | .rputm _ _ _ _ => none
  | .coll _ => none
  | .topov _ _ => none
  | .psendData _ _ => none
  | .psendReduce _ _ _ => none
  | .psendDone _ _ => none
  | .precv _ => none
  | .pred _ _ _ _ => none
  | .pqnt _ _ _ _ => none
  | .pwait _ _ _ => none
  | .proute _ => none
  | .trap _ _ => none
  | .eret _ => none
  | .gets _ _ => none
  | .sets _ _ => none
  | .brk _ _ => none
  | .icinv _ _ _ => none
  | .tlbi _ _ _ => none
  | .halt _ => none
  | .time _ => none
  | .perf _ _ _ => none
  | .slotwBind _ => none
  | .slotwStop _ => none
  | .slotwRelease _ => none
  | .slotwKill _ => none
  | .slotwSet _ => none
  | .ctxsave _ => none
  | .ctxload _ => none
  | .waitev _ => none
  | .issueGroup _ _ => none
  | .asyncTrapDelivery _ => none
  | .deferredWrite _ => none
  | .sleepWake _ => none
  | .starvation _ => none
  | .storeDrain _ _ => none
  | .storeAtHome _ => none
  | .storeAck _ => none
  | .loadAtHome _ _ => none
  | .atomicAtHome _ => none
  | .bfaAdd _ => none
  | .burstRequest _ => none
  | .burstArrival _ _ => none
  | .handlerAdmit _ => none
  | .lastBurst _ => none
  | .copyUnit _ => none
  | .copyComplete _ => none
  | .tileScrubEnd _ _ => none
  | .tileAddLand _ => none
  | .acrdRead _ => none
  | .acwmResult _ => none
  | .packetHop _ => none
  | .icinvComplete _ => none
  | .tlbiComplete _ => none
  | .bootStart _ _ _ _ _ => none
  | .llsDecay _ => none
  | .rjhTimeout _ _ => none
  | .bandNumberRelease _ _ => none
  | .trussRelease _ => none
  | .trussReleaseArrival _ _ => none
  | .partMaskWrite _ => none
  | .pageWalk _ _ _ => none
  | .verdictReply _ _ _ _ _ => none
  | .cacheLineExpiry _ _ _ => none
  | .bupdElement _ _ => none
  | .eccError _ _ => none
  | .windowTableWrite _ _ _ _ _ => none
  | .scrubGo _ => none
  | .scrubDone _ => none
  | .faultRetry _ _ => none
  | .faultAbandon _ _ => none
  | .entryStopped _ _ => none
  | .scanOut _ _ => none
  | .entryActivate _ _ => none
  | .entryRestore _ _ => none
  | .quantumExpiry _ _ => none
  | .entryDone _ _ => none
  | .entryKillDone _ _ => none
  | .threadResume _ => none
  | .threadKill _ => none
  | .threadPcWrite _ _ => none
  | .ctxCreate _ _ => none
  | .ctxKill _ _ => none
  | .ctxFree _ _ => none
  | .bandKill _ _ => none
  | .chunkSend _ _ => none
  | .dlaunchEntryFree _ _ => none
  | .windowSpill _ => none
  | .windowFill _ => none
  | .normAcc _ _ _ => none
  | .normZero _ _ => none
  | .normStatWrite _ _ _ => none
  | .arrayRowFinal _ _ => none
  | .streamInstrComplete _ _ => none
  | .linkTrain _ _ _ => none
  | .linkTakeDown _ _ _ => none
  | .linkPartnerDetect _ _ _ _ => none
  | .linkTrainResult _ _ _ _ => none
  | .linkStateTimeout _ _ _ => none
  | .linkLaneFail _ _ _ _ => none
  | .flitCrcRetry _ _ _ _ => none
  | .portWaitTimeout _ => none
  | .multicastReplicate _ => none
  | .ppPacketArrival _ => none
  | .versionHoldTimeout _ => none
  | .collAccept _ => none
  | .collAbort _ => none
  | .doneDelivery _ => none
  | .topologyVersionWrite _ _ => none
  | .extPacketReceive _ _ _ _ => none
  | .hostRdmaWrite _ _ _ _ => none
  | .hostRdmaRead _ _ _ _ => none
  | .hostRdmaAtomic _ _ _ _ _ _ => none
  | .alarmSensor _ _ => none
  | .telemetryUpdate _ _ _ _ _ => none
  | .clockStepDown _ => none
  | .clockStepUp _ => none
  | .currentLimitWrite _ _ => none
  | .thermalUpdate _ _ _ => none
  | .ringLockLoss _ _ => none
  | .wearSample _ _ _ _ => none
  | .ctxsaveDone _ _ => none
  | .ctxloadDone _ _ => none
  | .registerWrite _ _ _ => none
  | .ccleanCinvComplete _ => none
  | .deliveryGiveUp _ => none
  | .ringLockRegain _ _ => none
  | .streamWordFault _ _ => none
  | .powerOnReset => none
  | .waferRelease => none
  | .clauseCommit => none
  | .alarmContextsKilled => none
  | .keyEraseDone => none
  | .powerOff => none

/-- The word without its opcode and MOD: guard, destination and sources of the word's format (R41, R47 to R49). -/
def Instr.body : Instr → BitVec 56
  | .nop b => b.body (Instr.md (.nop b))
  | .yield_ b => b.body (Instr.md (.yield_ b))
  | .sleep b cycles => b.body (Instr.md (.sleep b cycles))
  | .exit b => b.body (Instr.md (.exit b))
  | .bra j => j.body
  | .brc j => j.body
  | .brx b => b.body (Instr.md (.brx b))
  | .call j => j.body
  | .callx b => b.body (Instr.md (.callx b))
  | .ret b => b.body (Instr.md (.ret b))
  | .spawn b jn => b.body (Instr.md (.spawn b jn))
  | .bandnew b => b.body (Instr.md (.bandnew b))
  | .join b => b.body (Instr.md (.join b))
  | .leave b => b.body (Instr.md (.leave b))
  | .bandq b query => b.body (Instr.md (.bandq b query))
  | .rjen b j => b.body (Instr.md (.rjen b j))
  | .rjwait b j => b.body (Instr.md (.rjwait b j))
  | .rjstrike b j => b.body (Instr.md (.rjstrike b j))
  | .bari b bar => b.body (Instr.md (.bari b bar))
  | .bara b bar wait scope => b.body (Instr.md (.bara b bar wait scope))
  | .barx b bar => b.body (Instr.md (.barx b bar))
  | .barw b bar x => b.body (Instr.md (.barw b bar x))
  | .bart b bar x => b.body (Instr.md (.bart b bar x))
  | .vote b mode => b.body (Instr.md (.vote b mode))
  | .shfl b mode seg => b.body (Instr.md (.shfl b mode seg))
  | .tra b ch => b.body (Instr.md (.tra b ch))
  | .trw b ch => b.body (Instr.md (.trw b ch))
  | .trq b ch => b.body (Instr.md (.trq b ch))
  | .klaunch b => b.body (Instr.md (.klaunch b))
  | .iadd b m => b.body (Instr.md (.iadd b m))
  | .iaddImm l => l.body
  | .isub b m => b.body (Instr.md (.isub b m))
  | .ineg b m => b.body (Instr.md (.ineg b m))
  | .iabs b m => b.body (Instr.md (.iabs b m))
  | .imul b m => b.body (Instr.md (.imul b m))
  | .imulImm l => l.body
  | .imulh b m => b.body (Instr.md (.imulh b m))
  | .imad b m => b.body (Instr.md (.imad b m))
  | .idiv b m => b.body (Instr.md (.idiv b m))
  | .irem b m => b.body (Instr.md (.irem b m))
  | .imin b m => b.body (Instr.md (.imin b m))
  | .iminImm l => l.body
  | .imax b m => b.body (Instr.md (.imax b m))
  | .imaxImm l => l.body
  | .and b m => b.body (Instr.md (.and b m))
  | .andImm l => l.body
  | .or b m => b.body (Instr.md (.or b m))
  | .orImm l => l.body
  | .xor b m => b.body (Instr.md (.xor b m))
  | .xorImm l => l.body
  | .andn b m => b.body (Instr.md (.andn b m))
  | .shl b m => b.body (Instr.md (.shl b m))
  | .shr b m => b.body (Instr.md (.shr b m))
  | .sar b m => b.body (Instr.md (.sar b m))
  | .rol b m => b.body (Instr.md (.rol b m))
  | .clz b m => b.body (Instr.md (.clz b m))
  | .ctz b m => b.body (Instr.md (.ctz b m))
  | .popc b m => b.body (Instr.md (.popc b m))
  | .brev b m => b.body (Instr.md (.brev b m))
  | .bfx b m => b.body (Instr.md (.bfx b m))
  | .bfi b m => b.body (Instr.md (.bfi b m))
  | .icmp b m => b.body (Instr.md (.icmp b m))
  | .icmpImm l => l.body
  | .sel b => b.body (Instr.md (.sel b))
  | .mov b => b.body (Instr.md (.mov b))
  | .movi l => l.body
  | .movh l => l.body
  | .lea b m => b.body (Instr.md (.lea b m))
  | .leaImm l => l.body
  | .pand b m => b.body (Instr.md (.pand b m))
  | .por b m => b.body (Instr.md (.por b m))
  | .pxor b m => b.body (Instr.md (.pxor b m))
  | .pnot b => b.body (Instr.md (.pnot b))
  | .fadd b m => b.body (Instr.md (.fadd b m))
  | .fsub b m => b.body (Instr.md (.fsub b m))
  | .fmul b m => b.body (Instr.md (.fmul b m))
  | .ffma b m => b.body (Instr.md (.ffma b m))
  | .fmin b m => b.body (Instr.md (.fmin b m))
  | .fmax b m => b.body (Instr.md (.fmax b m))
  | .fabs b m => b.body (Instr.md (.fabs b m))
  | .fneg b m => b.body (Instr.md (.fneg b m))
  | .fcmp b m => b.body (Instr.md (.fcmp b m))
  | .fclass b m => b.body (Instr.md (.fclass b m))
  | .frcp b m => b.body (Instr.md (.frcp b m))
  | .frsq b m => b.body (Instr.md (.frsq b m))
  | .fsqrt b m => b.body (Instr.md (.fsqrt b m))
  | .fex2 b m => b.body (Instr.md (.fex2 b m))
  | .flg2 b m => b.body (Instr.md (.flg2 b m))
  | .fcvt b m => b.body (Instr.md (.fcvt b m))
  | .itof b m => b.body (Instr.md (.itof b m))
  | .ftoi b m => b.body (Instr.md (.ftoi b m))
  | .wadd b m => b.body (Instr.md (.wadd b m))
  | .wsub b m => b.body (Instr.md (.wsub b m))
  | .wmul b m => b.body (Instr.md (.wmul b m))
  | .wfma b m => b.body (Instr.md (.wfma b m))
  | .wmin b m => b.body (Instr.md (.wmin b m))
  | .wmax b m => b.body (Instr.md (.wmax b m))
  | .wact b m => b.body (Instr.md (.wact b m))
  | .wrsum b m => b.body (Instr.md (.wrsum b m))
  | .wdot b m => b.body (Instr.md (.wdot b m))
  | .wcvt b m => b.body (Instr.md (.wcvt b m))
  | .wqnt b m => b.body (Instr.md (.wqnt b m))
  | .wdq b m => b.body (Instr.md (.wdq b m))
  | .wscl b m => b.body (Instr.md (.wscl b m))
  | .wprm b m => b.body (Instr.md (.wprm b m))
  | .wbc b m => b.body (Instr.md (.wbc b m))
  | .wcmp b m => b.body (Instr.md (.wcmp b m))
  | .wsel b m => b.body (Instr.md (.wsel b m))
  | .wins b m => b.body (Instr.md (.wins b m))
  | .wext b m => b.body (Instr.md (.wext b m))
  | .mset b m => b.body (Instr.md (.mset b m))
  | .mcol b m => b.body (Instr.md (.mcol b m))
  | .mmov b m => b.body (Instr.md (.mmov b m))
  | .madd b m => b.body (Instr.md (.madd b m))
  | .msub b m => b.body (Instr.md (.msub b m))
  | .mmul b m => b.body (Instr.md (.mmul b m))
  | .mscl b m => b.body (Instr.md (.mscl b m))
  | .maddc b m => b.body (Instr.md (.maddc b m))
  | .mfma b m => b.body (Instr.md (.mfma b m))
  | .mrel b m => b.body (Instr.md (.mrel b m))
  | .msig b m => b.body (Instr.md (.msig b m))
  | .mexp b m => b.body (Instr.md (.mexp b m))
  | .mchk b m => b.body (Instr.md (.mchk b m))
  | .ldU8 f => f.body
  | .ldS8 f => f.body
  | .ldU16 f => f.body
  | .ldS16 f => f.body
  | .ldU32 f => f.body
  | .ldS32 f => f.body
  | .ld64 f => f.body
  | .ldG f => f.body
  | .ldGE f => f.body
  | .ldGS f => f.body
  | .st8 f => f.body
  | .st16 f => f.body
  | .st32 f => f.body
  | .st64 f => f.body
  | .stG f => f.body
  | .stGE f => f.body
  | .stGS f => f.body
  | .stn f => f.body
  | .atom f => f.body
  | .red f => f.body
  | .cas f => f.body
  | .fence q scope kind => q.body (Instr.md (.fence q scope kind))
  | .pin q => q.body (Instr.md (.pin q))
  | .unpin q => q.body (Instr.md (.unpin q))
  | .cclean q => q.body (Instr.md (.cclean q))
  | .cinv q => q.body (Instr.md (.cinv q))
  | .pref f => f.body
  | .probe f => f.body
  | .bred q fmt part => q.body (Instr.md (.bred q fmt part))
  | .bupd q tl => q.body (Instr.md (.bupd q tl))
  | .mld f => f.body
  | .mst f => f.body
  | .wkset q wk => q.body (Instr.md (.wkset q wk))
  | .bread q tl bs wk scp jb => q.body (Instr.md (.bread q tl bs wk scp jb))
  | .hexit q err => q.body (Instr.md (.hexit q err))
  | .acopy q tl ws wd scp be bar => q.body (Instr.md (.acopy q tl ws wd scp be bar))
  | .acopyt q tl mode wk scp be bar => q.body (Instr.md (.acopyt q tl mode wk scp be bar))
  | .talloc q span => q.body (Instr.md (.talloc q span))
  | .tfree q => q.body (Instr.md (.tfree q))
  | .tstat q => q.body (Instr.md (.tstat q))
  | .tlwait q tl => q.body (Instr.md (.tlwait q tl))
  | .tlread q tl iss => q.body (Instr.md (.tlread q tl iss))
  | .cstat q tl => q.body (Instr.md (.cstat q tl))
  | .ccancel q tl all => q.body (Instr.md (.ccancel q tl all))
  | .xbind q => q.body (Instr.md (.xbind q))
  | .xbindU q => q.body (Instr.md (.xbindU q))
  | .xbindQ q => q.body (Instr.md (.xbindQ q))
  | .acrd q fmt rnd nc m aq => q.body (Instr.md (.acrd q fmt rnd nc m aq))
  | .acwm q => q.body (Instr.md (.acwm q))
  | .acovf q clr => q.body (Instr.md (.acovf q clr))
  | .xnop => 0
  | .xend => 0
  | .xloop _ _ => 0
  | .xlay _ => 0
  | .xbw _ => 0
  | .xba _ _ => 0
  | .xlds _ _ _ => 0
  | .xswp => 0
  | .xzero _ _ _ => 0
  | .xout _ _ _ _ _ _ _ _ => 0
  | .xmma _ _ _ _ _ => 0
  | .xmms _ _ _ _ _ => 0
  | .xdual _ _ _ _ _ _ _ _ => 0
  | .xmom _ _ _ _ _ _ _ _ => 0
  | .rput f => f.body
  | .rget f => f.body
  | .ratom f => f.body
  | .rputm q size rel scp => q.body (Instr.md (.rputm q size rel scp))
  | .coll q => q.body (Instr.md (.coll q))
  | .topov q d => q.body (Instr.md (.topov q d))
  | .psendData q scp => q.body (Instr.md (.psendData q scp))
  | .psendReduce q sec scp => q.body (Instr.md (.psendReduce q sec scp))
  | .psendDone q scp => q.body (Instr.md (.psendDone q scp))
  | .precv q => q.body (Instr.md (.precv q))
  | .pred q op bfa fmt => q.body (Instr.md (.pred q op bfa fmt))
  | .pqnt q granules fmt p2 => q.body (Instr.md (.pqnt q granules fmt p2))
  | .pwait q k mode => q.body (Instr.md (.pwait q k mode))
  | .proute q => q.body (Instr.md (.proute q))
  | .trap b code => b.body (Instr.md (.trap b code))
  | .eret b => b.body (Instr.md (.eret b))
  | .gets b num => b.body (Instr.md (.gets b num))
  | .sets b num => b.body (Instr.md (.sets b num))
  | .brk b code => b.body (Instr.md (.brk b code))
  | .icinv b all rt => b.body (Instr.md (.icinv b all rt))
  | .tlbi b kind waf => b.body (Instr.md (.tlbi b kind waf))
  | .halt b => b.body (Instr.md (.halt b))
  | .time b => b.body (Instr.md (.time b))
  | .perf b counter clr => b.body (Instr.md (.perf b counter clr))
  | .slotwBind b => b.body (Instr.md (.slotwBind b))
  | .slotwStop b => b.body (Instr.md (.slotwStop b))
  | .slotwRelease b => b.body (Instr.md (.slotwRelease b))
  | .slotwKill b => b.body (Instr.md (.slotwKill b))
  | .slotwSet b => b.body (Instr.md (.slotwSet b))
  | .ctxsave b => b.body (Instr.md (.ctxsave b))
  | .ctxload b => b.body (Instr.md (.ctxload b))
  | .waitev b => b.body (Instr.md (.waitev b))
  | .issueGroup _ _ => 0
  | .asyncTrapDelivery _ => 0
  | .deferredWrite _ => 0
  | .sleepWake _ => 0
  | .starvation _ => 0
  | .storeDrain _ _ => 0
  | .storeAtHome _ => 0
  | .storeAck _ => 0
  | .loadAtHome _ _ => 0
  | .atomicAtHome _ => 0
  | .bfaAdd _ => 0
  | .burstRequest _ => 0
  | .burstArrival _ _ => 0
  | .handlerAdmit _ => 0
  | .lastBurst _ => 0
  | .copyUnit _ => 0
  | .copyComplete _ => 0
  | .tileScrubEnd _ _ => 0
  | .tileAddLand _ => 0
  | .acrdRead _ => 0
  | .acwmResult _ => 0
  | .packetHop _ => 0
  | .icinvComplete _ => 0
  | .tlbiComplete _ => 0
  | .bootStart _ _ _ _ _ => 0
  | .llsDecay _ => 0
  | .rjhTimeout _ _ => 0
  | .bandNumberRelease _ _ => 0
  | .trussRelease _ => 0
  | .trussReleaseArrival _ _ => 0
  | .partMaskWrite _ => 0
  | .pageWalk _ _ _ => 0
  | .verdictReply _ _ _ _ _ => 0
  | .cacheLineExpiry _ _ _ => 0
  | .bupdElement _ _ => 0
  | .eccError _ _ => 0
  | .windowTableWrite _ _ _ _ _ => 0
  | .scrubGo _ => 0
  | .scrubDone _ => 0
  | .faultRetry _ _ => 0
  | .faultAbandon _ _ => 0
  | .entryStopped _ _ => 0
  | .scanOut _ _ => 0
  | .entryActivate _ _ => 0
  | .entryRestore _ _ => 0
  | .quantumExpiry _ _ => 0
  | .entryDone _ _ => 0
  | .entryKillDone _ _ => 0
  | .threadResume _ => 0
  | .threadKill _ => 0
  | .threadPcWrite _ _ => 0
  | .ctxCreate _ _ => 0
  | .ctxKill _ _ => 0
  | .ctxFree _ _ => 0
  | .bandKill _ _ => 0
  | .chunkSend _ _ => 0
  | .dlaunchEntryFree _ _ => 0
  | .windowSpill _ => 0
  | .windowFill _ => 0
  | .normAcc _ _ _ => 0
  | .normZero _ _ => 0
  | .normStatWrite _ _ _ => 0
  | .arrayRowFinal _ _ => 0
  | .streamInstrComplete _ _ => 0
  | .linkTrain _ _ _ => 0
  | .linkTakeDown _ _ _ => 0
  | .linkPartnerDetect _ _ _ _ => 0
  | .linkTrainResult _ _ _ _ => 0
  | .linkStateTimeout _ _ _ => 0
  | .linkLaneFail _ _ _ _ => 0
  | .flitCrcRetry _ _ _ _ => 0
  | .portWaitTimeout _ => 0
  | .multicastReplicate _ => 0
  | .ppPacketArrival _ => 0
  | .versionHoldTimeout _ => 0
  | .collAccept _ => 0
  | .collAbort _ => 0
  | .doneDelivery _ => 0
  | .topologyVersionWrite _ _ => 0
  | .extPacketReceive _ _ _ _ => 0
  | .hostRdmaWrite _ _ _ _ => 0
  | .hostRdmaRead _ _ _ _ => 0
  | .hostRdmaAtomic _ _ _ _ _ _ => 0
  | .alarmSensor _ _ => 0
  | .telemetryUpdate _ _ _ _ _ => 0
  | .clockStepDown _ => 0
  | .clockStepUp _ => 0
  | .currentLimitWrite _ _ => 0
  | .thermalUpdate _ _ _ => 0
  | .ringLockLoss _ _ => 0
  | .wearSample _ _ _ _ => 0
  | .ctxsaveDone _ _ => 0
  | .ctxloadDone _ _ => 0
  | .registerWrite _ _ _ => 0
  | .ccleanCinvComplete _ => 0
  | .deliveryGiveUp _ => 0
  | .ringLockRegain _ _ => 0
  | .streamWordFault _ _ => 0
  | .powerOnReset => 0
  | .waferRelease => 0
  | .clauseCommit => 0
  | .alarmContextsKilled => 0
  | .keyEraseDone => 0
  | .powerOff => 0

/-- The word of an instruction: a clause word (R41, R47 to R49) or a stream word (R50); an event has none. -/
def encode (i : Instr) : Option Word :=
  match i.code, i.xcode with
  | some (_, op), _ => some (BitVec.ofNat 8 op ++ i.body)
  | none, some op => some (BitVec.ofNat 8 op ++ i.xfields.body)
  | none, none => none

/-- A header word (R28). -/
def Header.encode (h : Header) : Word :=
  0xA#4 ++ h.pipe.code ++ h.cnt ++ h.wait ++ BitVec.ofBool h.yld ++ BitVec.ofBool h.rjh ++ 0#42

/-- Decoding by the pipe the instruction belongs to, the stream words by `decodeX`: what `encode` undoes. -/
def decodeAs (i : Instr) (w : Word) : Option Instr :=
  match i.code with
  | some (p, _) => (decodeWord p w).toOption
  | none => (decodeX w).toOption

end Sys2Proof
end

