-- ==== Sys2Proof/Machine/State.lean ====
section
/-! DEFINITION. The state of one wafer as plain data: threads, processors, sites, memory, and what is in flight between
them. Every field cites the rule that names it. Tables (`Tab`) list what differs from the value `State` gives an
unlisted key; memory is the canonical list of `Memory`. -/
namespace Sys2Proof.Machine

/-- Why a step stops the machine. -/
inductive Fault where
  /-- Raised by `step` alone: the input power is off (R380) and nothing on the agenda brings it back. Safe: with no power
  the spec lets nothing happen. -/
  | poweredOff
  deriving DecidableEq, Repr

/-- Why an instruction has no meaning. -/
inductive Refusal where
  /-- Raised by an arm of `exec` that has no meaning yet. Safe: the model stops where the machine goes on. -/
  | notModelled (mnemonic : String)
  deriving DecidableEq, Repr

/-! Registers. -/

/-- A wide register: SCALE 16 bits and PAYLOAD 256 bits (R69). -/
structure Gran where
  scale : BitVec 16
  pay : BitVec 256
  deriving DecidableEq, Repr

/-- A value in a bypass latch, with the file it came from (R44). -/
inductive LVal where
  | g (v : Word)
  | p (v : Bool)
  | w (v : Gran)
  | m (v : Word)
  deriving DecidableEq, Repr

/-- A write to one register of a thread: a whole register, or one part of a wide one (R214). -/
inductive RegW where
  | g (n : Nat) (v : Word)
  | p (n : Nat) (v : Bool)
  | w (n : Nat) (v : Gran)
  | wPay (n : Nat) (v : BitVec 256)
  | wScale (n : Nat) (v : BitVec 16)
  | m (n : Nat) (v : Word)
  deriving DecidableEq, Repr

/-! Threads. -/

/-- Thread states of R89, coded as TCTL shows them (R320). -/
inductive TSt where
  | free | ready | parked | exiting | held | stopped
  deriving DecidableEq, Repr

/-- A band named by processor-local number and epoch (R102). -/
structure BandRef where
  num : Nat
  epoch : Nat
  deriving DecidableEq, Repr

/-- What a parked thread waits for (R39, R320). -/
inductive Wait where
  | none
  | sleep (deadline : Nat)
  | rejoin (j : Nat)
  | barrier (b : BandRef) (i : Nat) (phase : Nat)
  | truss (ch : Nat) (phase : Nat)
  | timeline (tl : Nat) (n : Nat)
  /-- a timeline waited for by PWAIT (R316) -/
  | ptime (tl : Nat) (n : Nat)
  | chan (c : Nat)
  | version (v : Nat)
  | event (dst : Nat)
  deriving DecidableEq, Repr

/-- A saved frame: its own identity and its caller's, g8 to g23, and LNK (R98, R100, R101). -/
structure Frame where
  fid : Nat
  parent : Nat
  regs : Vector Word 16
  lnk : Word
  deriving DecidableEq, Repr

/-- One part of the error record (R198): the first failure's address and the count. -/
structure ErrPart where
  va : Word
  count : Nat
  deriving DecidableEq, Repr

/-- A pending asynchronous trap (R338); `ofRec` marks the report of a part of the error record, whose %ti is read at its
delivery (R198). -/
structure Pend where
  cause : Nat
  info : Word
  ofRec : Bool
  deriving DecidableEq, Repr

/-- Handler identity of R237: the bulk read, the point's coordinates, its sequence number and %bid. -/
structure Handler where
  op : Nat
  bc : List Nat
  seq : Nat
  bid : Word
  deriving DecidableEq, Repr

/-- Counter `k` of a walk (R227). -/
structure Ctr where
  n : Nat
  org : Int
  ext : Nat
  stride : Int
  deriving DecidableEq, Repr

/-- A walk descriptor as a walk slot holds it (R227). -/
structure Walk where
  base : Word
  unit : Nat
  bound : Bool
  fill : Word
  ctrs : List Ctr
  deriving DecidableEq, Repr

/-- What the thread's next clause is held for after a FENCE, ICINV or TLBI (R218, R353, R354): its load-class requests
(`loads`), its stores out of the queue (`drained`), acknowledged (`acked`), all those with an identifier below `before`;
an instruction-cache drop or a translation drop under way. `report` says that posted failures are then reported (R198),
`sc` the scope at which the thread then acquires (R206). -/
structure Hold where
  loads : Bool
  drained : Bool
  acked : Bool
  before : Nat
  report : Bool
  sc : Option Nat
  icinv : Option (Bool × Option (Word × Nat))
  tlbi : Option (BitVec 2 × Word × Bool)
  deriving DecidableEq, Repr

def Hold.empty : Hold := ⟨false, false, false, 0, false, none, none, none⟩

/-- One thread slot (R8, R87): the whole state of the thread it holds. -/
structure Thread where
  /-- state, the state held before a stop, WHY and the wait (R89, R320) -/
  st : TSt
  was : TSt
  why : Nat
  wait : Wait
  /-- creation number of the thread, which late responses compare (MODEL'S OWN) -/
  gen : Nat
  /-- context ID and slot-table entry (R320) -/
  ctx : Nat
  entry : Nat
  pc : Word
  /-- age (R93), the tick it became a candidate (R97), the tick it starved (R97) -/
  age : Nat
  cand : Option Nat
  starved : Option Nat
  /-- register files (R42): g0 to g31, p0 to p6, w0 to w15, m0 to m7, scoreboards (R37) -/
  gr : Vector Word 32
  pr : Vector Bool 7
  wr : Vector Gran 16
  mr : Vector Word 8
  sb : Vector Nat 8
  /-- register windows (R98 to R101): current frame, its caller, LNK, saved frames newest first, closed frames -/
  fid : Nat
  parent : Nat
  lnk : Word
  frames : List Frame
  closed : List (Nat × Nat)
  spilled : Nat
  wsp : Word
  /-- special registers of R43 and R334 -/
  seed : Word
  fcsr : Word
  mcov : Word
  mrho : Word
  tp : Word
  tc : Word
  ti : Word
  tst : Word
  tk0 : Word
  tk1 : Word
  gsd : Word
  /-- band (R102), handler identity (R237), walk slots (R226) -/
  band : Option BandRef
  handler : Option Handler
  walks : Vector (Option Walk) 4
  /-- error record (R198), pending asynchronous traps (R338), trap whose handler's first clause is awaited (R337) -/
  erec : ErrPart
  prec : ErrPart
  pend : List Pend
  entering : Option Nat
  /-- stores of its spawner, and of the spawner's own, that the thread sees while they are queued (R120): slot and the
  first identifier after them -/
  kin : List (TId × Nat)
  /-- MODEL'S OWN: the rejoin bits of its lane while the thread is scanned out (R345): enrolled in bits 7:0, arrived in
  bits 15:8 -/
  rjs : BitVec 16
  /-- hold before the next clause (R218, R353, R354); acquire marks of R205; channels seen by PWAIT (R316) -/
  hold : Hold
  acqRet : Nat
  acqWaf : Nat
  seen : Tab Nat Nat
  deriving DecidableEq, Repr

/-- A free slot, and the start of every thread (R87): all registers zero, predicates false. -/
def Thread.free : Thread where
  st := .free
  was := .free
  why := 0
  wait := .none
  gen := 0
  ctx := 0
  entry := 0
  pc := 0
  age := 0
  cand := none
  starved := none
  gr := Vector.replicate 32 0
  pr := Vector.replicate 7 false
  wr := Vector.replicate 16 ⟨0, 0⟩
  mr := Vector.replicate 8 0
  sb := Vector.replicate 8 0
  fid := 0
  parent := 0
  lnk := 0
  frames := []
  closed := []
  spilled := 0
  wsp := 0
  seed := 0
  fcsr := 0
  mcov := 0
  mrho := 0
  tp := 0
  tc := 0
  ti := 0
  tst := 0
  tk0 := 0
  tk1 := 0
  gsd := 0
  band := none
  handler := none
  walks := Vector.replicate 4 none
  erec := ⟨0, 0⟩
  prec := ⟨0, 0⟩
  pend := []
  entering := none
  kin := []
  rjs := 0
  hold := Hold.empty
  acqRet := 0
  acqWaf := 0
  seen := []

/-! Memory accesses in flight. -/

/-- How a store acts at its home (R201, R217, R223, R306, R308, R309); a multicast put lists its targets, each with the
site where its copy enters the target's wafer. -/
inductive StoreKind where
  | plain
  | red (aop : Nat) (w32 : Bool)
  | bfa (pairs : List (Nat × Nat))
  | vec (aop ty : Nat)
  | put (ordered : Bool)
  | multi (dests : List (Nat × Nat))
  deriving DecidableEq, Repr

/-- A store-queue entry or a store on its way (R36, R189, R198, R215): issuer, addresses, bytes, the instruction whose
scoreboard it holds (`grp`, `sb`), whether it was performed, whether its bytes are poisoned, and the creation numbers of the
threads of its processor whose loads have read it, whose releases it concerns (R204, R205). -/
structure Store where
  id : Nat
  t : TId
  gen : Nat
  ctx : Nat
  va : Word
  pa : Nat
  data : List Byte
  kind : StoreKind
  grp : Nat
  sb : Option Nat
  rel : Option Nat
  done : Bool
  poison : Bool
  rejected : Bool
  readers : List Nat
  deriving DecidableEq, Repr

/-- One memory part of a load-class request: address, bytes, whether copies may serve it (R184), .INV and .RC (for
an atomic `rc` marks a release at RET scope or wider), the bytes once performed, and whether they were poisoned. -/
structure Part where
  va : Word
  pa : Nat
  n : Nat
  cached : Bool
  inv : Bool
  rc : Bool
  got : Option (List Byte)
  bad : Bool
  deriving DecidableEq, Repr

/-- How a request turns its bytes into register writes (R183, R214, R217, R306, R308). -/
inductive LoadKind where
  | scalar (n : Nat) (signed : Bool) (dst : Nat)
  | gran (dst : Nat)
  | granE (dst : Nat)
  | granS (dst : Nat)
  | moment (dst : Nat)
  | get (dst : Nat)
  | atom (aop : Nat) (w32 : Bool) (b : Word) (dst : Nat)
  | cas (w32 : Bool) (c b : Word) (dst : Nat)
  | vec (aop ty : Nat) (b : BitVec 256) (dst : Nat)
  deriving DecidableEq, Repr

/-- What the engine of a port processor is asked for: PRED with its operation, its operands and `n` elements (R314), or PQNT
with its operands and `n` granules (R315), of which those left are still to be done; the translated pieces of each operand
follow its address. -/
inductive PortWork where
  | pred (op : Nat) (bfa : Bool) (fmt : Fmt) (a b : Word) (da db : List Part) (n : Nat)
  | pqnt (fmt : Fmt) (p2 : Bool) (a b : Word) (c : Option Word) (gsd : Word) (da db ds dc : List Part) (n : Nat)
  deriving DecidableEq, Repr

/-- Why a deferred instruction has not answered yet, and what it answers with. -/
inductive ReqKind where
  /-- a load, atomic or remote get (R214, R217, R306, R308) with its acquire scope -/
  | load (k : LoadKind) (acq : Option Nat)
  /-- a result settled at commit, on its way (PROBE, TSTAT, TLREAD, CSTAT, XBIND, ACOVF, TOPOV, PROUTE, PIN); `ott` says
  that it holds an entry of the outstanding-transaction table (R189) -/
  | value (ott : Bool)
  /-- ACRD waiting for its watermark (R274), with the random state from which it draws under RS, as its place in its clause gives
  it (R82) -/
  | acrd (a aq : Nat) (m : Bool) (row c0 nc fmt : Nat) (rnd : Rnd) (dst : Nat) (seed : Word)
  /-- ACWM (R275) -/
  | acwm (a thr dst : Nat)
  /-- TOPOV.D (R311): version, the packets, stores and loads still under way at its commit, the packets refused so far -/
  | drain (v : Nat) (dst : Nat) (ids : List Nat) (count : Nat)
  /-- an engine operation's status (R233), a collective (R304), a port-processor packet (R312) or buffer (R313) -/
  | engine (op dst : Nat)
  | coll (dst : Nat) (seq : Nat) (desc : List Byte)
  | psend (dst : Nat)
  | precv (dst : Nat)
  /-- PRED and PQNT, which the engine of a port processor performs (R314, R315): the elements or granules done with, and those of
  them not written -/
  | port (dst : Nat) (w : PortWork) (next failed : Nat)
  /-- a scoreboard held by CCLEAN, CINV (R220; the physical pieces of the range, translated at issue, R194) or CCANCEL
  (R254) -/
  | range (inv : Bool) (pieces : List (Nat × Nat))
  | cancel (ops : List Nat)
  deriving DecidableEq, Repr

/-- A deferred instruction in flight (R37, R189): issuer, home frame, scoreboard, parts, the register writes once they
are known (`resp`), the address of poisoned bytes found (R210), or that of a request the fabric lost (R290). -/
structure Req where
  id : Nat
  t : TId
  gen : Nat
  ctx : Nat
  fid : Nat
  sb : Option Nat
  kind : ReqKind
  parts : List Part
  resp : Option (List RegW)
  poison : Option Word
  lost : Option Word
  deriving DecidableEq, Repr

/-- What an instruction of a clause asks to happen at commit, after the register results (R35 to R37). -/
inductive Act where
  | store (entries : List Store) (sb : Option Nat)
  | req (r : Req)
  | pref (va : Word) (pa : Nat) (rc : Bool)
  /-- ACOVF (R275): read an accumulator's status, and clear its sticky flags, at commit -/
  | acovf (a : Nat) (clr : Bool) (sb : Option Nat) (dst : Nat)
  /-- TRQ (R126): its register takes the channel's state at commit, unless one of the writes past the first `k` names it -/
  | trq (ch dst k : Nat)
  deriving DecidableEq, Repr

/-! Clauses in flight. -/

/-- The first fault of a lane (R35): the instruction's index, cause and information; `later` marks poisoned descriptor
bytes, whose fault is taken asynchronously at the header (R210). -/
structure LFault where
  idx : Nat
  cause : Nat
  info : Word
  later : Bool
  deriving DecidableEq, Repr

/-- One lane of an issue group: the thread as it stood at clause start (R34), latches b0 to b3 (R44), results in program
order, newest first, what is asked at commit, raised flags (R148), the random state (R82), the first fault (R35),
whether the context died under it (R394), whether the lane has committed, and whether it waits to commit (R246). -/
structure LaneRun where
  lane : Nat
  t0 : Thread
  lat : List (Option LVal)
  writes : List RegW
  acts : List Act
  flags : BitVec 8
  seed : Word
  fault : Option LFault
  frozen : Bool
  done : Bool
  stall : Bool
  deriving DecidableEq, Repr

/-- A clause in flight (R28, R92): processor, row, address, header, words, the index of the next word, its lanes, and the tick
of its start, at which its operands are read (R34). -/
structure Flight where
  p : PId
  row : Nat
  addr : Word
  hdr : Header
  words : List Word
  idx : Nat
  lanes : List LaneRun
  start : Nat
  deriving DecidableEq, Repr

/-! Engines. -/

/-- A burst or unit of an engine operation between its request and its end (R235, R242, R243): its sequence number,
coordinates, whether it lay outside, its bytes once landed, its arrival order, and whether bytes staged were poisoned. -/
structure Burst where
  seq : Nat
  bc : List Nat
  outside : Bool
  va : Word
  pa : Nat
  data : Option (List Byte)
  arrival : Nat
  bad : Bool
  deriving DecidableEq, Repr

/-- Engine operations (R225, R235, R242, R252). -/
inductive OpKind where
  | bread (w : Walk) (bsz : Nat) (pc : Word) (args g17 : List Word) (budget : Nat) (gsd : Word) (jb : Option BandRef)
  | copy (src dst : Walk)
  | copyIn (src : Walk) (tile toff : Nat)
  | copyOut (dst : Walk) (tile toff : Nat)
  | tileAdd (float : Bool) (tile toff : Nat) (vals : List (BitVec 256))
  | bupd (desc : List Byte) (w m v g : Nat)
  deriving DecidableEq, Repr

/-- An engine operation in flight (R231 to R233): issuer, timeline and number, progress; units held on an engine fault
queue entry, and units to be translated again after a RETRY (R239); the units of a copy written while an earlier one may come
after them, each with the bytes that stood before it (R242); for a bulk read its live handlers,
the creation numbers of all its handlers and the operations they issued (R238); `paused` marks a stopped copy
that cannot send the rest of its 4 KiB, every fault record being taken (R239, R243), `out` one that stands scanned out
(R345). -/
structure Op where
  id : Nat
  t : TId
  gen : Nat
  ctx : Nat
  entry : Nat
  band : Option BandRef
  tl : Option Nat
  num : Nat
  scope : Nat
  kind : OpKind
  next : Nat
  failed : Nat
  err : Bool
  cancel : Bool
  hcode : Nat
  bursts : List Burst
  held : List (Nat × Nat)
  again : List Nat
  written : List Burst
  handlers : List TId
  gens : List Nat
  kids : List Nat
  bar : Option (BandRef × Nat)
  stopped : Bool
  paused : Bool
  out : Bool
  deriving DecidableEq, Repr

/-! Processor units. -/

/-- A barrier object (R107), the widest scope of the current phase and of the phase completed last (R109). -/
structure Bar where
  txp : BitVec 32
  gen : BitVec 32
  arr : Nat
  exp : Nat
  scope : Nat
  last : Nat
  deriving DecidableEq, Repr

def Bar.fresh : Bar := ⟨0, 0, 0, 0, 0, 0⟩

/-- A band (R103): epoch, coordinates, members, barrier objects, slot-table entry. -/
structure Band where
  epoch : Nat
  coord : BitVec 48
  members : List (Nat × Nat)
  bars : Tab Nat Bar
  entry : Nat
  deriving DecidableEq, Repr

/-- A band that has ended and whose number is not yet free (R104), with the chunk still to be sent for it (R303) and the
launch record that asks for it. -/
structure Closing where
  num : Nat
  epoch : Nat
  coord : BitVec 48
  ctx : Nat
  record : List Byte
  killed : Bool
  chunk : Bool
  deriving DecidableEq, Repr

/-- Tile states (R245). -/
inductive TileSt where
  | empty | filling | ready | draining
  deriving DecidableEq, Repr

/-- A tile-table entry (R245); `ending` marks a tile whose band has ended (R246), `scrub` one whose scrub is under way
(R253). -/
structure Tile where
  st : TileSt
  span : Nat
  cnt : Nat
  acc : Bool
  band : BandRef
  size : Nat
  base : Nat
  ending : Bool
  scrub : Bool
  deriving DecidableEq, Repr

def Tile.empty : Tile := ⟨.empty, 0, 0, false, ⟨0, 0⟩, 0, 0, false, false⟩

/-- A timeline (R231, R254): ISSUED, DONE, numbers completed above DONE, statuses of the last 64 completed. -/
structure Timeline where
  issued : Nat
  dn : Nat
  above : List Nat
  ended : List (Nat × Word)
  deriving DecidableEq, Repr

/-- A performance counter (R352). -/
structure Perf where
  event : Nat
  en : Bool
  count : Word
  deriving DecidableEq, Repr

/-- A cached copy of a 128-byte line: global line number, bytes, tick of the fill, the row that filled it (R94, R184), and
the 64-byte blocks of it that came poisoned (R210). -/
structure Copy where
  line : Nat
  data : List Byte
  filled : Nat
  row : Nat
  bad : List Nat
  deriving DecidableEq, Repr

/-- A translation held by a TLB (R191, R193). -/
structure TlbEnt where
  ctx : Nat
  va : Nat
  level : Nat
  pte : Word
  deriving DecidableEq, Repr

/-- A fault record of the engine fault queue (R239), with log2 of the size of the page it holds. -/
structure FaultRec where
  num : Nat
  perm : Bool
  copyEng : Bool
  tl : Nat
  ctx : Nat
  va : Word
  bits : Nat
  deriving DecidableEq, Repr

/-- Slot-table entry states (R330). -/
inductive ESt where
  | empty | wait | active | stopping | stopped | done
  deriving DecidableEq, Repr

/-- A slot-table entry (R329, R330): the bind record's fields, ATIME, ERR, order of entering WAIT or STOPPED (R331),
tick of activation, whether a kill is under way, whether its threads were ever created, and the bytes of the launch
record its bind read (R356). -/
structure Entry where
  st : ESt
  prio : Nat
  slo : Nat
  shi : Nat
  ctx : Nat
  quantum : Nat
  c : Nat
  launch : Nat
  err : Bool
  atime : Nat
  since : Nat
  order : Nat
  killing : Bool
  started : Bool
  record : List Byte
  deriving DecidableEq, Repr

def Entry.empty : Entry := ⟨.empty, 0, 0, 0, 0, 0, 0, 0, false, 0, 0, 0, false, false, []⟩

/-- Sequencer states (R265, R273). -/
inductive SqSt where
  | unbound | idle | running | waiting | stopped | faulted
  deriving DecidableEq, Repr

/-- A level of the loop stack (R276). -/
structure Loop where
  start : Word
  stop : Word
  rem : Nat
  iter : Nat
  deriving DecidableEq, Repr

/-- A weight plane (R255, R278): format, element codes by logical row and column, scales by column and block. -/
structure Plane where
  fmt : Fmt
  elems : List (List Nat)
  scales : List Nat
  deriving DecidableEq, Repr

/-- An accumulator tile (R262): rows of 36-bit entries, rows of hold bits (unlisted entries zero), status word. -/
structure AccTile where
  rows : List (List (BitVec 36))
  hold : List (List Bool)
  ovf : Bool
  nv : Bool
  satf : Bool
  ovm : Bool
  int : Bool
  wm : Nat
  deriving DecidableEq, Repr

def AccTile.fresh : AccTile := ⟨[], [], false, false, false, false, false, 64⟩

/-- What a row of an array word raises: FP36 overflow, invalid, saturation (R262). -/
structure RowFlags where
  ovf : Bool
  nv : Bool
  satf : Bool
  deriving DecidableEq, Repr

/-- A stream instruction still at work in the array, loader or drain (R268): the band it runs for, the flags its rows raise in each
accumulator as they become final, and the squares of an XOUT that have not yet reached their norm register (R270, R283). -/
structure StreamWork where
  id : Nat
  band : Option BandRef
  tiles : List Nat
  writes : Bool
  accs : List Nat
  fin : Bool
  rows : Nat
  isZero : Bool
  raises : List (Nat × List RowFlags)
  norm : Nat
  squares : List (BitVec 36)
  deriving DecidableEq, Repr

def StreamWork.idle : StreamWork := ⟨0, none, [], false, [], false, 0, false, [], 0, []⟩

/-- The matrix sequencer with its planes and accumulators (R260 to R269); `wbar` is the barrier a WAITING one waits on, `after` the
thread and the number of the XBIND whose release its next word follows (R273). -/
structure Seq where
  st : SqSt
  was : SqSt
  fcode : Nat
  spc : Word
  band : Option BandRef
  last : Option BandRef
  ctx : Nat
  sph : List (BitVec 32)
  layout : BitVec 4
  loops : List Loop
  active : Option Plane
  shadow : Option Plane
  accs : Tab Nat AccTile
  work : List StreamWork
  ending : Bool
  wbar : Nat
  after : Option (Nat × Nat)
  deriving DecidableEq, Repr

def Seq.unbound : Seq :=
  ⟨.unbound, .unbound, 0, 0, none, none, 0, List.replicate 16 0, 0, [], none, none, [], [], false, 0, none⟩

/-- A posted receive buffer (R313). -/
structure RecvBuf where
  req : Nat
  va : Word
  cap : Nat
  deriving DecidableEq, Repr

/-- A packet waiting on a channel (R298): its bytes and what its receiver's status reports (R313). -/
structure ChanPkt where
  data : List Byte
  kind : Nat
  red : Nat
  fb : Bool
  miss : Bool
  tag : Nat
  scope : Nat
  deriving DecidableEq, Repr

/-- A receive channel (R298): posted buffers and waiting packets, oldest first, receives completed (R316). -/
structure Chan where
  bufs : List RecvBuf
  pkts : List ChanPkt
  count : Nat
  deriving DecidableEq, Repr

/-- A pending copy of CTXSAVE or CTXLOAD (R358): entry, image address, direction, whether it met a failure, the context, and
the number under which its accesses travel. -/
structure Move where
  entry : Nat
  image : Nat
  load : Bool
  err : Bool
  ctx : Nat
  id : Nat
  deriving DecidableEq, Repr

/-- A row whose lanes gather at a hinted clause (R33): its address, the tick at which the first lane reached it, and
whether the wait has ended. -/
structure Hint where
  row : Nat
  addr : Word
  since : Nat
  past : Bool
  deriving DecidableEq, Repr

/-- One processor (R20). -/
structure Proc where
  /-- issue throttle (R95), lost-locality scores and victim tags (R94), rejoin hints (R33) -/
  thrEn : Bool
  thr : Nat
  lls : Tab Nat Nat
  vtags : List (Nat × Nat)
  hints : List Hint
  /-- handler admission (R234) and the lane last used (R236) -/
  hres : Bool
  hlo : Nat
  hmax : Nat
  hlane : Nat
  /-- engine fault queue (R239), slot table (R329), band epochs and bands (R102, R103), numbers still closed (R104) -/
  efq : Tab Nat FaultRec
  slots : Tab Nat Entry
  epochs : Tab Nat Nat
  bands : Tab Nat Band
  closing : List Closing
  /-- rejoin registers (R105): (row, register) to ENR and ARR -/
  rj : Tab (Nat × Nat) (BitVec 32 × BitVec 32)
  /-- tile table and tile store (R244, R245) -/
  tiles : Tab Nat Tile
  tstore : List Host.Cell
  /-- timelines (R231) and performance counters (R352) by context-table index and number -/
  tls : Tab (Nat × Nat) Timeline
  perf : Tab (Nat × Nat) Perf
  /-- store queues by row, oldest first (R189), and the row the shared drain served last (R395) -/
  queues : Tab Nat (List Store)
  drained : Nat
  /-- core TLB (R193), L1 lines (R184), instruction-cache lines (R353), the newest acquire of RET scope or wider by one of
  its threads (R204, R205) -/
  tlb : List TlbEnt
  l1 : List Copy
  icl : List Copy
  mkRet : Nat
  seq : Seq
  /-- truss generations and arrival flags (R110), and whether the arrival counts as a participant's (R360) -/
  tgen : Tab Nat (BitVec 32)
  tarr : Tab Nat Bool
  tpart : Tab Nat Bool
  /-- receive channels (R298), verified firmware slots (R299), saves and loads under way (R358) -/
  chans : Tab Nat Chan
  fw : List Nat
  move : Option Move
  /-- units of STOPPED entries that were scanned out (R345), by entry and number: bands, tiles with their bytes, and the
  sequencer; scanned-out threads stand in `State.threads` under slot numbers of 16 and above (log 9) -/
  sbands : Tab (Nat × Nat) Band
  stiles : Tab (Nat × Nat) (Tile × List Byte)
  sseqs : Tab Nat Seq
  /-- what the save area was last given of each of these units, by entry and offset in the processor block (R322, R345) -/
  mirror : Tab (Nat × Nat) (List Byte)
  deriving DecidableEq, Repr

def Proc.reset : Proc where
  thrEn := true
  thr := 0x0800
  lls := []
  vtags := []
  hints := []
  hres := true
  hlo := 12
  hmax := 128
  hlane := 31
  efq := []
  slots := []
  epochs := []
  bands := []
  closing := []
  rj := []
  tiles := []
  tstore := []
  tls := []
  perf := []
  queues := []
  drained := 15
  tlb := []
  l1 := []
  icl := []
  mkRet := 0
  seq := Seq.unbound
  tgen := []
  tarr := []
  tpart := []
  chans := []
  fw := []
  move := none
  sbands := []
  stiles := []
  sseqs := []
  mirror := []

/-! Site units. -/

/-- A source window table entry (R195). -/
structure Window where
  lo : Word
  hi : Word
  deriving DecidableEq, Repr

/-- Link states (R284). -/
inductive LinkSt where
  | absent | down | train | up | degrade | half | failed
  deriving DecidableEq, Repr

/-- A flit kept for retry (R286): the link that numbered it, its sequence and the packet it carries; or a closing marker, with
the epoch of the port that it closes. -/
structure Flit where
  link : Nat
  seq : BitVec 16
  pkt : Nat
  closing : Option Nat
  deriving DecidableEq, Repr

/-- A link (R284 to R286): state register, lanes carrying a partner, lanes that failed, failures of CRC in a row, tick of
entering the state, the next sequence number, the retry buffer, and how often its flows were hashed again. -/
structure Link where
  st : LinkSt
  good : BitVec 16
  weight : Nat
  retrains : Nat
  partner : BitVec 16
  bad : BitVec 16
  crc : Nat
  since : Nat
  seq : BitVec 16
  retry : List Flit
  epoch : Nat
  deriving DecidableEq, Repr

/-- A context-table entry (R321): 0 free, 1 live, 2 dying. -/
structure Ctx where
  st : Nat
  id : Nat
  ptroot : Word
  tvec : Word
  save : Word
  deriving DecidableEq, Repr

/-- A norm register (R76, R270). -/
structure Norm where
  v : BitVec 96
  sat : Bool
  uf : Bool
  ufcnt : Nat
  deriving DecidableEq, Repr

/-- A device-launch buffer entry and its selector word (R325). -/
structure DLaunch where
  image : List Byte
  occ : Bool
  bad : Bool
  queue : Nat
  deriving DecidableEq, Repr

/-- Who owns an L2 pin (R219). -/
inductive PinOwner where
  | band (p : PId) (b : BandRef)
  | ctx (c : Nat)
  deriving DecidableEq, Repr

/-- A verdict of the grant cache (R197): target, context, range and permission. -/
structure Grant where
  waf : Nat
  site : Nat
  ctx : Nat
  page : Nat
  kind : AccKind
  deriving DecidableEq, Repr

/-- The scrub engine (R323): its registers, and the range of the scrub in progress, taken at GO. -/
structure Scrub where
  base : Nat
  limit : Nat
  busy : Bool
  err : Bool
  lo : Nat
  hi : Nat
  deriving DecidableEq, Repr

/-- An error-log entry (R387): its four words. -/
structure LogEnt where
  w0 : Word
  w1 : Word
  w2 : Word
  w3 : Word
  deriving DecidableEq, Repr

/-- A thermal sensor (R383). -/
structure Therm where
  valid : Bool
  peak : BitVec 16
  temp : BitVec 16
  deriving DecidableEq, Repr

/-- A ring register (R384). -/
structure Ring where
  lock : Bool
  en : Bool
  detune : BitVec 16
  target : BitVec 16
  heat : BitVec 16
  deriving DecidableEq, Repr

/-- One site (R15, R17): compute and pool reticles share the record; a unit the kind lacks stays at its reset value. -/
structure Site where
  /-- home agent: source windows by row and entry (R195), scrub engine (R323) -/
  windows : Tab (Nat × Nat) Window
  scrub : Scrub
  /-- links by port and number (R284), routing tables (R291), topology version (R293), egress (R292), prefix (R296) -/
  links : Tab (Nat × Nat) Link
  rtActive : Tab Nat Word
  rtShadow : Tab Nat Word
  verErr : Bool
  shadow : BitVec 16
  active : BitVec 16
  egress : Word
  fabPrefix : Word
  /-- packets sent and refused by version, for TOPOV.D (R311) -/
  refused : Tab Nat Nat
  /-- multicast sets by 8-byte word (R309) -/
  mcsets : Tab Nat Word
  /-- context table (R321), norm registers (R270), truss masks and masks to take effect (R110, R112) -/
  ctxs : Tab Nat Ctx
  norms : Tab Nat Norm
  masks : Tab Nat (BitVec 96)
  maskNext : List (Nat × Bool × Word)
  /-- device-launch buffer (R325), event queue and summary (R341), watches and the tick of each one's last event (R342) -/
  dlaunch : Tab Nat DLaunch
  events : List Word
  lost : Nat
  pend : BitVec 12
  watches : Tab Nat Word
  launched : Tab Nat Nat
  /-- L2: pins (R219), remote copies (R184), dirty lines (R220), the newest acquire of WAF scope or wider on the site (R204,
  R205), the bytes on which `.INV` loads of a processor's entry rest a promise (address and length) and the addresses of bytes
  whose promise was broken (R207); shared TLB (R193); grant cache (R197) -/
  pins : List (PinOwner × Nat)
  l2 : List Copy
  dirty : List Nat
  mkWaf : Nat
  promises : List (PId × Nat × Nat × Nat)
  broken : List Nat
  stlb : List TlbEnt
  grants : List Grant
  /-- error log (R387) -/
  logLost : Nat
  logNext : Nat
  logHead : Nat
  log : Tab Nat LogEnt
  /-- identity and status (R378), host table by word (R373), attestation report by word (R379) -/
  boot : Nat
  master : Bool
  hosts : Tab Nat Word
  report : Tab Nat Word
  /-- alarm (R380) and key material still present (R390) -/
  alarm : Nat
  alarmSrc : BitVec 3
  keys : Bool
  /-- power (R381, R382), and the tick since which the current stays below 95 % of its limit (R382) -/
  vin : Nat
  iout : Nat
  vcore : Nat
  lim : Bool
  pwr : Nat
  ilim : Nat
  mhz : Nat
  below : Option Nat
  /-- thermal sensors (R383) and shutdown, rings (R384), wear monitors and end-of-life word (R385) -/
  therm : Tab Nat Therm
  off : Bool
  rings : Tab Nat Ring
  wear : Tab Nat Word
  eol : Word
  deriving DecidableEq, Repr

def Site.reset : Site where
  windows := []
  scrub := ⟨0, 0, false, false, 0, 0⟩
  links := []
  rtActive := []
  rtShadow := []
  verErr := false
  shadow := 0
  active := 0
  egress := 0
  fabPrefix := 0
  refused := []
  mcsets := []
  ctxs := []
  norms := []
  masks := []
  maskNext := []
  dlaunch := []
  events := []
  lost := 0
  pend := 0
  watches := []
  launched := []
  pins := []
  l2 := []
  dirty := []
  mkWaf := 0
  promises := []
  broken := []
  stlb := []
  grants := []
  logLost := 0
  logNext := 0
  logHead := 0
  log := []
  boot := 0
  master := false
  hosts := []
  report := []
  alarm := 0
  alarmSrc := 0
  keys := true
  vin := 0
  iout := 0
  vcore := 0
  lim := false
  pwr := 0
  ilim := 4800
  mhz := 1600
  below := none
  therm := []
  off := false
  rings := []
  wear := []
  eol := 0

/-! The fabric. -/

/-- What a packet carries (R298, R303, R310, R312). -/
inductive PktKind where
  | data (tag : Nat)
  | reduce (sec : Bool) (pa : Nat) (fallback : Nat)
  | redirected (tag : Nat)
  | chunk (c : Nat) (miss : Bool)
  | desc (tag : Nat)
  | abort (tag : Nat)
  | done (tag : Nat) (status : Word)
  /-- an access on its way to the bytes at `pa`: `id` is the number of its store, of its load, atomic or get, of the engine
  operation, packet, buffer or copy it belongs to, or, before its clause has committed, of its thread (R197, R201, R306, R308) -/
  | access (id pa : Nat)
  /-- the read of a table entry at `pa` by the walk for `va` (R192), and that of an instruction or stream word (R59, R265) -/
  | walk (va : Word) (pa : Nat)
  | fetch (va : Word) (pa : Nat)
  /-- the answer to access `id` at `pa`: data, a result, an acknowledgement, or the status of a PSEND (R288) -/
  | answer (id pa : Nat)
  /-- the copy of multicast put `id` for the bytes at `pas`, which crossbars split (R309) -/
  | multi (id : Nat) (pas : List Nat)
  /-- the copy of multicast put `id` for another wafer, on its way to its ingress site (R309) -/
  | spread (id : Nat)
  deriving DecidableEq, Repr

/-- A packet in flight (R288 to R296): kind, context, the sending processor and the creation number of its thread, the
destination, channel, version, payload, the pieces of the sender's buffer still to be read (R312), the sender's deferred
instruction, the scope its receiver acquires; the site where it stands, the link that carries it or whose receiving buffers
hold it (site, port, number) and whether it is still on that link (R286, R288), the port of a crossbar whose buffers hold it
(R288); whether it was discarded and its source has still to learn it (R290); the epoch of its flow (R286), the fallback
site it leaves the wafer by (R292), the plane chosen for it (R291), whether it is of the forward class (R288), the thread of
its ordered flow (R307); the ticks at which it was first held (R295) and first found no port (R286). -/
structure Packet where
  id : Nat
  kind : PktKind
  ctx : Nat
  src : PId
  gen : Nat
  dst : PId
  chan : Nat
  ver : BitVec 16
  data : List Byte
  load : List (Nat × Nat)
  req : Option Nat
  scope : Nat
  hop : Nat
  wire : Option (Nat × Nat × Nat)
  crossing : Bool
  xport : Option Nat
  lost : Bool
  epoch : Nat
  via : Option Nat
  ext : Option Bool
  fwd : Bool
  flow : Option TId
  heldAt : Option Nat
  waitAt : Option Nat
  deriving DecidableEq, Repr

/-- Who moves next when the model is told: an event of the table, or the sequencer of a core fetching a word. -/
inductive Turn where
  | event (i : Instr)
  | stream (p : PId)
  deriving DecidableEq, Repr

/-- The wafer. -/
structure State where
  /-- DRAM, pool SRAM and framer SRAM by global physical address (R7, R24), poisoned 64-byte blocks (R210) -/
  mem : List Host.Cell
  poison : List Nat
  /-- wafer identifier (R378), input power (R377), the wafer released for host work (R377) -/
  wafer : BitVec 17
  power : Bool
  released : Bool
  /-- MODEL'S OWN: ticks so far, the tick of the last power-on reset, next identifier, free-value counter, and the tick at
  which the timebase started -/
  tick : Nat
  clkBase : Nat
  nextId : Nat
  freeCtr : Nat
  timeBase : Nat
  /-- MODEL'S OWN: turns still to be taken before the default policy moves -/
  agenda : List Turn
  flights : List Flight
  /-- clauses whose last instruction waits at commit for some of their lanes (R246) -/
  stalled : List Flight
  /-- a stream word fetched by a sequencer and not yet executed (R265) -/
  stream : Option (PId × Word)
  sites : Tab Nat Site
  procs : Tab PId Proc
  threads : Tab TId Thread
  reqs : List Req
  stores : List Store
  ops : List Op
  packets : List Packet
  /-- truss releases decided and not yet at a core (R392) -/
  trel : List (PId × Nat)
  deriving DecidableEq, Repr

/-- The machine right after power-on reset (R23, R188): memory lists nothing, every slot is free, no site has booted.
Values the spec states no reset for are those of logs 3, 4 and 5. -/
def State.reset : State where
  mem := []
  poison := []
  wafer := 0
  power := true
  released := false
  tick := 0
  clkBase := 0
  nextId := 0
  freeCtr := 0
  timeBase := 0
  agenda := []
  flights := []
  stalled := []
  stream := none
  sites := []
  procs := []
  threads := []
  reqs := []
  stores := []
  ops := []
  packets := []
  trel := []

end Sys2Proof.Machine
end

