-- ==== Sys2Proof/Machine/Basics.lean ====
section
/-! DEFINITION. The named operations over plain state: memory (R2, R7, R24), places and geometry (R7, R11, R12, R14),
clocks (R118, R351), accessors of threads, processors and sites, the register file (R42), events (R341) and the error
log (R387). A SITE NUMBER here is wafer × 64 + the site number of R7, bits 62:40 of a global physical address. -/
namespace Sys2Proof.Machine

/-! Memory. -/

/-- The byte at an address; an unlisted byte reads zero (R188; log 3). -/
def Memory.get : List Host.Cell → Nat → Byte
  | [], _ => 0
  | (k, v) :: t, a => if a = k then v else if a < k then 0 else Memory.get t a

/-- Store one byte, keeping the canonical form: addresses rising, no zero listed. -/
def Memory.set : List Host.Cell → Nat → Byte → List Host.Cell
  | [], a, b => if b = 0 then [] else [(a, b)]
  | (k, v) :: t, a, b =>
    if a < k then (if b = 0 then (k, v) :: t else (a, b) :: (k, v) :: t)
    else if a = k then (if b = 0 then t else (k, b) :: t)
    else (k, v) :: Memory.set t a b

/-- The bytes at `a, a+1, …`. -/
def Memory.read (m : List Host.Cell) (a : Nat) : Nat → List Byte
  | 0 => []
  | n + 1 => Memory.get m a :: Memory.read m (a + 1) n

/-- Store bytes at `a, a+1, …` (R2). -/
def Memory.write (m : List Host.Cell) (a : Nat) : List Byte → List Host.Cell
  | [] => m
  | b :: t => Memory.write (Memory.set m a b) (a + 1) t

/-- Every listed address is above `lo` and the list is canonical. -/
def Memory.wfFrom : Option Nat → List Host.Cell → Bool
  | _, [] => true
  | lo, (k, v) :: t => (match lo with | none => true | some l => decide (l < k)) && v != 0 && Memory.wfFrom (some k) t

/-- The canonical form: addresses strictly rising and no entry equal to what an unlisted address reads as. -/
def Memory.wf (m : List Host.Cell) : Bool := Memory.wfFrom none m

/-! Order. -/

/-- Place an element before the first that does not come before it. -/
def insertBy {α : Type} (le : α → α → Bool) (x : α) : List α → List α
  | [] => [x]
  | y :: t => if le x y then x :: y :: t else y :: insertBy le x t

/-- A stable sort. -/
def sortBy {α : Type} (le : α → α → Bool) : List α → List α
  | [] => []
  | x :: t => insertBy le x (sortBy le t)

/-! Places (R7, R11, R12, R14, R24). -/

def siteX (gs : Nat) : Nat := gs % 8
def siteY (gs : Nat) : Nat := gs / 8 % 8
def siteWaf (gs : Nat) : Nat := gs / 64

/-- Compute reticles have x + y even (R7). -/
def isCompute (gs : Nat) : Bool := (siteX gs + siteY gs) % 2 == 0

def paSite (pa : Nat) : Nat := pa / 2 ^ 40 % 2 ^ 23
def paLocal (pa : Nat) : Nat := pa % 2 ^ 40
def mkPa (gs loc : Nat) : Nat := gs * 2 ^ 40 + loc

inductive Region where
  | dram | framerSram | poolSram | control
  deriving DecidableEq, Repr

/-- The region of a local address at a site (R24); `none` is the address-range fault. -/
def regionOf (gs loc : Nat) : Option Region :=
  if loc < 2 ^ 36 then some .dram
  else if isCompute gs then
    if 0xF000000000 ≤ loc ∧ loc ≤ 0xF000FFFFFF then some .framerSram
    else if 0xF800000000 ≤ loc ∧ loc ≤ 0xF8FFFFFFFF then some .control else none
  else
    if 0x4000000000 ≤ loc ∧ loc ≤ 0x407FFFFFFF then some .poolSram
    else if 0xF800000000 ≤ loc ∧ loc ≤ 0xF80FFFFFFF then some .control else none

/-- The region of a global physical address whose `n` bytes must lie in it; bit 63 set is out of range (R7). -/
def paRegion (pa n : Nat) : Option Region :=
  if 2 ^ 63 ≤ pa then none else
  match regionOf (paSite pa) (paLocal pa), regionOf (paSite pa) (paLocal pa + n - 1) with
  | some r, some r' => if r = r' then some r else none
  | _, _ => none

/-- Neighbour through a port (R11, R12, R317): 0 n, 1 s, 2 w, 3 e; on a pool reticle 4 to 7 are diagonals NW, NE, SW,
SE. `none` where the port is absent or is the sill port. -/
def neighbour (gs port : Nat) : Option Nat :=
  let x := siteX gs
  let y := siteY gs
  let b := siteWaf gs * 64
  let mk (x' y' : Nat) (ok : Bool) : Option Nat := if ok then some (b + 8 * y' + x') else none
  match port with
  | 0 => mk x (y - 1) (0 < y)
  | 1 => mk x (y + 1) (y < 7)
  | 2 => mk (x - 1) y (0 < x)
  | 3 => mk (x + 1) y (x < 7)
  | 4 => if isCompute gs then none else mk (x - 1) (y - 1) (0 < x && 0 < y)
  | 5 => if isCompute gs then none else mk (x + 1) (y - 1) (x < 7 && 0 < y)
  | 6 => if isCompute gs then none else mk (x - 1) (y + 1) (0 < x && y < 7)
  | 7 => if isCompute gs then none else mk (x + 1) (y + 1) (x < 7 && y < 7)
  | _ => none

def sillPort (gs : Nat) : Nat := if isCompute gs then 4 else 8

/-- Whether link `k` of port `p` has hardware (R12, R317). -/
def linkPresent (gs p k : Nat) : Bool :=
  if p = sillPort gs then k == 0 else (neighbour gs p).isSome && decide (k < 4)

/-- Mesh hop count (R14). -/
def hops (a b : Nat) : Nat :=
  let du := ((siteX b : Int) + siteY b - (siteX a + siteY a)).natAbs
  let dv := ((siteX b : Int) - siteY b - ((siteX a : Int) - siteY a)).natAbs
  match isCompute a, isCompute b with
  | true, true => if a % 64 = b % 64 then 0 else 1 + ((du - 2) + (dv - 2)) / 2
  | false, false => 1 + (du + dv) / 2
  | _, _ => 1 + ((du - 1) + (dv - 1)) / 2

/-- The reporting framer's site of a pool reticle (R18). -/
def reporting (gs : Nat) : Nat := if siteX gs = 0 then gs + 1 else gs - 1

/-! Processors (R20). -/

inductive PKind where
  | core | framer | port | absent
  deriving DecidableEq, Repr

def kindOf (p : PId) : PKind :=
  if !isCompute p.site then .absent
  else if p.core < 96 then .core
  else if p.core = 96 then .framer
  else if p.core ≤ 101 then .port
  else .absent

/-- A port processor at an absent mesh port is idle and never holds a thread (R15); the rest may. -/
def usable (p : PId) : Bool :=
  match kindOf p with
  | .core | .framer => true
  | .port => p.core = 101 || (neighbour p.site (p.core - 97)).isSome
  | .absent => false

def lanesOf (p : PId) : Nat := match kindOf p with | .core => 32 | .framer | .port => 1 | .absent => 0
def slotsOf (p : PId) : Nat := match kindOf p with | .core => 16 | .framer => 8 | .port => 4 | .absent => 0

/-- Whether a slot exists. -/
def slotExists (t : TId) : Bool := decide (t.lane < lanesOf t.p) && decide (t.slot < slotsOf t.p)

/-! Accessors. -/

def State.th (s : State) (t : TId) : Thread := s.threads.get Thread.free t
def State.setTh (s : State) (t : TId) (v : Thread) : State := { s with threads := s.threads.put t v }
def State.modTh (s : State) (t : TId) (f : Thread → Thread) : State := s.setTh t (f (s.th t))
def State.proc (s : State) (p : PId) : Proc := s.procs.get Proc.reset p
def State.setProc (s : State) (p : PId) (v : Proc) : State := { s with procs := s.procs.put p v }
def State.modProc (s : State) (p : PId) (f : Proc → Proc) : State := s.setProc p (f (s.proc p))
def State.site (s : State) (g : Nat) : Site := s.sites.get Site.reset g
def State.setSite (s : State) (g : Nat) (v : Site) : State := { s with sites := s.sites.put g v }
def State.modSite (s : State) (g : Nat) (f : Site → Site) : State := s.setSite g (f (s.site g))

/-- A fresh identifier, larger than every earlier one. -/
def State.fresh (s : State) : Nat × State := (s.nextId + 1, { s with nextId := s.nextId + 1 })

/-- The sites of this wafer. -/
def State.ownSites (s : State) : List Nat := (List.range 64).map fun k => s.wafer.toNat * 64 + k

/-- The compute reticles of this wafer. -/
def State.reticles (s : State) : List Nat := s.ownSites.filter isCompute

/-- Slots that hold a thread of a processor. -/
def State.liveThreads (s : State) (p : PId) : List (TId × Thread) :=
  s.threads.filter fun e => e.1.p == p && e.2.st != .free

/-! Time (R118, R351; log 6). -/

def sumUpTo (f : Nat → Nat) : Nat → Nat
  | 0 => 0
  | n + 1 => sumUpTo f n + f n

/-- Core cycles of a site between two ticks. -/
def coreSpan (gs a b : Nat) : Nat := sumUpTo (Config.coreCycles gs) b - sumUpTo (Config.coreCycles gs) a

/-- Cycles of a processor's own clock between two ticks (R10). -/
def procSpan (p : PId) (a b : Nat) : Nat :=
  if kindOf p = .framer then sumUpTo (Config.framerCycles p.site) b - sumUpTo (Config.framerCycles p.site) a
  else coreSpan p.site a b

/-- %clk as an exact count of the processor's cycles since reset (R118). -/
def State.cycles (s : State) (p : PId) : Nat := procSpan p s.clkBase s.tick

/-- Nanoseconds since reset. -/
def State.nanos (s : State) : Nat := sumUpTo Config.nanos s.tick

/-- Nanoseconds between two ticks. -/
def nanoSpan (a b : Nat) : Nat := sumUpTo Config.nanos b - sumUpTo Config.nanos a

/-- TIME (R351): zero until the wafer master starts the timebase. -/
def State.waferTime (s : State) : Word := if s.timeBase = 0 then 0 else BitVec.ofNat 64 (nanoSpan s.timeBase s.tick)

def State.bump (s : State) : State := { s with tick := s.tick + 1 }

/-- The next number of the free-value counter (log 2). -/
def State.draw (s : State) : Nat × State := (s.freeCtr, { s with freeCtr := s.freeCtr + 1 })

/-! The register file (R42): g0 reads zero and discards writes, p7 reads true. -/

def Thread.g (t : Thread) (n : Nat) : Word := if n = 0 then 0 else t.gr[n]?.getD 0
def Thread.setG (t : Thread) (n : Nat) (v : Word) : Thread :=
  if n = 0 then t else { t with gr := t.gr.setIfInBounds n v }
def Thread.p (t : Thread) (n : Nat) : Bool := if n = 7 then true else t.pr[n]?.getD false
def Thread.setP (t : Thread) (n : Nat) (v : Bool) : Thread := { t with pr := t.pr.setIfInBounds n v }
def Thread.w (t : Thread) (n : Nat) : Gran := t.wr[n]?.getD ⟨0, 0⟩
def Thread.setW (t : Thread) (n : Nat) (v : Gran) : Thread := { t with wr := t.wr.setIfInBounds n v }
def Thread.m (t : Thread) (n : Nat) : Word := t.mr[n]?.getD 0
def Thread.setM (t : Thread) (n : Nat) (v : Word) : Thread := { t with mr := t.mr.setIfInBounds n v }
def Thread.sbOf (t : Thread) (n : Nat) : Nat := t.sb[n]?.getD 0
def Thread.setSb (t : Thread) (n : Nat) (v : Nat) : Thread := { t with sb := t.sb.setIfInBounds n v }

/-- One register write; a partial wide write keeps the other part (R214). -/
def Thread.write (t : Thread) : RegW → Thread
  | .g n v => t.setG n v
  | .p n v => t.setP n v
  | .w n v => t.setW n v
  | .wPay n v => t.setW n ⟨(t.w n).scale, v⟩
  | .wScale n v => t.setW n ⟨v, (t.w n).pay⟩
  | .m n v => t.setM n v

/-- Register writes in program order, given newest first (R34). -/
def Thread.writes (t : Thread) : List RegW → Thread
  | [] => t
  | x :: xs => (Thread.writes t xs).write x

/-- Register windows (R98): open a frame for a call. -/
def Thread.openFrame (t : Thread) (fid : Nat) (link : Word) : Thread :=
  let saved : Frame := ⟨t.fid, t.parent, Vector.ofFn fun k : Fin 16 => t.g (8 + k.val), t.lnk⟩
  { t with
    frames := saved :: t.frames
    gr := Vector.ofFn fun k : Fin 32 => if k.val < 8 then t.g k.val else if k.val < 16 then t.g (k.val + 16) else 0
    parent := t.fid, fid := fid, lnk := link }

/-- Register windows (R98): close the current frame. -/
def Thread.closeFrame (t : Thread) : Thread :=
  match t.frames with
  | [] => t
  | f :: rest =>
    { t with
      frames := rest
      closed := (t.fid, f.fid) :: t.closed
      gr := Vector.ofFn fun k : Fin 32 =>
        if k.val < 8 then t.g k.val
        else if k.val < 24 then f.regs[k.val - 8]?.getD 0 else t.g (k.val - 16)
      fid := f.fid, parent := f.parent, lnk := f.lnk }

/-- A deferred write to g8 to g31 lands in its home frame, wherever its storage now stands (R101); the fuel bounds the
chain of closed frames. -/
def Thread.frameWrite (t : Thread) : Nat → Nat → Nat → Word → Thread
  | 0, _, _, _ => t
  | fuel + 1, home, n, v =>
    if n < 8 ∨ home = t.fid then t.setG n v
    else if 24 ≤ n ∧ t.parent = home then t.setG (n - 16) v
    else if n < 24 then
      if t.frames.any (·.fid == home) then
        { t with frames := t.frames.map fun f =>
            if f.fid = home then { f with regs := f.regs.setIfInBounds (n - 8) v } else f }
      else match t.closed.find? (·.1 == home) with
        | some (_, up) => if n < 16 then t.frameWrite fuel up (n + 16) v else t
        | none => t
    else if t.frames.any (·.parent == home) then
      { t with frames := t.frames.map fun f =>
          if f.parent = home then { f with regs := f.regs.setIfInBounds (n - 24) v } else f }
    else t

/-- A deferred register write (R37, R101). -/
def Thread.deferred (t : Thread) (home : Nat) : RegW → Thread
  | .g n v => if n < 8 then t.setG n v else t.frameWrite (t.closed.length + 1) home n v
  | w => t.write w

/-! Events (R341) and the error log (R387). -/

/-- Queue an event word at a framer; when 256 words stand, drop it into LOST and PEND. -/
def State.raise (s : State) (gs kind core lane slot ctx data : Nat) : State :=
  let q := s.site gs
  let w : Word := BitVec.ofNat 6 kind ++ BitVec.ofNat 7 core ++ BitVec.ofNat 5 lane ++ BitVec.ofNat 4 slot ++
    BitVec.ofNat 16 ctx ++ BitVec.ofNat 26 data
  if q.events.length < 256 then s.setSite gs { q with events := q.events ++ [w] }
  else s.setSite gs { q with lost := min (q.lost + 1) 65535, pend := q.pend ||| (1#12 <<< (kind - 1)) }

/-- An event about a thread. -/
def State.raiseTh (s : State) (t : TId) (kind data : Nat) : State :=
  s.raise t.p.site kind t.p.core t.lane t.slot (s.th t).ctx data

/-- A HEALTH event (R386), queued at the site's framer or its reporting framer. -/
def State.health (s : State) (gs cause idx : Nat) : State :=
  s.raise (if isCompute gs then gs else reporting gs) 12 127 0 0 0 (cause * 2 ^ 22 + gs % 64 * 2 ^ 16 + idx % 2 ^ 16)

/-- A log entry (R387): a corrected error (one of severity 0 but a link's change of state) whose kind, address and source are those
of the newest entry counts there; a full ring drops it into LOST. -/
def State.logErr (s : State) (gs kind sev ctx core lane slot other : Nat) (addr : Word) (count detail : Nat) : State :=
  let q := s.site gs
  let w0 : Word := BitVec.ofNat 8 kind ++ BitVec.ofNat 8 sev ++ BitVec.ofNat 16 ctx ++ BitVec.ofNat 7 core ++
    BitVec.ofNat 5 lane ++ BitVec.ofNat 4 slot ++ 0#10 ++ BitVec.ofNat 6 other
  let last := (q.logNext + 1023) % 1024
  let e := q.log.get ⟨0, 0, 0, 0⟩ last
  if sev = 0 ∧ kind ≠ 4 ∧ q.logNext ≠ q.logHead ∧ e.w0 = w0 ∧ e.w1 = addr then
    let c := min ((e.w2 >>> 32).toNat + count) (2 ^ 32 - 1)
    s.setSite gs { q with log := q.log.put last { e with w2 := BitVec.ofNat 32 c ++ e.w2.extractLsb' 0 32 } }
  else if (q.logNext + 1) % 1024 = q.logHead then s.setSite gs { q with logLost := min (q.logLost + 1) 65535 }
  else
    s.setSite gs { q with
      log := q.log.put q.logNext ⟨w0, addr, BitVec.ofNat 32 count ++ BitVec.ofNat 32 detail, s.waferTime⟩
      logNext := (q.logNext + 1) % 1024 }

/-- A log entry about a thread, at its own site. -/
def State.logTh (s : State) (t : TId) (kind sev : Nat) (addr : Word) (count detail : Nat) : State :=
  s.logErr t.p.site kind sev (s.th t).ctx t.p.core t.lane t.slot (t.p.site % 64) addr count detail

/-! Contexts (R321, R394). -/

def Site.ctx (q : Site) (x : Nat) : Ctx := q.ctxs.get ⟨0, 0, 0, 0, 0⟩ x

/-- The index of the live entry of a context at a site; the firmware context is entry 0. -/
def Site.liveCtx (q : Site) (id : Nat) : Option Nat :=
  (List.range 64).find? fun x => (q.ctx x).st == 1 && (q.ctx x).id == id

/-- The index of the entry, live or dying, that bears an ID. -/
def Site.ctxIdx (q : Site) (id : Nat) : Option Nat :=
  (List.range 64).find? fun x => (q.ctx x).st != 0 && (q.ctx x).id == id

/-! Counters (R352). -/

/-- Add to the performance counters of a context that count an event. -/
def State.perfAdd (s : State) (p : PId) (ctx event n : Nat) : State :=
  match (s.site p.site).ctxIdx ctx with
  | none => s
  | some x =>
    if (s.proc p).perf.any fun e => e.1.1 == x && e.2.en && e.2.event == event then
      s.modProc p fun r => { r with perf := r.perf.map fun e =>
        if e.1.1 = x ∧ e.2.en ∧ e.2.event = event then (e.1, { e.2 with count := e.2.count + BitVec.ofNat 64 n }) else e }
    else s

/-! Norm registers, links and smaller units at their defaults. -/

def Site.norm (q : Site) (k : Nat) : Norm := q.norms.get ⟨0, false, false, 0⟩ k
def Site.mask (q : Site) (ch : Nat) : BitVec 96 := q.masks.get (BitVec.allOnes 96) ch

/-- A link at its reset state (R284): ABSENT without hardware, DOWN otherwise. -/
def linkReset (gs p k : Nat) : Link :=
  ⟨if linkPresent gs p k then .down else .absent, 0, 0, 0, 0, 0, 0, 0, 0, [], 0⟩

def State.link (s : State) (gs p k : Nat) : Link := (s.site gs).links.get (linkReset gs p k) (p, k)
def State.setLink (s : State) (gs p k : Nat) (l : Link) : State :=
  s.modSite gs fun q => { q with links := q.links.put (p, k) l }

def LinkSt.code : LinkSt → Nat
  | .absent => 0 | .down => 1 | .train => 2 | .up => 3 | .degrade => 4 | .half => 5 | .failed => 6

/-- An entry of a routing table at its reset value (R291; a pool reticle's entry by log 4). -/
def rtReset (gs : Nat) : Word := if isCompute gs then 0x00FFFF00000000C0 else 0

def LinkSt.isUp : LinkSt → Bool
  | .up | .half => true
  | _ => false

/-- A site that has failed to boot (R377): its own check failed, or its reporting framer never came to boot it. -/
def State.siteFailed (s : State) (gs : Nat) : Bool :=
  let b := (s.site gs).boot
  b == 2 || (!isCompute gs && b == 0 && (s.site (reporting gs)).boot == 2)

/-- A site that carries no traffic: it has failed (R377), or shut itself down (R383). -/
def State.dead (s : State) (gs : Nat) : Bool := (s.site gs).off || s.siteFailed gs

/-- Whether a sill endpoint is usable (R292, R383). -/
def State.sillUp (s : State) (gs : Nat) : Bool := (s.link gs (sillPort gs) 0).st.isUp && !s.dead gs

end Sys2Proof.Machine
end

