-- ==== Sys2Proof/Machine/Link.lean ====
section
/-! DEFINITION. Links (R284 to R287), routing tables, the route selector and the egress (R291, R292, R294), topology
versions (R293), and whether the fabric carries an access from one site to another (R26, R290). -/
namespace Sys2Proof.Machine

/-! Links. -/

/-- Lanes of a link (R284): 16 on the mesh, 8 at the sill. -/
def laneCount (gs port : Nat) : Nat := if port = sillPort gs then 8 else 16

/-- The other links of a port that carry flits. -/
def State.survivors (s : State) (gs port k : Nat) : List Nat :=
  ([0, 1, 2, 3].filter (· != k)).filter fun j => (s.link gs port j).st.isUp

/-- The member of a weighted list that number `n` falls to. -/
def pickWeighted : List (Nat × Nat) → Nat → Option Nat
  | [], _ => none
  | (k, w) :: t, n => if n < w then some k else pickWeighted t (n - w)

/-- The link, among some of a port's, that number `n` falls to in proportion to WEIGHT (R286). -/
def State.spread (s : State) (gs port : Nat) (links : List Nat) (n : Nat) : Option Nat :=
  let l := links.map fun k => (k, (s.link gs port k).weight)
  pickWeighted l (n % max 1 (l.foldl (fun a x => a + x.2) 0))

/-- The number by which a packet falls to a link: the hash of an ordered flow, else one of its own. -/
def Packet.lot (k : Packet) : Nat :=
  match k.flow with
  | some _ => Config.flowHash k.gen k.dst.site
  | none => k.id

/-- The flow epoch of a port: how often flows on its links were hashed again. -/
def State.portEpoch (s : State) (gs port : Nat) : Nat := [0, 1, 2, 3].foldl (fun a k => a + (s.link gs port k).epoch) 0

/-- The retry-buffer move of R286: every flit kept goes, in sequence order, to the port's other links that are up, with
the link and number it had, a packet's flits together; a closing marker follows on each of them, and the flows' next epoch
begins. With no link up the flits wait. -/
def State.moveRetry (s : State) (gs port k : Nat) : State :=
  let live := s.survivors gs port k
  let l := s.link gs port k
  if live.isEmpty then s else
  let goes (id : Nat) : Nat :=
    let n := match s.packets.find? (·.id == id) with | some x => x.lot | none => id
    (s.spread gs port live n).getD (live.headD 0)
  let mark : Flit := ⟨k, l.seq, 0, some (s.portEpoch gs port)⟩
  let s := live.foldl (fun s j =>
    let d := s.link gs port j
    s.setLink gs port j { d with retry := d.retry ++ (l.retry.filter fun f => goes f.pkt == j) ++ [mark] }) s
  let s := s.setLink gs port k { l with retry := [], epoch := l.epoch + 1 }
  { s with packets := s.packets.map fun x =>
      if x.crossing && x.wire == some (gs, port, k) then { x with wire := some (gs, port, goes x.id) } else x }

/-- A link of a port is up: flits that waited with the port's other links move to it (R286). -/
def State.adoptFlits (s : State) (gs port : Nat) : State :=
  [0, 1, 2, 3].foldl (fun s k =>
    let l := s.link gs port k
    if !l.st.isUp && !l.retry.isEmpty then s.moveRetry gs port k else s) s

/-- Move a link to a state: the LINK event at the site's framer or its reporting framer (R18, R341), the log (R387). -/
def State.linkTo (s : State) (gs port k : Nat) (st : LinkSt) (weight : Nat) (f : Link → Link) : State :=
  let l := s.link gs port k
  let s := s.setLink gs port k (f { l with st := st, weight := weight, since := s.tick, crc := 0 })
  let s := if st.isUp then s.adoptFlits gs port else s
  if l.st = st then s else
  let ev := port + k * 16 + gs % 64 * 2 ^ 6 + st.code * 2 ^ 12
  (s.raise (if isCompute gs then gs else reporting gs) 11 127 0 0 0 ev).logErr gs 4 0 0 127 0 0 (gs % 64)
    (BitVec.ofNat 64 (port * 4 + k)) 1 st.code

/-- Leave UP or HALF, or any other state, for another: the move first where flits were carried. -/
def State.leaveUp (s : State) (gs port k : Nat) (st : LinkSt) (f : Link → Link) : State :=
  let s := if (s.link gs port k).st.isUp then s.moveRetry gs port k else s
  s.linkTo gs port k st 0 f

/-- A training begins: no lane has passed it yet (R284). -/
def Link.trained (l : Link) : Link := { l with retrains := min (l.retrains + 1) 65535, good := 0 }

/-- CMD train (R285). -/
def State.trainLink (s : State) (gs port k : Nat) : State :=
  if !linkPresent gs port k then s else
  match (s.link gs port k).st with
  | .down | .failed => s.linkTo gs port k .train 0 Link.trained
  | .up | .half => s.leaveUp gs port k .train Link.trained
  | _ => s

/-- CMD take down (R285). -/
def State.downLink (s : State) (gs port k : Nat) : State :=
  if !linkPresent gs port k then s else
  match (s.link gs port k).st with
  | .up | .half | .degrade | .train => s.leaveUp gs port k .down id
  | _ => s

/-- Links of a port whose WEIGHT is above 0. -/
def State.liveLinks (s : State) (gs port : Nat) : List Nat :=
  [0, 1, 2, 3].filter fun k => linkPresent gs port k && decide (0 < (s.link gs port k).weight)

/-- A port is up (R286): some link of it carries flits, and no dead site stands at either end of it (R377, R383). -/
def State.portUp (s : State) (gs port : Nat) : Bool :=
  !(s.liveLinks gs port).isEmpty && !s.dead gs &&
  !(match neighbour gs port with | some g => s.dead g | none => false)

/-! Routing (R291, R294). -/

/-- The entry for a destination site in the copy of the table that a version selects. -/
def State.route (s : State) (gs : Nat) (ver : Option (BitVec 16)) (dst : Nat) : Word :=
  let q := s.site gs
  let t := match ver with
    | some v => if v = q.active then q.rtActive else if v = q.shadow then q.rtShadow else q.rtActive
    | none => q.rtActive
  t.get (rtReset gs) (dst % 64)

/-- Candidate output ports that are up. -/
def State.candidates (s : State) (gs : Nat) (e : Word) : List Nat :=
  if isCompute gs then (List.range 4).filter fun p => e.getLsbD (8 + p) && s.portUp gs p
  else (List.range 9).filter fun p => e.getLsbD p && s.portUp gs p

/-- The egress of a compute reticle (R292): its own endpoint, else the first valid fallback whose endpoint is up. -/
def State.egressOf (s : State) (gs : Nat) : Option Nat :=
  if s.sillUp gs then some gs else
  let e := (s.site gs).egress.toNat
  let at' (k : Nat) : Option Nat :=
    if e.testBit (8 * k + 7) then
      let d := siteWaf gs * 64 + e / 2 ^ (8 * k) % 64
      if s.sillUp d then some d else none
    else none
  (at' 0).or ((at' 1).or (at' 2))

/-- What the selector of a compute reticle decides for a site of its own wafer (R291). -/
inductive Plane2 where
  | mesh (port : Nat)
  | external
  | none
  deriving DecidableEq, Repr

/-- The 128-byte flits of a packet (R284): a header of 32 bytes and its payload (R297). -/
def Packet.flits (k : Packet) : Nat := (k.data.length + 32 + 127) / 128

/-- Bytes queued at an output port: the flits of the packets in its crossbar buffers and on its links. -/
def State.queuedAt (s : State) (gs port : Nat) : Nat :=
  s.packets.foldl (fun a k =>
    if (k.crossing && (match k.wire with | some o => o.1 == gs && o.2.1 == port | none => false)) ||
        (k.hop == gs && k.xport == some port) then a + 128 * k.flits else a) 0

/-- WEIGHT of a port: the lanes of its links that carry flits. -/
def State.portWeight (s : State) (gs port : Nat) : Nat := [0, 1, 2, 3].foldl (fun a k => a + (s.link gs port k).weight) 0

/-- `occ(p)` of R291: the core cycles that the bytes queued at a port need over its lanes of 128 Gbit/s, at the sill of 200
Gbit/s (R284), at the site's clock. DEDUCED (log 23): bytes are counted in whole flits, and a part of a cycle as one. -/
def State.occ (s : State) (gs port : Nat) : Nat :=
  let d := (if port = sillPort gs then 200000 else 128000) * s.portWeight gs port
  (8 * s.queuedAt gs port * (s.site gs).mhz + (d - 1)) / d

/-- The port of least occupancy among candidates; of equals the lowest (DESIGN CHOICE, log 23). -/
def State.leastPort (s : State) (gs : Nat) : List Nat → Option Nat
  | [] => none
  | p :: t =>
    match s.leastPort gs t with
    | none => some p
    | some q => if s.occ gs q < s.occ gs p then some q else some p

/-- The choice of R291 for an unordered packet; a site that failed to boot is unreachable (R377). -/
def State.selectPlane (s : State) (gs dst : Nat) (ver : Option (BitVec 16)) : Plane2 :=
  let e := s.route gs ver dst
  let plane := bitsOf e 7 6
  let ports := s.candidates gs e
  let egress := s.egressOf gs
  if plane = 3 ∨ s.siteFailed dst then .none else
  match s.leastPort gs ports with
  | none => if egress.isSome && plane != 1 then .external else .none
  | some p =>
    if plane = 1 then .mesh p
    else if plane = 2 then (if egress.isSome then .external else .none)
    else match egress with
      | none => .mesh p
      | some g =>
        let cm := 40 * bitsOf e 63 56 + s.occ gs p
        let cx := bitsOf e 55 40 + s.occ g (sillPort g)
        if cm ≤ cx then .mesh p else .external

/-- Sites that a packet for `dst` can stand at after one more hop. -/
def State.meshStep (s : State) (dst : Nat) (l : List Nat) : List Nat :=
  (l ++ l.flatMap fun g => (s.candidates g (s.route g none dst)).filterMap (neighbour g)).eraseDups

/-- Sites that a packet for `dst` can reach over some chain of candidate ports that are up. -/
def State.meshReach (s : State) (dst : Nat) : Nat → List Nat → List Nat
  | 0, l => l
  | f + 1, l => if l.contains dst then l else s.meshReach dst f (s.meshStep dst l)

/-- Whether the fabric carries an access from a site to a target (R26, R290, R291); a site that failed or shut down answers
nothing (R377, R383). -/
def State.reaches (s : State) (gs dst : Nat) : Bool :=
  if s.dead dst then false
  else if gs = dst then true
  else if siteWaf gs ≠ siteWaf dst then (s.egressOf gs).isSome && s.sillUp dst
  else
    let plane := bitsOf (s.route gs none dst) 7 6
    (plane != 3 && plane != 2 && (s.meshReach dst 17 [gs]).contains dst) ||
      (plane != 3 && plane != 1 && (s.egressOf gs).isSome && s.sillUp dst)

/-! Topology versions (R293). -/

/-- A write to a version register: ERR by W1C first, then SHADOW or the swap of the tables. -/
def Site.writeVersion (q : Site) (v : Word) : Site :=
  let q := if v.getLsbD 63 then { q with verErr := false } else q
  let a := v.extractLsb' 0 16
  if a = q.active then { q with shadow := v.extractLsb' 32 16 }
  else if a = q.shadow then
    { q with active := a, shadow := q.active, rtActive := q.rtShadow, rtShadow := q.rtActive }
  else { q with verErr := true }

/-! Packets. -/

/-- The packet of an identifier. -/
def State.packet (s : State) (id : Nat) : Option Packet := s.packets.find? (·.id == id)
def State.setPacket (s : State) (k : Packet) : State :=
  { s with packets := s.packets.map fun x => if x.id = k.id then k else x }

/-- A packet before it is sent. -/
def packetOf (kind : PktKind) (ctx : Nat) (src : PId) (gen : Nat) (dst : PId) (chan : Nat) (data : List Byte)
    (req : Option Nat) (scope : Nat) : Packet where
  id := 0
  kind := kind
  ctx := ctx
  src := src
  gen := gen
  dst := dst
  chan := chan
  ver := 0
  data := data
  load := []
  req := req
  scope := scope
  hop := src.site
  wire := none
  crossing := false
  xport := none
  lost := false
  epoch := 0
  via := none
  ext := none
  fwd := false
  flow := none
  heldAt := none
  waitAt := none

/-- A packet is under way. -/
def State.emitPacket (s : State) (k : Packet) : State :=
  let (id, s) := s.fresh
  { s with packets := s.packets ++ [{ k with id := id }] }

/-- Copies of a packet go on beside it, with its version; the drains that wait for it wait for them too (R309, R311). -/
def State.sendCopies (s : State) (k : Packet) (l : List Packet) : State :=
  l.foldl (fun s c =>
    let (id, s) := s.fresh
    { s with
      packets := s.packets ++ [{ c with id := id }]
      reqs := s.reqs.map fun r => match r.kind with
        | .drain v dst ids n => if ids.contains k.id then { r with kind := .drain v dst (id :: ids) n } else r
        | _ => r }) s

/-- Send a packet: it carries the sender site's active version (R294). -/
def State.sendPacket (s : State) (k : Packet) : State :=
  s.emitPacket { k with ver := (s.site k.src.site).active, hop := k.src.site }

/-- A packet leaves the fabric, and its flits every retry buffer. -/
def State.dropPacket (s : State) (id : Nat) : State :=
  { s with
    packets := s.packets.filter (·.id != id)
    sites := s.sites.map fun q =>
      if q.2.links.any fun l => l.2.retry.any fun f => f.closing.isNone && f.pkt == id then
        (q.1, { q.2 with links := q.2.links.map fun l =>
          (l.1, { l.2 with retry := l.2.retry.filter fun f => f.closing.isSome || f.pkt != id }) })
      else q }

/-- The class of a packet (R288): 0 request, 1 forward, 2 response. A packet that leaves by another site's endpoint is relayed
to it (R292). -/
def Packet.cls (k : Packet) : Nat :=
  match k.kind with
  | .done _ _ | .answer _ _ => 2
  | .redirected _ => 1
  | _ => if k.fwd || (match k.via with | some g => g != k.src.site | none => false) then 1 else 0

/-- Flits of a class in the receiving buffers of a link direction, or on their way to them. -/
def State.bufferFlits (s : State) (o : Nat × Nat × Nat) (c : Nat) : Nat :=
  s.packets.foldl (fun a k => if k.wire = some o ∧ k.cls = c then a + k.flits else a) 0

/-- A link direction has buffers for a packet (R288): 32 flits of its class at the receiver, which a longer packet has for
itself alone (log 30), and room in the retry buffer of 1,024 (R286). -/
def State.linkRoom (s : State) (k : Packet) (port j : Nat) : Bool :=
  let u := s.bufferFlits (k.hop, port, j) k.cls
  let l := s.link k.hop port j
  (u == 0 || decide (u + k.flits ≤ 32)) && (l.retry.isEmpty || decide (l.retry.length + k.flits ≤ 1024))

/-- The buffers of a class at a port of a crossbar have room for a packet (R288). -/
def State.crossRoom (s : State) (k : Packet) (port : Nat) : Bool :=
  let u := s.packets.foldl (fun a x => if x.hop = k.hop ∧ x.xport = some port ∧ x.cls = k.cls then a + x.flits else a) 0
  u == 0 || decide (u + k.flits ≤ 32)

/-- The receiving buffers of a sill endpoint, which another end of the external plane fills (R288). -/
def sillIn (gs : Nat) : Nat × Nat × Nat := (gs, 15, 0)

/-- Those buffers have room for a packet. -/
def State.sillRoom (s : State) (k : Packet) (gs : Nat) : Bool :=
  let u := s.bufferFlits (sillIn gs) k.cls
  u == 0 || decide (u + k.flits ≤ 32)

/-- Put a packet on a link of a port: its flits are numbered and kept until they are acknowledged (R286). A packet for which
no buffer is free waits where it stands. -/
def State.hopTo (s : State) (k : Packet) (port : Nat) : State :=
  match s.spread k.hop port (s.liveLinks k.hop port) k.lot with
  | some j =>
    if s.linkRoom k port j then
      let l := s.link k.hop port j
      let kept := (List.range k.flits).map fun i => (⟨j, l.seq + BitVec.ofNat 16 i, k.id, none⟩ : Flit)
      (s.setLink k.hop port j { l with seq := l.seq + BitVec.ofNat 16 k.flits, retry := l.retry ++ kept }).setPacket
        { k with wire := some (k.hop, port, j), crossing := true, xport := none, epoch := s.portEpoch k.hop port, waitAt := none }
    else s.setPacket { k with waitAt := none }
  | none => s

/-- The first flits of a retry buffer that are no closing markers. -/
def pastMarks (l : List Flit) : List Flit := l.dropWhile (·.closing.isSome)

/-- The other end of a link that a packet crosses: the site beyond it and the buffers that take the packet there. A sill link
leads over the external plane to the endpoint of the packet's destination (R26). -/
def State.farEnd (s : State) (k : Packet) : Option (Nat × (Nat × Nat × Nat)) :=
  match k.wire with
  | none => none
  | some o =>
    if o.2.1 = sillPort o.1 then
      if s.sillUp k.dst.site && s.sillRoom k k.dst.site then some (k.dst.site, sillIn k.dst.site) else none
    else (neighbour o.1 o.2.1).map fun g => (g, o)

/-- A packet on a link reaches its other end: when the link is up, the flits before its own have been delivered, and, for an
ordered flow hashed again, the closing markers of earlier epochs have arrived on every other link (R286, R287). A flit that
passes ends a run of failed ones (R285). -/
def State.landHop (s : State) (k : Packet) : State :=
  match k.wire with
  | none => s
  | some (gs, port, j) =>
    let l := s.link gs port j
    let q := pastMarks l.retry
    let late := k.flow.isSome && [0, 1, 2, 3].any fun i => i != j && (s.link gs port i).st.isUp &&
      (pastMarks (s.link gs port i).retry).any fun f => match f.closing with | some e => decide (e < k.epoch) | none => false
    match q, s.farEnd k with
    | f :: _, some (g, o) =>
      if l.st.isUp && f.pkt == k.id && !late && !s.dead g then
        (s.setLink gs port j { l with crc := 0, retry := q.dropWhile fun f => f.closing.isNone && f.pkt == k.id }).setPacket
          { k with hop := g, wire := some o, crossing := false, waitAt := none }
      else s
    | _, _ => s

/-! Ways (R26, R288, R290, R294): an access to bytes of another site travels there as a packet, and its answer back. -/

/-- How far an access has come: its bytes are its own site's or its packet stands at theirs; its packet is on its way; none was
sent yet; or the fabric discarded it (R290). -/
inductive Way where
  | here | coming | unasked | lost
  deriving DecidableEq, Repr

/-- The packet of a kind that a processor sent for a context. -/
def State.wayPacket (s : State) (p : PId) (ctx : Nat) (kind : PktKind) : Option Packet :=
  s.packets.find? fun k => k.kind == kind && k.src == p && k.ctx == ctx

/-- How far an access of a processor to the bytes at `pa` has come. -/
def State.wayOf (s : State) (p : PId) (ctx : Nat) (kind : PktKind) (pa : Nat) : Way :=
  if paSite pa = p.site then .here
  else match s.wayPacket p ctx kind with
    | none => .unasked
    | some k => if k.lost then .lost else if k.hop == paSite pa && !k.crossing && !s.dead k.hop then .here else .coming

/-- How far an access has come, its packet being sent where it was not yet. -/
def State.askWay (s : State) (p : PId) (ctx gen : Nat) (kind : PktKind) (pa : Nat) : Way × State :=
  match s.wayOf p ctx kind pa with
  | .unasked => (.coming, s.sendPacket (packetOf kind ctx p gen ⟨paSite pa, 127⟩ 0 [] none 0))
  | w => (w, s)

/-- The packets of the kinds a test picks leave the fabric, for a processor and a context. -/
def State.dropWays (s : State) (p : PId) (ctx : Nat) (c : PktKind → Bool) : State :=
  (s.packets.filter fun k => k.src == p && k.ctx == ctx && c k.kind).foldl (fun s k => s.dropPacket k.id) s

/-- The answer to a packet sets out from where it stands to the site that sent it, as the model's home agent 126; the endpoint
of a host answers at once (log 30). -/
def State.reply (s : State) (k : Packet) (id pa : Nat) (data : List Byte) : State :=
  if k.hop = k.src.site ∨ k.src.core = 127 then s
  else s.emitPacket { packetOf (.answer id pa) k.ctx ⟨k.hop, 126⟩ 0 ⟨k.src.site, 127⟩ 0 data none 0 with
    ver := (s.site k.hop).active, hop := k.hop }

/-- An access at its bytes is done with: its packet leaves the fabric and its answer sets out. -/
def State.endWay (s : State) (p : PId) (ctx id pa : Nat) (data : List Byte) : State :=
  match s.wayPacket p ctx (.access id pa) with
  | some k => (s.dropPacket k.id).reply k id pa data
  | none => s

/-- An answer to access `id` is still on its way. -/
def State.answering (s : State) (id : Nat) : Bool :=
  s.packets.any fun k => match k.kind with | .answer i _ => i == id | _ => false

/-- Packets of access `id` stand on the fabric: the access itself or its answers. -/
def State.abroad (s : State) (id : Nat) : Bool :=
  s.packets.any fun k => match k.kind with | .access i _ | .answer i _ | .multi i _ | .spread i => i == id | _ => false

end Sys2Proof.Machine
end

