-- ==== Sys2Proof/Machine/Translate.lean ====
section
/-! DEFINITION. Source windows (R195, R196), poison (R210), page-table walks and the two TLB levels (R190 to R194, R394). -/
namespace Sys2Proof.Machine

/-! Windows. -/

def Window.base (w : Window) : Nat := bitsOf w.lo 39 0
def Window.limit (w : Window) : Nat := bitsOf w.lo 63 40 + bitsOf w.hi 15 0 * 2 ^ 24
def Window.ctx (w : Window) : Nat := bitsOf w.hi 31 16
def Window.swaf (w : Window) : Nat := bitsOf w.hi 48 32
def Window.valid (w : Window) : Bool := w.hi.getLsbD 63

/-- The permission an access needs (R196). -/
def Window.permits (w : Window) (k : AccKind) (control : Bool) : Bool :=
  (match k with
    | .read | .fetch => w.hi.getLsbD 62
    | .write => w.hi.getLsbD 61
    | .rmw => w.hi.getLsbD 60) && (!control || w.hi.getLsbD 59)

/-- The window check of R196: some entry of the source site's row covers the access. -/
def State.windowOk (s : State) (srcSite srcWaf ctx pa n : Nat) (k : AccKind) : Bool :=
  let a := paLocal pa
  let control := regionOf (paSite pa) a == some .control
  (s.site (paSite pa)).windows.any fun e =>
    e.1.1 == srcSite % 64 && e.2.valid && e.2.swaf == srcWaf && e.2.ctx == ctx &&
    decide (e.2.base ≤ a) && decide (a + n - 1 ≤ e.2.limit) && e.2.permits k control

/-- The check for an access of a processor. -/
def State.windowFor (s : State) (p : PId) (ctx pa n : Nat) (k : AccKind) : Bool :=
  s.windowOk p.site (siteWaf p.site) ctx pa n k

/-- Whether some byte of a range lies in a poisoned 64-byte block (R210). -/
def State.poisoned (s : State) (pa n : Nat) : Bool :=
  s.poison.any fun b => decide (pa / 64 ≤ b) && decide (b ≤ (pa + n - 1) / 64)

/-- Poison the blocks of a range. -/
def State.poisonRange (s : State) (pa n : Nat) : State :=
  { s with poison := (((List.range ((pa + n - 1) / 64 + 1 - pa / 64)).map (· + pa / 64)).filter
      fun b => !s.poison.contains b) ++ s.poison }

/-- Writes clear the poison of the whole aligned 64-byte blocks they cover (R210). -/
def State.clearPoison (s : State) (pa n : Nat) : State :=
  { s with poison := s.poison.filter fun b => !(decide (pa ≤ 64 * b) && decide (64 * b + 64 ≤ pa + n)) }

/-! Page tables. -/

/-- Canonical addresses (R190): bits 63:52 all equal. -/
def canonical (va : Word) : Bool :=
  let h := bitsOf va 63 52
  h == 0 || h == 4095

/-- Index of a level (R190). -/
def ptIndex (va : Word) (lvl : Nat) : Nat := va.toNat / 2 ^ (43 - 10 * lvl) % 1024

/-- log2 of the page a leaf of a level maps (R190). -/
def pageBits (lvl : Nat) : Nat := 43 - 10 * lvl

/-- A table lies in bonded DRAM or pool SRAM (R191). -/
def tableOk (pa : Nat) : Bool :=
  match paRegion pa 8192 with
  | some .dram | some .poolSram => true
  | _ => false

def pteV (e : Word) : Bool := e.getLsbD 0
def pteLeaf (e : Word) : Bool := e.getLsbD 1
def pteR (e : Word) : Bool := e.getLsbD 2
def pteW (e : Word) : Bool := e.getLsbD 3
def pteX (e : Word) : Bool := e.getLsbD 4
def pteMt (e : Word) : Nat := bitsOf e 6 5
def ptePa (e : Word) : Nat := bitsOf e 62 13 * 2 ^ 13

/-- An entry breaks the format of R191 at a level. -/
def pteBreaks (e : Word) (lvl : Nat) : Bool :=
  e.getLsbD 63 || bitsOf e 12 7 != 0 ||
  (if pteLeaf e then
    decide (2 ≤ pteMt e) || lvl == 0 || ptePa e % 2 ^ pageBits lvl != 0
   else lvl == 3 || !tableOk (ptePa e))

/-- Where a walk fails (R222): WHY, the level, RDF; and the table entry it was reading. -/
structure WalkFail where
  why : Nat
  level : Nat
  rdf : Nat
  entry : Nat
  deriving DecidableEq, Repr

/-- What a walk comes to: a leaf and its level, a failure, or nothing yet, the read of the entry at `pa` being on its way. -/
inductive WalkRes where
  | ok (e : Word) (lvl : Nat)
  | fail (f : WalkFail)
  | wait (pa : Nat)
  deriving DecidableEq, Repr

/-- The 8 KiB page of an address. -/
def pageOf (va : Word) : Word := va &&& ~~~0x1FFF#64

/-- The walk of R192 over the levels still to read. An entry of another site's memory is read once the walk's packet stands
there; a read that the fabric discards fails as one without access (R290). -/
def walkFrom (s : State) (p : PId) (ctx : Nat) (va : Word) : List Nat → Nat → WalkRes
  | [], _ => .fail ⟨2, 3, 0, 0⟩
  | lvl :: rest, t =>
    if !tableOk t then .fail ⟨2, lvl, 0, t⟩ else
    let a := t + 8 * ptIndex va lvl
    match s.wayOf p ctx (.walk (pageOf va) a) a with
    | .unasked | .coming => .wait a
    | .lost => .fail ⟨3, lvl, 0, a⟩
    | .here =>
      if !s.windowFor p ctx a 8 .read then .fail ⟨3, lvl, 0, a⟩ else
      if s.poisoned a 8 then .fail ⟨3, lvl, 1, a⟩ else
      let e := BitVec.ofNat 64 (ofBytes (Memory.read s.mem a 8))
      if !pteV e then .fail ⟨1, lvl, 0, a⟩ else
      if pteBreaks e lvl then .fail ⟨2, lvl, 0, a⟩ else
      if pteLeaf e then .ok e lvl else walkFrom s p ctx va rest (ptePa e)

/-- The walk of R192 from the root of a live context. -/
def walk (s : State) (p : PId) (ctx : Nat) (root : Nat) (va : Word) : WalkRes :=
  if !canonical va then .fail ⟨0, 0, 0, 0⟩ else walkFrom s p ctx va [0, 1, 2, 3] root

/-- A packet of a kind carries a read of the walk for an address. -/
def PktKind.walks (va : Word) : PktKind → Bool
  | .walk v _ => v == pageOf va
  | _ => false

/-- Go on with a walk: ask for the entry it waits for, or, when it has come to its end, let its packets go. -/
def State.walkOn (s : State) (p : PId) (ctx root : Nat) (va : Word) : WalkRes × State :=
  match walk s p ctx root va with
  | .wait a => (.wait a, (s.askWay p ctx 0 (.walk (pageOf va) a) a).2)
  | r => (r, s.dropWays p ctx (·.walks va))

/-- The trap a failed walk gives the access that needed it (R192). -/
def WalkFail.cause (f : WalkFail) : Nat := if f.why = 3 then (if f.rdf = 1 then 12 else 11) else 9

/-- What a translation gives. -/
inductive Xlat where
  /-- the global physical address, and whether the page is non-cacheable (R191) -/
  | ok (pa : Nat) (nc : Bool)
  /-- a fault before commit, by cause code (R335) -/
  | trap (cause : Nat)
  /-- the context is not live: neither commit nor trap (R394) -/
  | dead
  /-- nothing yet: a table entry is on its way (R192) -/
  | wait
  deriving DecidableEq, Repr

def TlbEnt.hits (e : TlbEnt) (ctx : Nat) (va : Word) : Bool :=
  e.ctx == ctx && va.toNat / 2 ^ pageBits e.level == e.va / 2 ^ pageBits e.level

/-- A leaf's permission for a kind of access (R192). -/
def ptePermits (e : Word) : AccKind → Bool
  | .read => pteR e
  | .write => pteW e
  | .rmw => pteR e && pteW e
  | .fetch => pteX e

/-- The end of a translation: permission, then the checks of R7 and R24. -/
def finishXlat (e : Word) (lvl : Nat) (va : Word) (k : AccKind) : Xlat :=
  if !ptePermits e k then .trap 10 else
  let pa := ptePa e + va.toNat % 2 ^ pageBits lvl
  match paRegion pa 1 with
  | none => .trap 8
  | some _ => .ok pa (pteMt e == 1)

/-- Translation (R192 to R194, R394): the core's TLB, the shared TLB, a walk; a walk that succeeds fills both. -/
def State.translate (s : State) (p : PId) (ctx : Nat) (va : Word) (k : AccKind) : Xlat × State :=
  let q := s.site p.site
  match q.liveCtx ctx with
  | none => (.dead, s)
  | some x =>
    if !canonical va then (.trap 9, s) else
    match (s.proc p).tlb.find? (·.hits ctx va) with
    | some e => (finishXlat e.pte e.level va k, s)
    | none =>
      match q.stlb.find? (·.hits ctx va) with
      | some e => (finishXlat e.pte e.level va k, s.modProc p fun r => { r with tlb := (e :: r.tlb).take 512 })
      | none =>
        match s.walkOn p ctx (q.ctx x).ptroot.toNat va with
        | (.wait _, s) => (.wait, s)
        | (.fail f, s) => (.trap f.cause, s.perfAdd p ctx 8 1)
        | (.ok e lvl, s) =>
          let ent : TlbEnt := ⟨ctx, va.toNat, lvl, e⟩
          let s := (s.perfAdd p ctx 8 1).modProc p fun r => { r with tlb := (ent :: r.tlb).take 512 }
          (finishXlat e lvl va k, s.modSite p.site fun q => { q with stlb := (ent :: q.stlb).take 32768 })

/-- Drop translations: one page of a context, a context, or all (R354, R322). -/
def dropTlb (kind : BitVec 2) (ctx : Nat) (va : Word) (l : List TlbEnt) : List TlbEnt :=
  l.filter fun e => !(match kind.toNat with
    | 0 => e.hits ctx va
    | 1 => e.ctx == ctx
    | _ => true)

end Sys2Proof.Machine
end

