-- ==== Sys2Proof/Machine/Inspect.lean ====
section
/-! DEFINITION. What loads of control space return (R25, R317 to R321, R389): the registers of a site, the processor
blocks and the thread windows. A read changes nothing. -/
namespace Sys2Proof.Machine

def TSt.code : TSt → Nat
  | .free => 0 | .ready => 1 | .parked => 2 | .exiting => 3 | .held => 4 | .stopped => 5

/-- WAIT of TCTL (R320). -/
def Wait.code : Wait → Nat
  | .none | .sleep _ => 0 | .rejoin _ => 1 | .barrier _ _ _ => 2 | .truss _ _ => 3 | .timeline _ _ => 4
  | .chan _ | .version _ | .ptime _ _ => 5 | .event _ => 6

/-- TCTL (R320). -/
def Thread.tctl (t : Thread) : Word :=
  BitVec.ofNat 64 (t.st.code * 2 ^ 61 + (if t.st = .parked then t.wait.code * 2 ^ 58 else 0) +
    (if t.st = .held then t.why * 2 ^ 52 else 0) + t.ctx % 2 ^ 16 * 2 ^ 32 + t.entry % 32)

/-- A band handle (R102). -/
def handleOf (b : BandRef) : Word := BitVec.ofNat 64 (b.epoch % 2 ^ 16 * 2 ^ 16 + b.num % 64)

/-- %band (R102): all ones for a thread in no band. -/
def Thread.bandWord (t : Thread) : Word :=
  match t.band with | some b => handleOf b | none => BitVec.allOnes 64

/-- One part of the error record in the %ti layout (R198): zero when empty. -/
def ErrPart.word (e : ErrPart) : Word :=
  if e.count = 0 then 0 else BitVec.ofNat 64 (min e.count 2047 * 2 ^ 53 + e.va.toNat % 2 ^ 53)

/-- The window state register (R99). -/
def Thread.wst (t : Thread) : Word := BitVec.ofNat 64 (t.spilled % 2 ^ 16 * 2 ^ 16 + t.frames.length % 8)

/-- Byte `k` of a walk descriptor as R227 lays it out. -/
def Walk.bytes (w : Walk) : List Byte :=
  toBytes 8 w.base.toNat ++ toBytes 1 w.unit ++ toBytes 1 (boolN w.bound) ++ toBytes 6 0 ++ toBytes 8 w.fill.toNat ++
    toBytes 8 0 ++
    (w.ctrs.flatMap fun c => toBytes 4 c.n ++ toBytes 4 (BitVec.ofInt 32 c.org).toNat ++ toBytes 4 c.ext ++
      toBytes 4 0 ++ toBytes 8 (BitVec.ofInt 64 c.stride).toNat) ++ toBytes 16 0

/-- Word `k` of a byte list. -/
def wordAt (l : List Byte) (k : Nat) : Word := BitVec.ofNat 64 (ofBytes ((l.drop (8 * k)).take 8))

/-- The special registers the window shows from +0x030 on (R319). -/
def Thread.specials (t : Thread) : List Word :=
  [t.fcsr, t.mcov, t.mrho, t.tp, t.tc, t.ti, t.tst, t.tk0, t.tk1, t.wst, t.wsp, t.seed, t.gsd]

/-- The word at an offset of a thread window (R319). -/
def threadWord (t : Thread) (off : Nat) : Word :=
  if off = 0 then t.tctl
  else if off = 0x8 then t.pc
  else if off = 0x10 then BitVec.ofNat 64 t.age
  else if off = 0x18 then t.bandWord
  else if off = 0x20 then
    BitVec.ofNat 64 ((List.range 8).foldl (fun a k => a + boolN (t.p k) * 2 ^ k + t.sbOf k % 64 * 2 ^ (8 + 6 * k)) 0)
  else if off = 0x28 then t.erec.word
  else if 0x30 ≤ off ∧ off < 0x98 then (t.specials[(off - 0x30) / 8]?).getD 0
  else if off = 0xA0 then t.prec.word
  else if off = 0xC0 then t.lnk
  else if 0xC8 ≤ off ∧ off < 0xF8 then ((t.frames[(off - 0xC8) / 8]?).map (·.lnk)).getD 0
  else if off = 0xF8 then
    match t.st, t.wait with
    | .parked, .sleep d => BitVec.ofNat 64 d
    | _, _ => 0
  else if 0x100 ≤ off ∧ off < 0x200 then t.g ((off - 0x100) / 8)
  else if 0x200 ≤ off ∧ off < 0x500 then
    ((t.frames[(off - 0x200) / 128]?).bind fun f => f.regs[(off - 0x200) / 8 % 16]?).getD 0
  else if 0x500 ≤ off ∧ off < 0x540 then t.m ((off - 0x500) / 8)
  else if 0x600 ≤ off ∧ off < 0xA00 then
    let w := t.w ((off - 0x600) / 64)
    let k := (off - 0x600) / 8 % 8
    if k < 4 then w.pay.extractLsb' (64 * k) 64 else if k = 4 then w.scale.setWidth 64 else 0
  else if 0xA00 ≤ off ∧ off < 0xD00 then
    (((t.walks[(off - 0xA00) / 192]?).getD none).map fun w => wordAt w.bytes ((off - 0xA00) % 192 / 8)).getD 0
  else if off = 0xD00 then
    BitVec.ofNat 64 ((List.range 4).foldl (fun a k => a + boolN (((t.walks[k]?).getD none).isSome) * 2 ^ k) 0)
  else 0

def ESt.code : ESt → Nat
  | .empty => 0 | .wait => 1 | .active => 2 | .stopping => 3 | .stopped => 4 | .done => 5

/-- Threads of an entry not FREE (R330). -/
def State.entryLive (s : State) (p : PId) (e : Nat) : Nat :=
  ((s.liveThreads p).filter fun x => x.2.entry == e).length

/-- ATIME in units of 1,024 cycles (R330). -/
def State.atime (s : State) (p : PId) (e : Entry) : Nat :=
  match e.st with
  | .active => procSpan p e.since s.tick / 1024
  | _ => e.atime

def Proc.entry (r : Proc) (e : Nat) : Entry := r.slots.get Entry.empty e

/-- Word `k` of a slot-table entry (R329, R330): zero while EMPTY. -/
def State.entryWord (s : State) (p : PId) (e k : Nat) : Word :=
  let n := (s.proc p).entry e
  if n.st = .empty then 0 else
  match k with
  | 0 => BitVec.ofNat 64 (boolN n.err * 128 + n.st.code + p.core * 2 ^ 8 + e * 2 ^ 16 + n.prio * 2 ^ 24 +
      n.slo * 2 ^ 32 + n.shi * 2 ^ 40 + n.ctx * 2 ^ 48)
  | 1 => BitVec.ofNat 64 (n.quantum + n.c * 2 ^ 32)
  | 2 => BitVec.ofNat 64 n.launch
  | _ => BitVec.ofNat 64 (s.entryLive p e + s.atime p n * 2 ^ 32)

/-- Word `k` of a barrier object (R107). -/
def Bar.word (b : Bar) (live : Bool) : Nat → Word
  | 0 => BitVec.ofNat 64 (boolN live + b.exp * 2 ^ 12 + b.arr * 2 ^ 32)
  | _ => b.txp ++ b.gen

def Band.bar (b : Band) (i : Nat) : Bar := b.bars.get Bar.fresh i

/-- The scanned-out band of a reference, with its entry (R345). -/
def Proc.sband (r : Proc) (b : BandRef) : Option (Nat × Band) :=
  (r.sbands.find? fun e => e.1.2 == b.num && e.2.epoch == b.epoch).map fun e => (e.1.1, e.2)

/-- The live band of a reference, in place or scanned out. -/
def Proc.band (r : Proc) (b : BandRef) : Option Band :=
  match r.bands.find b.num with
  | some x => if x.epoch = b.epoch then some x else (r.sband b).map (·.2)
  | none => (r.sband b).map (·.2)

/-- The band that the windows show under a number: the one in place, else one scanned out (R319, R389). -/
def Proc.shownBand (r : Proc) (k : Nat) : Option Band :=
  match r.bands.find k with
  | some b => some b
  | none => (r.sbands.find? fun e => e.1.2 == k).map (·.2)

/-- The band table (R318). -/
def Proc.bandWord (r : Proc) (k off : Nat) : Word :=
  match r.shownBand k with
  | none => 0
  | some b =>
    if off = 0 then handleOf ⟨k, b.epoch⟩
    else if off = 8 then BitVec.ofNat 64 b.members.length
    else if off = 16 then b.coord.setWidth 64
    else if 256 ≤ off then (b.bar ((off - 256) / 16)).word true (off / 8 % 2)
    else 0

def TileSt.code : TileSt → Nat
  | .empty => 0 | .filling => 1 | .ready => 2 | .draining => 3

/-- A tile-table entry (R245). -/
def Tile.word (t : Tile) : Word :=
  BitVec.ofNat 64 (t.st.code * 2 ^ 62 + t.span * 2 ^ 59 + t.cnt * 2 ^ 51 + boolN t.acc * 2 ^ 50 + t.band.num * 2 ^ 44 +
    t.size * 2 ^ 19 + t.base)

def Proc.tile (r : Proc) (k : Nat) : Tile := r.tiles.get Tile.empty k
def Proc.timeline (r : Proc) (x k : Nat) : Timeline := r.tls.get ⟨0, 0, [], []⟩ (x, k)
def Proc.perfOf (r : Proc) (x k : Nat) : Perf := r.perf.get ⟨0, false, 0⟩ (x, k)
def Seq.acc (q : Seq) (a : Nat) : AccTile := q.accs.get AccTile.fresh a

/-- Entry `(r, c)` of an accumulator tile; unlisted entries are zero (R262). -/
def AccTile.entry (a : AccTile) (r c : Nat) : BitVec 36 := ((a.rows[r]?).bind (·[c]?)).getD 0
def AccTile.holdBit (a : AccTile) (r c : Nat) : Bool := ((a.hold[r]?).bind (·[c]?)).getD false

/-- The accumulator status word (R262). -/
def AccTile.status (a : AccTile) : Word :=
  BitVec.ofNat 64 (boolN a.ovf * 2 ^ 18 + boolN a.nv * 2 ^ 17 + boolN a.satf * 2 ^ 16 + boolN a.ovm * 2 ^ 9 +
    boolN a.int * 2 ^ 8 + a.wm)

def SqSt.code : SqSt → Nat
  | .unbound => 0 | .idle => 1 | .running => 2 | .waiting => 3 | .stopped => 4 | .faulted => 5

/-- The sequencer status word (R273). -/
def Seq.status (q : Seq) : Word :=
  BitVec.ofNat 64 (q.st.code * 2 ^ 61 + q.fcode * 2 ^ 57 + q.loops.length * 2 ^ 54 + q.spc.toNat % 2 ^ 53)

/-- A plane in the sequencer block; its layout there is the model's own (log 8). -/
def planeWord (pl : Option Plane) (off : Nat) : Word :=
  match pl with
  | none => 0
  | some q =>
    if off = 0 then BitVec.ofNat 64 (256 + q.fmt.code)
    else if 0x100 ≤ off ∧ off < 0x200 then
      BitVec.ofNat 64 ((List.range 4).foldl (fun a k => a + (q.scales[(off - 0x100) / 2 + k]?).getD 0 * 2 ^ (16 * k)) 0)
    else if 0x1000 ≤ off ∧ off < 0x3000 then
      let e := (off - 0x1000) / 2
      BitVec.ofNat 64 ((List.range 4).foldl
        (fun a k => a + (((q.elems[(e + k) / 64]?).bind (·[(e + k) % 64]?)).getD 0) * 2 ^ (16 * k)) 0)
    else 0

/-- The sequencer block (R318). -/
def Seq.word (q : Seq) (off : Nat) : Word :=
  if off = 0 then q.status
  else if off = 8 then q.layout.setWidth 64
  else if 0x40 ≤ off ∧ off < 0x80 then
    let k := (off - 0x40) / 4
    (q.sph[k + 1]?.getD 0) ++ (q.sph[k]?.getD 0)
  else if 0x80 ≤ off ∧ off < 0x100 then
    match q.loops[(off - 0x80) / 32]? with
    | none => 0
    | some l =>
      match off / 8 % 4 with
      | 0 => l.start
      | 1 => l.stop
      | 2 => BitVec.ofNat 64 l.rem
      | _ => BitVec.ofNat 64 l.iter
  else if 0x1000 ≤ off ∧ off < 0x4000 then planeWord q.active (off - 0x1000)
  else if 0x4000 ≤ off ∧ off < 0x7000 then planeWord q.shadow (off - 0x4000)
  else 0

def FaultRec.word (f : FaultRec) (slot k : Nat) : Word :=
  if k = 0 then f.va
  else BitVec.ofNat 64 (f.num % 2 ^ 32 * 2 ^ 32 + slot * 2 ^ 29 + boolN f.perm * 2 ^ 27 + boolN f.copyEng * 2 ^ 26 +
    2 ^ 25 + f.tl * 2 ^ 16 + f.ctx % 2 ^ 16)

/-- Lost-locality sum (R94) and the number of rows that may issue M-pipe clauses (R95, R96). -/
def Proc.lssum (r : Proc) : Nat := (List.range 16).foldl (fun a k => a + r.lls.get 0 k) 0
def Proc.mrows (r : Proc) : Nat :=
  if !r.thrEn then 16
  else if r.lssum ≤ r.thr then 16
  else if r.lssum ≤ 2 * r.thr then 8
  else if r.lssum ≤ 4 * r.thr then 4
  else 2

/-- Handler threads of a core not FREE (R234). -/
def State.hlive (s : State) (p : PId) : Nat := ((s.liveThreads p).filter fun x => x.2.handler.isSome).length

def Proc.rejoin (r : Proc) (row j : Nat) : BitVec 32 × BitVec 32 := r.rj.get (0, 0) (row, j)

/-- What TRQ reads of a channel (R126). -/
def State.trqWord (s : State) (p : PId) (ch : Nat) : Word :=
  let r := s.proc p
  0#30 ++ BitVec.ofBool (((s.site p.site).mask ch).getLsbD p.core) ++ BitVec.ofBool (r.tarr.get false ch) ++ r.tgen.get 0 ch

/-! Engine state as words (R318, R345), in a layout of the model's own (log 32). -/

def putList {α : Type} (f : α → List Nat) (l : List α) : List Nat := l.length :: l.flatMap f

def putOpt {α : Type} (f : α → List Nat) : Option α → List Nat
  | none => [0]
  | some x => 1 :: f x

def putBytes (b : List Byte) : List Nat := b.length :: (List.range ((b.length + 7) / 8)).map fun k => (wordAt b k).toNat

def putRef (b : BandRef) : List Nat := [b.num + b.epoch * 64]

def Walk.nats (w : Walk) : List Nat := (List.range 24).map fun k => (wordAt w.bytes k).toNat

def OpKind.nats : OpKind → List Nat
  | .bread w z pc args g17 budget gsd jb =>
    0 :: w.nats ++ [z, pc.toNat, budget, gsd.toNat] ++ putList (fun x => [x.toNat]) args ++ putList (fun x => [x.toNat]) g17 ++
      putOpt putRef jb
  | .copy a b => 1 :: a.nats ++ b.nats
  | .copyIn w k o => 2 :: w.nats ++ [k, o]
  | .copyOut w k o => 3 :: w.nats ++ [k, o]
  | .tileAdd f k o vals => [4, boolN f, k, o] ++ putList (fun v => putBytes (toBytes 32 v.toNat)) vals
  | .bupd d w m v g => 5 :: putBytes d ++ [w, m, v, g]

/-- A burst; one of a copy is staged bytes alone. -/
def Burst.nats (b : Burst) : List Nat :=
  let bare := b.data.isSome && b.pa == 0 && b.va == 0 && b.arrival == 0 && b.bc.isEmpty
  (b.seq + boolN b.outside * 2 ^ 32 + boolN b.bad * 2 ^ 33 + boolN bare * 2 ^ 34) ::
    (if bare then [] else [b.va.toNat, b.pa, b.arrival] ++ putList (fun x => [x]) b.bc ++ [boolN b.data.isSome]) ++
    (match b.data with | some d => putBytes d | none => [])

/-- An operation at place `i` among `ids`, with the register its status goes to, that register's frame, and the scoreboard it
holds, counted from 1. -/
def Op.nats (o : Op) (ids : List Nat) (i : Nat) (dst : Option (Nat × Nat × Nat)) : List Nat :=
  [i, o.t.lane + o.t.slot % 16 * 32, o.num, o.scope, o.next, o.failed, boolN o.err + boolN o.cancel * 2, o.hcode] ++
    putOpt (fun x => [x]) o.tl ++ putOpt putRef o.band ++ o.kind.nats ++ putList Burst.nats o.bursts ++
    putList (fun x => [x.1, x.2]) o.held ++ putList (fun x => [x]) o.again ++ putList Burst.nats o.written ++
    putList (fun t => [t.lane + t.slot % 16 * 32]) o.handlers ++
    putList (fun k => [k]) (o.kids.filterMap fun k => ids.findIdx? (· == k)) ++
    putOpt (fun x => putRef x.1 ++ [x.2]) o.bar ++ putOpt (fun x => [x.1, x.2.1, x.2.2]) dst

/-- The frame of a number: 0 the current one, then the saved ones, newest first. -/
def Thread.frameAt (t : Thread) (fid : Nat) : Nat :=
  if fid = t.fid then 0 else match t.frames.findIdx? (·.fid == fid) with | some k => k + 1 | none => 255

/-- The operations of a list that one engine holds, as words: the burst engine's, or the copy engine's. -/
def State.engineNats (s : State) (l : List Op) (copy : Bool) : List Nat :=
  let ids := l.map (·.id)
  let mine := l.zipIdx.filter fun x => (match x.1.kind with | .bread _ _ _ _ _ _ _ _ => false | _ => true) == copy
  putList (fun x =>
    let dst := (s.reqs.find? fun r => match r.kind with | .engine id _ => id == x.1.id | _ => false).bind fun r =>
      match r.kind with | .engine _ d => some (d, (s.th r.t).frameAt r.fid, (r.sb.map (· + 1)).getD 0) | _ => none
    x.1.nats ids x.2 dst) mine

/-- Where word `k` of an engine's state stands in an image: in its own 64 KiB of the processor block, then in space of the block
that the spec leaves free. -/
def engineOff (copy : Bool) (k : Nat) : Nat :=
  if k < 8192 then (if copy then 0x70000 else 0x60000) + 8 * k else (if copy then 0x1A0000 else 0x150000) + 8 * (k - 8192)

/-- Words of an engine's state that an image holds. -/
def engineCap (copy : Bool) : Nat := 8192 + (if copy then 0xC000 else 0xA000)

/-- The operations of a processor, those in place first. -/
def State.opsShown (s : State) (p : PId) : List Op :=
  let l := s.ops.filter fun o => o.t.p == p
  l.filter (!·.out) ++ l.filter (·.out)

/-- The word of an engine's state at an offset of the processor block: what goes past its 64 KiB is not shown, for R317 has
unlisted offsets read zero. -/
def State.engineWord (s : State) (p : PId) (off : Nat) : Word :=
  let at_ (copy : Bool) (k : Nat) : Word := BitVec.ofNat 64 (((s.engineNats (s.opsShown p) copy)[k]?).getD 0)
  if off < 0x70000 then at_ false ((off - 0x60000) / 8) else at_ true ((off - 0x70000) / 8)

/-- The sequencer that the windows show: the one in place, else one scanned out. -/
def Proc.shownSeq (r : Proc) : Seq :=
  if r.seq.st = .unbound then (match r.sseqs with | x :: _ => x.2 | [] => r.seq) else r.seq

/-- The tile-table entry that the windows show. -/
def Proc.shownTile (r : Proc) (k : Nat) : Tile :=
  if (r.tile k).st = .empty then ((r.stiles.find? fun x => x.1.2 == k).map (·.2.1)).getD Tile.empty else r.tile k

/-- The tile-store bytes that the windows show at an offset: those of a scanned-out tile where no tile in place stands. -/
def Proc.shownBytes (r : Proc) (off : Nat) : List Byte :=
  let covers (t : Tile) : Bool := decide (t.base ≤ off) && decide (off < t.base + 512 * t.size)
  if r.tiles.any fun x => x.2.st != .empty && covers x.2 then Memory.read r.tstore off 8
  else match r.stiles.find? fun x => covers x.2.1 with
    | some x => (x.2.2.drop (off - x.2.1.base)).take 8
    | none => Memory.read r.tstore off 8

/-- The thread a window shows: in its slot, or scanned out (R319). -/
def State.windowThread (s : State) (p : PId) (lane row : Nat) : TId :=
  let t : TId := ⟨p, lane, row⟩
  if (s.th t).st ≠ .free then t else
  match s.threads.find? fun e => e.1.p == p && e.1.lane == lane && decide (16 ≤ e.1.slot) && e.1.slot % 16 == row &&
      e.2.st != .free with
  | some e => e.1
  | none => t

/-- Where a processor's block is mirrored in the save area of a context (R322). -/
def State.saveBase (s : State) (p : PId) (ctx : Nat) : Option Nat :=
  let q := s.site p.site
  (q.ctxIdx ctx).map fun x => (q.ctx x).save.toNat + 0x400000 * p.core

/-- The word at an offset of a thread window: of a thread in place, or of one scanned out as it stands in the save area (R319). -/
def State.windowWord (s : State) (p : PId) (k off : Nat) : Word :=
  let t := s.windowThread p (k / 16) (k % 16)
  match (if t.slot < 16 then none else s.saveBase p (s.th t).ctx) with
  | some a => BitVec.ofNat 64 (ofBytes (Memory.read s.mem (a + 0x200000 + 0x1000 * k + off) 8))
  | none => threadWord (s.th t) off

/-- The word at an offset of a processor block (R318); a unit the processor lacks reads zero. -/
def State.procWord (s : State) (p : PId) (off : Nat) : Word :=
  let r := s.proc p
  let core := kindOf p == .core
  if off = 0 then
    if core then BitVec.ofNat 64 (r.mrows * 2 ^ 32 + boolN r.thrEn * 2 ^ 31 + r.thr) else 0
  else if off = 8 then
    if core then BitVec.ofNat 64 (s.hlive p * 2 ^ 32 + boolN r.hres * 2 ^ 17 + r.hlo * 2 ^ 12 + r.hmax) else 0
  else if off = 0x10 then
    (0#56 ++ BitVec.ofBool (usable p) ++ (if core then Config.builtIndex p.site p.core else 0))
  else if 0x100 ≤ off ∧ off < 0x180 then
    ((r.efq.find ((off - 0x100) / 16)).map fun f => f.word ((off - 0x100) / 16) (off / 8 % 2)).getD 0
  else if 0x400 ≤ off ∧ off < 0x800 then s.entryWord p ((off - 0x400) / 32) (off / 8 % 4)
  else if 0x1000 ≤ off ∧ off < 0x9000 then r.bandWord ((off - 0x1000) / 512) ((off - 0x1000) % 512)
  else if 0x10000 ≤ off ∧ off < 0x10400 then
    let j := r.rejoin ((off - 0x10000) / 64) (off / 8 % 8)
    j.2 ++ j.1
  else if 0x20000 ≤ off ∧ off < 0x20200 then
    let t := r.shownTile ((off - 0x20000) / 8)
    if t.st = .empty then 0 else t.word
  else if 0x21000 ≤ off ∧ off < 0x25000 then
    let t := r.timeline ((off - 0x21000) / 256) ((off - 0x21000) / 16 % 16)
    BitVec.ofNat 64 (if off / 8 % 2 = 0 then t.issued else t.dn)
  else if 0x30000 ≤ off ∧ off < 0x31000 then (r.perfOf ((off - 0x30000) / 64) (off / 8 % 8)).count
  else if 0x40000 ≤ off ∧ off < 0x60000 then if core then r.shownSeq.word (off - 0x40000) else 0
  else if 0x60000 ≤ off ∧ off < 0x80000 then s.engineWord p off
  else if 0x80000 ≤ off ∧ off < 0x100000 then BitVec.ofNat 64 (ofBytes (r.shownBytes (off - 0x80000)))
  else if 0x100000 ≤ off ∧ off < 0x140000 then
    let a := r.shownSeq.acc ((off - 0x100000) / 0x8000)
    let e := (off - 0x100000) / 8 % 4096
    (0#27 ++ BitVec.ofBool (a.holdBit (e / 64) (e % 64)) ++ a.entry (e / 64) (e % 64))
  else if 0x140000 ≤ off ∧ off < 0x140040 then if core then (r.shownSeq.acc ((off - 0x140000) / 8)).status else 0
  else if 0x200000 ≤ off ∧ off < 0x400000 then
    let k := (off - 0x200000) / 0x1000
    if slotExists ⟨p, k / 16, k % 16⟩ then s.windowWord p k ((off - 0x200000) % 0x1000) else 0
  else 0

/-- Word `k` of a context-table entry (R321). -/
def Ctx.word (c : Ctx) : Nat → Word
  | 0 => BitVec.ofNat 64 (boolN (c.st == 1) * 2 ^ 63 + c.st * 2 ^ 61 + c.id)
  | 1 => c.ptroot
  | 2 => c.tvec
  | 3 => c.save
  | _ => 0

/-- Word `k` of a norm register (R76, R270). -/
def Norm.word (n : Norm) : Nat → Word
  | 0 => n.v.extractLsb' 0 64
  | 1 => (n.v.extractLsb' 64 32).setWidth 64
  | 2 => BitVec.ofNat 64 (boolN n.sat * 2 ^ 33 + boolN n.uf * 2 ^ 32 + n.ufcnt)
  | _ => 0

/-- A link-state register (R284). -/
def Link.word (l : Link) : Word :=
  BitVec.ofNat 64 (l.st.code * 2 ^ 61 + l.good.toNat * 2 ^ 32 + l.weight * 2 ^ 24 + l.retrains)

/-- Word `k` of a routing table: one entry on a compute reticle, four 16-bit entries on a pool reticle. -/
def rtWord (gs : Nat) (t : Tab Nat Word) (k : Nat) : Word :=
  if isCompute gs then t.get (rtReset gs) k
  else BitVec.ofNat 64 ((List.range 4).foldl (fun a j => a + (t.get 0 (4 * k + j)).toNat % 2 ^ 16 * 2 ^ (16 * j)) 0)

/-- The topology version register (R293). -/
def Site.verWord (q : Site) : Word :=
  BitVec.ofBool q.verErr ++ 0#15 ++ q.shadow ++ 0#16 ++ q.active

/-- The event summary register (R341). -/
def Site.evs (q : Site) : Word := BitVec.ofNat 16 q.lost ++ 0#35 ++ q.pend ++ 0#1

/-- A device-launch selector word (R325). -/
def DLaunch.word (d : DLaunch) : Word := BitVec.ofBool d.occ ++ BitVec.ofBool d.bad ++ 0#56 ++ BitVec.ofNat 6 d.queue

def Site.dl (q : Site) (i : Nat) : DLaunch := q.dlaunch.get ⟨[], false, false, 0⟩ i

/-- CORES of the identity record: the built cores the fuse map names (R8, R378). -/
def coresMask (gs : Nat) : BitVec 128 :=
  (List.range 96).foldl (fun a n => a ||| (1#128 <<< (Config.builtIndex gs n).toNat)) 0

/-- The identity page (R378). -/
def State.identityWord (s : State) (gs off : Nat) : Word :=
  let q := s.site gs
  if off = 0 then (0x41#32 ++ 1#32)
  else if off = 8 then (BitVec.ofNat 32 (gs % 64) ++ s.wafer.setWidth 32)
  else if off = 0x10 then Config.serial.extractLsb' 0 64
  else if off = 0x18 then Config.serial.extractLsb' 64 64
  else if off = 0x20 then if isCompute gs then (coresMask gs).extractLsb' 0 64 else 0
  else if off = 0x28 then if isCompute gs then (coresMask gs).extractLsb' 64 64 else 0
  else if 0x40 ≤ off ∧ off < 0x5C0 then
    BitVec.ofNat 64 (ofBytes ((List.range 8).map fun k => Config.idHeader gs (off - 0x40 + k)))
  else if off = 0x800 then BitVec.ofNat 64 (boolN q.master * 128 + q.alarm * 16 + q.boot)
  else 0

/-- Power telemetry (R381). -/
def Site.telemetry (q : Site) : Word :=
  BitVec.ofNat 64 (q.vin % 2 ^ 16 * 2 ^ 48 + q.iout % 2 ^ 16 * 2 ^ 32 + q.vcore % 2 ^ 12 * 2 ^ 20 + boolN q.lim * 2 ^ 19 +
    q.pwr % 2 ^ 19)

def LogEnt.word (e : LogEnt) : Nat → Word
  | 0 => e.w0 | 1 => e.w1 | 2 => e.w2 | _ => e.w3

def Ring.word (r : Ring) : Word :=
  BitVec.ofBool r.lock ++ BitVec.ofBool r.en ++ 0#14 ++ r.detune ++ r.target ++ r.heat

def Therm.word (t : Therm) : Word := BitVec.ofBool t.valid ++ 0#31 ++ t.peak ++ t.temp

/-- The health region (R373, R379 to R387). -/
def State.healthWord (s : State) (gs off : Nat) : Word :=
  let q := s.site gs
  if off = 0 then BitVec.ofNat 64 (q.logLost * 2 ^ 48 + q.logNext * 2 ^ 32 + q.logHead)
  else if 0x100 ≤ off ∧ off < 0x200 then q.hosts.get 0 ((off - 0x100) / 8)
  else if off = 0x200 then
    (BitVec.ofNat 3 q.alarm ++ BitVec.ofBool Config.otpErase ++ q.alarmSrc ++ 0#57)
  else if off = 0x208 then q.telemetry
  else if off = 0x210 then BitVec.ofNat 64 q.ilim
  else if 0x300 ≤ off ∧ off < 0x380 then
    let k := (off - 0x300) / 8
    if isCompute gs ∨ k < 4 then (q.therm.get ⟨false, 0, 0⟩ k).word else 0
  else if 0x400 ≤ off ∧ off < 0x480 then (q.rings.get ⟨false, false, 0, 0, 0⟩ ((off - 0x400) / 8)).word
  else if 0x500 ≤ off ∧ off < 0x520 then q.wear.get 0 ((off - 0x500) / 8)
  else if off = 0x520 then q.eol
  else if 0x1000 ≤ off ∧ off < 0x9000 then
    (q.log.get ⟨0, 0, 0, 0⟩ ((off - 0x1000) / 32)).word (off / 8 % 4)
  else if 0xA000 ≤ off ∧ off < 0xB000 then q.report.get 0 ((off - 0xA000) / 8)
  else 0

/-- The word at an 8-byte-aligned control-space address (R317); an unlisted one reads zero. -/
def State.ctlRead (s : State) (gs a : Nat) : Word :=
  let q := s.site gs
  let o := a - 0xF800000000
  let c := isCompute gs
  if o < 0x1000 then s.identityWord gs o
  else if c ∧ o = 0x1000 then q.fabPrefix
  else if c ∧ o = 0x1008 then q.egress
  else if o = 0x2000 then BitVec.ofNat 64 q.scrub.base
  else if o = 0x2008 then BitVec.ofNat 64 q.scrub.limit
  else if o = 0x2010 then BitVec.ofNat 64 (boolN q.scrub.busy * 2 ^ 62 + boolN q.scrub.err * 2 ^ 61)
  else if !c ∧ o = 0x3000 then q.verWord
  else if c ∧ 0x10000 ≤ o ∧ o < 0x10200 then (q.norm ((o - 0x10000) / 32)).word (o / 8 % 4)
  else if c ∧ 0x20000 ≤ o ∧ o < 0x20100 then
    let m := q.mask ((o - 0x20000) / 16)
    if o / 8 % 2 = 0 then m.extractLsb' 0 64 else (m.extractLsb' 64 32).setWidth 64
  else if 0x30000 ≤ o ∧ o < 0x30000 + (if c then 160 else 288) then
    let k := (o - 0x30000) / 8
    (s.link gs (k / 4) (k % 4)).word
  else if 0x40000 ≤ o ∧ o < 0x40000 + (if c then 512 else 128) then rtWord gs q.rtActive ((o - 0x40000) / 8)
  else if 0x41000 ≤ o ∧ o < 0x41000 + (if c then 512 else 128) then rtWord gs q.rtShadow ((o - 0x41000) / 8)
  else if c ∧ 0x50000 ≤ o ∧ o < 0x58000 then q.mcsets.get 0 ((o - 0x50000) / 8)
  else if 0x60000 ≤ o ∧ o < 0x70000 then
    let w := q.windows.get ⟨0, 0⟩ ((o - 0x60000) / 1024, (o - 0x60000) / 16 % 64)
    if o / 8 % 2 = 0 then w.lo else w.hi
  else if c ∧ 0x80000 ≤ o ∧ o < 0x81000 then (q.ctx ((o - 0x80000) / 64)).word (o / 8 % 8)
  else if c ∧ o = 0x90000 then q.evs
  else if c ∧ 0x90100 ≤ o ∧ o < 0x90180 then q.watches.get 0 ((o - 0x90100) / 8)
  else if c ∧ 0x91000 ≤ o ∧ o < 0x95000 then wordAt (q.dl ((o - 0x91000) / 256)).image ((o - 0x91000) / 8 % 32)
  else if c ∧ 0x95000 ≤ o ∧ o < 0x95200 then (q.dl ((o - 0x95000) / 8)).word
  else if 0xA0000 ≤ o ∧ o < 0xB0000 then s.healthWord gs (o - 0xA0000)
  else if c ∧ 0x10000000 ≤ o ∧ o < 0x10000000 + 102 * 0x400000 then
    s.procWord ⟨gs, (o - 0x10000000) / 0x400000⟩ ((o - 0x10000000) % 0x400000)
  else 0

/-- The bytes at a control-space address (R25). -/
def State.ctlBytes (s : State) (gs a n : Nat) : List Byte :=
  (List.range n).map fun k => BitVec.ofNat 8 ((s.ctlRead gs ((a + k) / 8 * 8)).toNat >>> (8 * ((a + k) % 8)))

/-- The bytes of a location as its home holds them (R184). -/
def State.homeBytes (s : State) (pa n : Nat) : List Byte :=
  match regionOf (paSite pa) (paLocal pa) with
  | some .control => s.ctlBytes (paSite pa) (paLocal pa) n
  | _ => Memory.read s.mem pa n

end Sys2Proof.Machine
end

