-- ==== Sys2Proof/Machine/Num.lean ====
section
/-! DEFINITION. Number formats and rounding (R63 to R70, R78 to R83): exact values, decoding of element codes, and the
rounding helpers with the conditions they raise. A finite value is a sign, a natural mantissa `m` and an exponent `e`;
with `st` set its magnitude lies strictly between `m * 2^e` and `(m + 1) * 2^e`, and `m` carries enough bits for every
target. -/
namespace Sys2Proof.Machine

/-- An extended real, as the arithmetic rules use it. -/
inductive X where
  | fin (neg : Bool) (m : Nat) (e : Int) (st : Bool)
  | inf (neg : Bool)
  | nan
  deriving DecidableEq, Repr

def X.zero (neg : Bool) : X := .fin neg 0 0 false
def X.one : X := .fin false 1 0 false
def X.ofInt (i : Int) : X := .fin (i < 0) i.natAbs 0 false
def X.isNan : X → Bool | .nan => true | _ => false
def X.isInf : X → Bool | .inf _ => true | _ => false
def X.isFin : X → Bool | .fin _ _ _ _ => true | _ => false
def X.isZero : X → Bool | .fin _ 0 _ false => true | _ => false
def X.neg? : X → Bool | .fin n _ _ _ => n | .inf n => n | .nan => false
def X.negate : X → X | .fin n m e s => .fin (!n) m e s | .inf n => .inf (!n) | .nan => .nan
def X.abs : X → X | .fin _ m e s => .fin false m e s | .inf _ => .inf false | .nan => .nan
def X.withSign (n : Bool) : X → X | .fin _ m e s => .fin n m e s | .inf _ => .inf n | .nan => .nan

/-- Multiply by a power of two. -/
def X.scale (k : Int) : X → X | .fin n m e s => .fin n m (e + k) s | x => x

/-- An exact dyadic rational `m * 2^e`. -/
structure Dy where
  m : Int
  e : Int
  deriving DecidableEq, Repr

def Dy.zero : Dy := ⟨0, 0⟩
def Dy.at (d : Dy) (e : Int) : Int := d.m * 2 ^ (d.e - e).toNat
def Dy.add (a b : Dy) : Dy := let e := min a.e b.e; ⟨a.at e + b.at e, e⟩
def Dy.mul (a b : Dy) : Dy := ⟨a.m * b.m, a.e + b.e⟩
def Dy.neg (a : Dy) : Dy := ⟨-a.m, a.e⟩
def Dy.sub (a b : Dy) : Dy := a.add b.neg
def Dy.lt (a b : Dy) : Bool := let e := min a.e b.e; decide (a.at e < b.at e)
def Dy.le (a b : Dy) : Bool := !b.lt a
def Dy.isZero (a : Dy) : Bool := a.m == 0
def Dy.ofInt (i : Int) : Dy := ⟨i, 0⟩

/-- Floor of a dyadic. -/
def Dy.floor (a : Dy) : Int := if 0 ≤ a.e then a.m * 2 ^ a.e.toNat else a.m.fdiv (2 ^ (-a.e).toNat)

/-- A dyadic as a value; zero is +0. -/
def Dy.toX (d : Dy) : X := .fin (d.m < 0) d.m.natAbs d.e false

/-- The exact dyadic of a finite value, 0 for the others. -/
def X.dy : X → Dy
  | .fin n m e _ => ⟨if n then -(m : Int) else m, e⟩
  | _ => Dy.zero

/-- Order of two exact values; infinities at the ends. -/
def X.lt (a b : X) : Bool :=
  match a, b with
  | .nan, _ | _, .nan => false
  | .inf x, .inf y => x && !y
  | .inf x, _ => x
  | _, .inf y => !y
  | x, y => x.dy.lt y.dy

def X.eq (a b : X) : Bool := !a.isNan && !b.isNan && !a.lt b && !b.lt a

/-! Flags: bits 4 to 0 are NV, DZ, OF, UF, NX as in %fcsr (R146). -/

abbrev Fl := BitVec 8

def flNV : Fl := 16
def flDZ : Fl := 8
def flOF : Fl := 4
def flUF : Fl := 2
def flNX : Fl := 1

/-- Sum (R78, R80, R81): ∞ − ∞ is NaN and invalid; an exact zero of opposite signs is +0, −0 under RD. -/
def X.add (rd : Bool) (a b : X) : X × Fl :=
  match a, b with
  | .nan, _ | _, .nan => (.nan, 0)
  | .inf x, .inf y => if x = y then (.inf x, 0) else (.nan, flNV)
  | .inf x, _ => (.inf x, 0)
  | _, .inf y => (.inf y, 0)
  | .fin n m e _, .fin n' m' e' _ =>
    let d := (X.dy (.fin n m e false)).add (X.dy (.fin n' m' e' false))
    if d.m = 0 then (X.zero (if n = n' ∧ m = 0 ∧ m' = 0 then n else rd), 0) else (d.toX, 0)

/-- Product: 0 × ∞ is NaN and invalid. -/
def X.mul (a b : X) : X × Fl :=
  match a, b with
  | .nan, _ | _, .nan => (.nan, 0)
  | .inf x, y => if y.isZero then (.nan, flNV) else (.inf (x != y.neg?), 0)
  | x, .inf y => if x.isZero then (.nan, flNV) else (.inf (x.neg? != y), 0)
  | .fin n m e _, .fin n' m' e' _ => (.fin (n != n') (m * m') (e + e') false, 0)

/-- The quotient of two positive dyadics to at least `bits` bits, with the sticky mark. -/
def divMag (m : Nat) (e : Int) (m' : Nat) (e' : Int) (bits : Nat) : Nat × Int × Bool :=
  let k := bits + m'.log2 + 1
  let n := m * 2 ^ k
  (n / m', e - e' - k, n % m' != 0)

/-- Precision kept by quotients, roots and functions: beyond every target and the 24 bits of a draw. -/
def workBits : Nat := 400

/-- Quotient: 0/0 and ∞/∞ are NaN and invalid, a nonzero finite over zero is infinite and raises divide-by-zero. -/
def X.div (a b : X) : X × Fl :=
  match a, b with
  | .nan, _ | _, .nan => (.nan, 0)
  | .inf _, .inf _ => (.nan, flNV)
  | .inf x, y => (.inf (x != y.neg?), 0)
  | x, .inf y => (X.zero (x.neg? != y), 0)
  | .fin n m e _, .fin n' m' e' _ =>
    if m' = 0 then (if m = 0 then (.nan, flNV) else (.inf (n != n'), flDZ))
    else if m = 0 then (X.zero (n != n'), 0)
    else
      let (q, k, st) := divMag m e m' e' workBits
      (.fin (n != n') q k st, 0)

/-- One Newton step of the integer square root, repeated while it falls; the fuel is the bit length. -/
def isqrtLoop (n : Nat) : Nat → Nat → Nat
  | 0, x => x
  | f + 1, x => let y := (x + n / x) / 2; if y < x then isqrtLoop n f y else x

/-- Floor of the square root. -/
def isqrt (n : Nat) : Nat := if n = 0 then 0 else isqrtLoop n (n.log2 + 2) (2 ^ (n.log2 / 2 + 1))

/-- Square root of a positive dyadic to at least `workBits` bits. -/
def sqrtMag (m : Nat) (e : Int) : Nat × Int × Bool :=
  let k := 2 * workBits + (e % 2).toNat
  let n := m * 2 ^ k
  let r := isqrt n
  (r, (e - k) / 2, r * r != n)

/-- Reciprocal square root of a positive dyadic. -/
def rsqrtMag (m : Nat) (e : Int) : Nat × Int × Bool :=
  let k := 2 * workBits + 2 * (m.log2 + 1) + (e % 2).toNat
  let n := 2 ^ k / m
  let r := isqrt n
  (r, (-e - k) / 2, r * r * m != 2 ^ k)

/-! Formats. -/

/-- The floating-point formats of R63. -/
inductive NF where
  | f32 | f16 | bf16 | e4m3 | e5m2 | kf4 | fp36
  deriving DecidableEq, Repr

def NF.width : NF → Nat | .f32 => 32 | .f16 | .bf16 => 16 | .e4m3 | .e5m2 => 8 | .kf4 => 4 | .fp36 => 36
/-- Fraction width. -/
def NF.fw : NF → Nat | .f32 => 23 | .f16 => 10 | .bf16 => 7 | .e4m3 => 3 | .e5m2 => 2 | .kf4 => 1 | .fp36 => 27
def NF.bias : NF → Int | .f32 | .bf16 | .fp36 => 127 | .f16 | .e5m2 => 15 | .e4m3 => 7 | .kf4 => 1
def NF.emax (f : NF) : Nat := 2 ^ (f.width - 1 - f.fw) - 1
/-- Whether exponent `emax` holds infinity and NaN. -/
def NF.ieee : NF → Bool | .e4m3 | .kf4 => false | _ => true
/-- The code of the largest finite magnitude. -/
def NF.maxCode : NF → Nat
  | .e4m3 => 0x7E
  | .kf4 => 7
  | f => f.emax * 2 ^ f.fw - 1
/-- The canonical NaN (R80); KF4 has none. -/
def NF.nanCode : NF → Nat
  | .e4m3 => 0x7F
  | .kf4 => 0
  | f => f.emax * 2 ^ f.fw + 2 ^ (f.fw - 1)
def NF.infCode (f : NF) : Nat := f.emax * 2 ^ f.fw
def NF.signBit (f : NF) (neg : Bool) : Nat := if neg then 2 ^ (f.width - 1) else 0
/-- Exponent of the unit of the subnormals. -/
def NF.eMin (f : NF) : Int := 1 - f.bias - f.fw

/-- The value of a code (R64, R65). -/
def NF.decode (f : NF) (c : Nat) : X :=
  let neg := c.testBit (f.width - 1)
  let ex := c / 2 ^ f.fw % (f.emax + 1)
  let fr := c % 2 ^ f.fw
  if f = .e4m3 ∧ c % 128 = 127 then .nan
  else if f.ieee ∧ ex = f.emax then (if fr = 0 then .inf neg else .nan)
  else if ex = 0 then .fin neg fr f.eMin false
  else .fin neg (fr + 2 ^ f.fw) (f.eMin + ex - 1) false

/-- The code of a representable magnitude `q * 2^u` with `u` at least `eMin` and `q` at most `2^(fw+1)`. -/
def NF.encodeMag (f : NF) (q : Nat) (u : Int) : Nat :=
  let (q, u) := if q = 2 ^ (f.fw + 1) then (q / 2, u + 1) else (q, u)
  if q < 2 ^ f.fw then q else ((u - f.eMin).toNat + 1) * 2 ^ f.fw + (q - 2 ^ f.fw)

/-- Split a magnitude at unit `2^u`: quotient, and the fraction in units of `2^-24`, rounded down, with the marks
"fraction is exactly these 24 bits" and the comparison with one half (0 below, 1 equal, 2 above). -/
structure Split where
  q : Nat
  t24 : Nat
  exact24 : Bool
  half : Nat
  exact : Bool

def splitAt (m : Nat) (e : Int) (st : Bool) (u : Int) : Split :=
  if u ≤ e then ⟨m * 2 ^ (e - u).toNat, 0, !st, 0, !st⟩
  else
    let k := (u - e).toNat
    let q := m / 2 ^ k
    let r := m % 2 ^ k
    let t := r * 2 ^ 24 / 2 ^ k
    let h := 2 ^ (k - 1)
    ⟨q, t, t * 2 ^ k == r * 2 ^ 24 && !st, if r < h then 0 else if r = h ∧ !st then 1 else 2, r == 0 && !st⟩

/-- Whether the magnitude rounds up to the next unit (R78). -/
def roundsUp (mode : Rnd) (neg : Bool) (draw : Nat) (s : Split) : Bool :=
  if s.exact then false else
  match mode with
  | .dyn | .rn => s.half == 2 || (s.half == 1 && s.q % 2 == 1)
  | .rz => false
  | .ru => !neg
  | .rd => neg
  | .rs =>
    if neg then !decide (draw < 2 ^ 24 - (if s.exact24 then s.t24 else s.t24 + 1))
    else decide (draw < s.t24)

/-- What R79 delivers past the overflow threshold or for an infinity. -/
def NF.overflow (f : NF) (mode : Rnd) (neg : Bool) : Nat :=
  let toInf := f.ieee && (match mode with
    | .dyn | .rn => true
    | .rz | .rs => false
    | .ru => !neg
    | .rd => neg)
  f.signBit neg + (if toInf then f.infCode else f.maxCode)

/-- Rounding to a floating-point format (R78, R79, R81, R83). -/
def NF.round (f : NF) (mode : Rnd) (ftz : Bool) (draw : Nat) : X → Nat × Fl
  | .nan => (f.nanCode, 0)
  | .inf n => if f.ieee then (f.signBit n + f.infCode, 0) else (f.signBit n + f.maxCode, flNX)
  | .fin n m e st =>
    if m = 0 ∧ !st then (f.signBit n, 0) else
    let u := max f.eMin (e + m.log2 - f.fw)
    let s := splitAt m e st u
    let q := if roundsUp mode n draw s then s.q + 1 else s.q
    let maxQ : Nat := if f = .e4m3 then 14 else 2 ^ (f.fw + 1) - 1
    let maxU : Int := f.eMin + (f.emax : Int) - (if f.ieee then 2 else 1)
    if maxU < u ∨ (u = maxU ∧ maxQ < q) then (f.overflow mode n, flOF ||| flNX)
    else
      let tiny := u = f.eMin ∧ q < 2 ^ f.fw
      if tiny ∧ ftz then (f.signBit n, flUF ||| flNX)
      else (f.signBit n + f.encodeMag q u,
        if s.exact then 0 else if tiny then flUF ||| flNX else flNX)

/-- Rounding to an integer range (R79, R81): a value beyond the bounds gives the bound and invalid alone. With the lower
bound 0 of R156 the rounded value is judged below. -/
def roundInt (lo hi : Int) (mode : Rnd) (draw : Nat) : X → Int × Fl
  | .nan => (0, flNV)
  | .inf n => (if n then lo else hi, flNV)
  | .fin n m e st =>
    let s := splitAt m e st 0
    let past (b : Int) : Bool := decide (b < s.q) || (decide (b = s.q) && !s.exact)
    let q := if roundsUp mode n draw s then s.q + 1 else s.q
    let v : Int := if n then -(q : Int) else q
    if !n && past hi then (hi, flNV)
    else if n && decide (lo < 0) && past (-lo) then (lo, flNV)
    else if v < lo then (lo, flNV)
    else (v, if s.exact then 0 else flNX)

/-- The magnitudes of Q4G in units of 2^-10 (R66). -/
def q4gLevels : List Nat := [43, 130, 221, 318, 427, 555, 725, 1024]

/-- The values of the 16 codes in ascending order, in units of 2^-10, with their codes. -/
def q4gOrder : List (Int × Nat) :=
  [(-1024, 15), (-725, 14), (-555, 13), (-427, 12), (-318, 11), (-221, 10), (-130, 9), (-43, 8), (43, 0), (130, 1),
    (221, 2), (318, 3), (427, 4), (555, 5), (725, 6), (1024, 7)]

/-- The bracketing levels of an exact value strictly inside the range: lower and upper neighbours. -/
def q4gBracket (v : Dy) : List (Int × Nat) → Option ((Int × Nat) × (Int × Nat))
  | a :: b :: t => if v.lt ⟨b.1, -10⟩ then some (a, b) else q4gBracket v (b :: t)
  | _ => none

/-- Rounding to Q4G (R78, R79). A value with a sticky part stands strictly above its mantissa, which no level is close
enough to for the difference to matter except in the test of exactness. -/
def roundQ4g (mode : Rnd) (draw : Nat) : X → Nat × Fl
  | .nan => (0, 0)
  | .inf n => (if n then 15 else 7, flNX)
  | .fin n m e st =>
    if m = 0 ∧ !st then (if n then 8 else 0, flNX) else
    let mag : Dy := if st then ⟨2 * m + 1, e - 1⟩ else ⟨m, e⟩
    let v := if n then mag.neg else mag
    match q4gOrder.find? fun l => !v.lt ⟨l.1, -10⟩ && !(Dy.lt ⟨l.1, -10⟩ v) with
    | some l => (l.2, if st then flNX else 0)
    | none =>
      if v.lt ⟨-1024, -10⟩ then (15, flNX)
      else if Dy.lt ⟨1024, -10⟩ v then (7, flNX)
      else match q4gBracket v q4gOrder with
        | none => (7, flNX)
        | some (a, b) =>
          let dl := v.sub ⟨a.1, -10⟩
          let dh := (Dy.mk b.1 (-10)).sub v
          if mode = .rs then
            -- floor (2^24 (x - lo) / (hi - lo))
            let t := ((dl.mul ⟨2 ^ 24, 0⟩).mul ⟨1, 10⟩)
            let num := if 0 ≤ t.e then t.m * 2 ^ t.e.toNat else t.m
            let den := (b.1 - a.1) * (if 0 ≤ t.e then 1 else 2 ^ (-t.e).toNat)
            ((if (draw : Int) < num / den then b.2 else a.2), flNX)
          else if dl.lt dh then (a.2, flNX)
          else if dh.lt dl then (b.2, flNX)
          else ((if a.1.natAbs ≤ b.1.natAbs then a.2 else b.2), flNX)

end Sys2Proof.Machine

namespace Sys2Proof
open Machine

/-- The floating-point format behind an element format. -/
def Fmt.nf : Fmt → Option NF
  | .f32 => some .f32 | .f16 => some .f16 | .bf16 => some .bf16 | .e4m3 => some .e4m3 | .e5m2 => some .e5m2
  | .kf4 => some .kf4 | _ => none

/-- Formats with no NaN of their own (R80). -/
def Fmt.noNan : Fmt → Bool | .i8 | .i4 | .kf4 | .q4g => true | _ => false

/-- Two's-complement value of the low `n` bits. -/
def signedOf (c n : Nat) : Int := (BitVec.ofNat n c).toInt

/-- The value of an element code (R63 to R66). -/
def Fmt.decode (f : Fmt) (c : Nat) : X :=
  match f with
  | .i8 => X.ofInt (signedOf c 8)
  | .i4 => X.ofInt (signedOf c 4)
  | .q4g => .fin (c.testBit 3) (q4gLevels[c % 8]?.getD 0) (-10) false
  | f => match f.nf with | some n => n.decode c | none => .nan

/-- Rounding into an element format (R78 to R81, R83): code and conditions. -/
def Fmt.round (f : Fmt) (mode : Rnd) (ftz : Bool) (draw : Nat) (x : X) : Nat × Fl :=
  match f with
  | .i8 => let r := roundInt (-128) 127 mode draw x; ((BitVec.ofInt 8 r.1).toNat, r.2)
  | .i4 => let r := roundInt (-8) 7 mode draw x; ((BitVec.ofInt 4 r.1).toNat, r.2)
  | .q4g => roundQ4g mode draw x
  | f => match f.nf with
    | some n => n.round mode (ftz && n.width == 8) draw x
    | none => (0, 0)

end Sys2Proof

namespace Sys2Proof.Machine

/-! Scales (R67). -/

/-- The value of a KS16 scale; `none` is NaN. -/
def scaleDy (s : BitVec 16) : Option Dy :=
  let e := bitsOf s 15 8
  let f := bitsOf s 7 0
  if e = 255 then none
  else if e = 0 then some ⟨f, -134⟩
  else some ⟨256 + f, (e : Int) - 135⟩

/-- The value of an element under a scale (R70). -/
def scaled (x : X) (s : BitVec 16) : X :=
  match scaleDy s, x with
  | none, _ => .nan
  | some d, .fin n m e _ => if d.m = 0 then X.zero n else .fin n (m * d.m.natAbs) (e + d.e) false
  | some d, .inf n => if d.m = 0 then .nan else .inf n
  | some _, .nan => .nan

/-! Random draws (R82). -/

def drawStep (s : Word) : Word :=
  let s := s ^^^ (s >>> 12)
  let s := s ^^^ (s <<< 25)
  s ^^^ (s >>> 27)

/-- One draw: the 24-bit number and the new state. -/
def nextDraw (s : Word) : Nat × Word :=
  let s := drawStep s
  (bitsOf (s * 0x2545F4914F6CDD1D) 63 40, s)

/-- What the rounding of one value leaves: the code, the conditions, the random state. -/
structure Rd where
  code : Nat
  fl : Fl
  seed : Word

/-- A rounding by a helper that may draw: a finite value draws once under RS (R78, R82). -/
def withDraw (mode : Rnd) (seed : Word) (x : X) (f : Nat → Nat × Fl) : Rd :=
  if mode = .rs ∧ x.isFin then
    let d := nextDraw seed
    let r := f d.1
    ⟨r.1, r.2, d.2⟩
  else
    let r := f 0
    ⟨r.1, r.2, seed⟩

/-- `rnd(x, fmt)` of R147. -/
def rnd (f : Fmt) (mode : Rnd) (ftz : Bool) (seed : Word) (x : X) : Rd :=
  withDraw mode seed x fun d => f.round mode ftz d x

def rndF32 (mode : Rnd) (seed : Word) (x : X) : Rd := rnd .f32 mode false seed x

/-- round_rn to FP32, no flag kept. -/
def rnF32 (x : X) : Nat := (NF.f32.round .rn false 0 x).1

/-- round_rn to FP36. -/
def rnFp36 (x : X) : Nat × Fl := NF.fp36.round .rn false 0 x

def f32 (c : Nat) : X := NF.f32.decode (c % 2 ^ 32)

/-- The dynamic mode of %fcsr (R146). -/
def dynMode (fcsr : Word) : Rnd :=
  match bitsOf fcsr 10 8 with | 0 => .rn | 1 => .rz | 2 => .ru | 3 => .rd | _ => .rs

def resolveRnd (r : Rnd) (fcsr : Word) : Rnd := match r with | .dyn => dynMode fcsr | m => m

end Sys2Proof.Machine
end

