-- ==== Sys2Proof/Machine/Operands.lean ====
section
/-! DEFINITION. Operand forms (R34, R42 to R46): what an instruction of a clause in flight reads in a lane, and the
runners that carry an instruction over the lanes of the head flight. Register results wait in the lane until the
clause commits. -/
namespace Sys2Proof.Machine

/-- What a meaning answers. -/
abbrev Out := Host.Outcome State Fault Refusal

/-- What an instruction sees in one lane. -/
structure Env where
  s : State
  f : Flight
  l : LaneRun

def Env.p (e : Env) : PId := e.f.p
def Env.t (e : Env) : Thread := e.l.t0
def Env.tid (e : Env) : TId := ⟨e.f.p, e.l.lane, e.f.row⟩

/-- Coordinates of a thread's band: zero in no band (R102). -/
def State.bandCoord (s : State) (p : PId) (t : Thread) : BitVec 48 :=
  match t.band with
  | none => 0
  | some b => (((s.proc p).band b).map (·.coord)).getD 0

/-- The special registers an operand can read (R43); reserved numbers are refused at decode. -/
def State.special (s : State) (tid : TId) (t : Thread) (n : Nat) : Word :=
  let bc (k : Nat) : Word := match t.handler with
    | some h => BitVec.ofNat 64 ((h.bc[k]?).getD 0)
    | none => 0
  match n with
  | 0 => BitVec.ofNat 64 tid.lane
  | 1 => BitVec.ofNat 64 tid.slot
  | 2 => BitVec.ofNat 64 tid.p.core
  | 3 => BitVec.ofNat 64 (siteX tid.p.site)
  | 4 => BitVec.ofNat 64 (siteY tid.p.site)
  | 5 => s.wafer.setWidth 64
  | 6 => BitVec.ofNat 64 t.ctx
  | 7 => t.bandWord
  | 8 => ((s.bandCoord tid.p t).extractLsb' 0 16).setWidth 64
  | 9 => ((s.bandCoord tid.p t).extractLsb' 16 16).setWidth 64
  | 10 => ((s.bandCoord tid.p t).extractLsb' 32 16).setWidth 64
  | 11 => bc 0
  | 12 => bc 1
  | 13 => bc 2
  | 14 => bc 3
  | 15 => bc 4
  | 16 => bc 5
  | 17 => (t.handler.map fun h => BitVec.ofNat 64 h.seq).getD 0
  | 18 => (t.handler.map (·.bid)).getD 0
  | 19 => t.mcov
  | 20 => t.mrho
  | 21 => t.fcsr
  | 22 => t.tp
  | 23 => t.tc
  | 24 => t.ti
  | 25 => BitVec.ofNat 64 (s.cycles tid.p)
  | _ => 0

/-- The latch `bk` (R44). -/
def LaneRun.latch (l : LaneRun) (k : BitVec 2) : Option LVal := (l.lat[k.toNat]?).getD none

/-- The state with the clock as it stood at the clause's start (R34). -/
def Env.atStart (e : Env) : State := { e.s with tick := e.f.start }

/-- A source in file g: numbers 32 and up name special registers, %clk as it stood at the clause's start (R34). -/
def Env.g (e : Env) : Src → Word
  | .reg n => if n.toNat < 32 then e.t.g n.toNat else e.atStart.special e.tid e.t (n.toNat - 32)
  | .latch k => match e.l.latch k with | some (.g v) => v | _ => 0

/-- A source in file p. -/
def Env.pr (e : Env) : Src → Bool
  | .reg n => e.t.p n.toNat
  | .latch k => match e.l.latch k with | some (.p v) => v | _ => false

/-- A source in file w. -/
def Env.w (e : Env) : Src → Gran
  | .reg n => e.t.w n.toNat
  | .latch k => match e.l.latch k with | some (.w v) => v | _ => ⟨0, 0⟩

/-- A source in file m. -/
def Env.m (e : Env) : Src → Word
  | .reg n => e.t.m n.toNat
  | .latch k => match e.l.latch k with | some (.m v) => v | _ => 0

/-- The rounding mode of an RND field: dynamic is %fcsr.RM at clause start (R147). -/
def Env.rm (e : Env) (r : Rnd) : Rnd := resolveRnd r e.t.fcsr

/-- The guard of R46, read at clause start. -/
def LaneRun.guard (l : LaneRun) (pn : Bool) (pr : BitVec 3) : Bool := l.t0.p pr.toNat != pn

/-- A lane still computing: no fault met, its context alive, not yet committed, not waiting to commit. -/
def LaneRun.active (l : LaneRun) : Bool := l.fault.isNone && !l.frozen && !l.done && !l.stall

/-- The stores of a lane's clause so far, oldest first (R36). -/
def LaneRun.queued (l : LaneRun) : List Store :=
  l.acts.flatMap fun a => match a with | .store x _ => x | _ => []

/-- What a lane asks for at commit: a TRQ only while its register is still to be written by it (R34, R126). -/
def LaneRun.asked (l : LaneRun) : List Act :=
  l.acts.filter fun a => match a with
    | .trq _ dst k => !((l.writes.take (l.writes.length - k)).any fun w => match w with | .g n _ => n == dst | _ => false)
    | _ => true

/-- Shift the latches and place a result in b0 (R44). -/
def LaneRun.shift (l : LaneRun) (v : Option LVal) : LaneRun := { l with lat := (v :: l.lat).take 4 }

/-- The first fault of a lane (R35). -/
def LaneRun.trap (l : LaneRun) (idx cause : Nat) (info : Word) : LaneRun :=
  if l.fault.isSome then l else { l with fault := some ⟨idx, cause, info, false⟩ }

/-- What one instruction does in a lane besides its latch: register writes, newest first, conditions raised (R148), the
random state (R82); or the fault it meets. -/
inductive Res (α : Type) where
  | ok (v : α) (fl : Fl) (seed : Word)
  | trap (cause : Nat) (info : Word)

/-- Advance the head flight to its next word. -/
def State.nextWord (s : State) : State :=
  match s.flights with
  | [] => s
  | f :: rest => { s with flights := { f with idx := f.idx + 1 } :: rest }

/-- Carry a function over the lanes of the head flight. -/
def State.mapLanes (s : State) (g : Flight → LaneRun → LaneRun) : State :=
  match s.flights with
  | [] => s
  | f :: rest => { s with flights := { f with idx := f.idx + 1, lanes := f.lanes.map (g f) } :: rest }

/-- Change the lanes of the head flight, its word still to run. -/
def State.mapHead (s : State) (g : LaneRun → LaneRun) : State :=
  match s.flights with
  | [] => s
  | f :: rest => { s with flights := { f with lanes := f.lanes.map g } :: rest }

/-- Replace one lane of the head flight; a lane that has left it stays away. -/
def State.setLane (s : State) (l : LaneRun) : State :=
  match s.flights with
  | [] => s
  | f :: rest =>
    { s with flights := { f with lanes := f.lanes.map fun x => if x.lane = l.lane then l else x } :: rest }

/-- Carry a function that may change the rest of the state over the lanes of the head flight, in a given order. -/
def State.foldLanes (s : State) (order : List LaneRun → List LaneRun)
    (g : State → Flight → LaneRun → State × LaneRun) : State :=
  match s.flights with
  | [] => s
  | f :: _ =>
    ((order f.lanes).foldl (fun s l =>
      match s.flights with
      | h :: _ => if h.lanes.any (·.lane == l.lane) then let r := g s f l; r.1.setLane r.2 else s
      | [] => s) s).nextWord

/-- The effect of one instruction in a lane: nothing in a lane that no longer computes; the latch shift with the
clause-start register in a lane whose guard is false (R44, R46). -/
def laneStep {α : Type} (pn : Bool) (pr : BitVec 3) (old : LaneRun → Option LVal) (val : α → LVal) (wr : α → List RegW)
    (f : Env → Res α) (s : State) (fl : Flight) (l : LaneRun) : LaneRun :=
  if !l.active then l
  else if !l.guard pn pr then l.shift (old l)
  else match f ⟨s, fl, l⟩ with
    | .trap c i => l.trap fl.idx c i
    | .ok v flags seed =>
      { (l.shift (some (val v))) with writes := wr v ++ l.writes, flags := l.flags ||| flags, seed := seed }

/-- A result in file g (R45: with NW the latch alone). -/
def State.runG (s : State) (b : BForm) (f : Env → Res Word) : State :=
  s.mapLanes (laneStep b.pn b.pr (fun l => some (.g (l.t0.g b.dst.toNat))) .g
    (fun v => if b.nw then [] else [.g b.dst.toNat v]) f s)

/-- A result in file p. -/
def State.runP (s : State) (b : BForm) (f : Env → Res Bool) : State :=
  s.mapLanes (laneStep b.pn b.pr (fun l => some (.p (l.t0.p b.dst.toNat))) .p
    (fun v => if b.nw then [] else [.p b.dst.toNat v]) f s)

/-- A result in file w. -/
def State.runW (s : State) (b : BForm) (f : Env → Res Gran) : State :=
  s.mapLanes (laneStep b.pn b.pr (fun l => some (.w (l.t0.w b.dst.toNat))) .w
    (fun v => if b.nw then [] else [.w b.dst.toNat v]) f s)

/-- A result in file m. -/
def State.runM (s : State) (b : BForm) (f : Env → Res Word) : State :=
  s.mapLanes (laneStep b.pn b.pr (fun l => some (.m (l.t0.m b.dst.toNat))) .m
    (fun v => if b.nw then [] else [.m b.dst.toNat v]) f s)

/-- A pure result: no condition, no draw, no fault. -/
def Env.pure {α : Type} (e : Env) (v : α) : Res α := .ok v 0 e.l.seed

/-- An integer result in file g. -/
def State.pureG (s : State) (b : BForm) (f : Env → Word) : State := s.runG b fun e => e.pure (f e)
def State.pureP (s : State) (b : BForm) (f : Env → Bool) : State := s.runP b fun e => e.pure (f e)

/-- The long-immediate format (R47) as a basic one with no further operand. -/
def immB (l : LForm) : BForm := ⟨l.pn, l.pr, l.dst, l.nw, l.a, .reg 0, .reg 0⟩

/-- The sign-extended immediate. -/
def simm (l : LForm) : Word := l.imm.signExtend 64

end Sys2Proof.Machine
end

