-- ==== Sys2Proof/Machine/Flags.lean ====
section
/-! DEFINITION. Flag computations: the sticky conditions of %fcsr (R81, R146, R148), integer comparison (R132, R142) and
float comparison and class (R153, R154). -/
namespace Sys2Proof.Machine

/-- OR conditions into %fcsr (R148). -/
def raiseFlags (fcsr : Word) (fl : Fl) : Word := fcsr ||| ((fl &&& 31).setWidth 64)

/-- A write of %fcsr (R146): reserved bits ignored, RM kept when the value names no mode. -/
def writeFcsr (old v : Word) : Word :=
  let rm := if bitsOf v 10 8 ≤ 4 then bitsOf v 10 8 else bitsOf old 10 8
  BitVec.ofNat 64 (rm * 256 + bitsOf v 4 0)

/-- The relation of an integer condition code 0 to 5 (R131, R132). -/
def intRel (code : Nat) (a b : Int) : Bool :=
  match code with
  | 0 => a == b
  | 1 => a != b
  | 2 => decide (a < b)
  | 3 => decide (a ≤ b)
  | 4 => decide (b < a)
  | 5 => decide (b ≤ a)
  | _ => false

/-- The relation of a long-immediate condition code 0 to 9 (R132): 6 to 9 are unsigned. -/
def longRel (code : Nat) (a b : Word) : Bool :=
  if code < 6 then intRel code a.toInt b.toInt else intRel (code - 4) (a.toNat : Int) b.toNat

/-- The relation of a float condition code 0 to 7 (R153). -/
def floatRel (code : Nat) (a b : X) : Bool :=
  let un := a.isNan || b.isNan
  match code with
  | 0 => a.eq b
  | 1 => un || !a.eq b
  | 2 => a.lt b
  | 3 => !un && !b.lt a
  | 4 => b.lt a
  | 5 => !un && !a.lt b
  | 6 => un
  | _ => !un

/-- The class bit of an FP32 code (R154). -/
def floatClass (c : Nat) : Nat :=
  let neg := c.testBit 31
  let ex := c / 2 ^ 23 % 256
  let fr := c % 2 ^ 23
  if ex = 255 then (if fr = 0 then (if neg then 0 else 7) else 8)
  else if ex = 0 then (if fr = 0 then (if neg then 3 else 4) else (if neg then 2 else 5))
  else if neg then 1 else 6

/-- The smaller or larger of two FP32 codes, one operand exactly (R152): −0 below +0, the other for a NaN. -/
def minMax (max : Bool) (a b : Nat) : Nat :=
  let x := f32 a
  let y := f32 b
  match x.isNan, y.isNan with
  | true, true => NF.f32.nanCode
  | true, false => b
  | false, true => a
  | false, false =>
    let below := x.lt y || (x.eq y && x.neg?)
    if below != max then a else b

end Sys2Proof.Machine
end

