-- ==== Sys2Proof/Machine/Trans.lean ====
section
/-! DEFINITION. Exact values of roots and transcendental functions, as far as rounding needs them (R155, R161, R170,
R179, R180). Roots are exact: floor and sticky mark of `(p + q √c) / d` over dyadics. The others are computed in fixed
point, with a precision that is raised until the enclosing interval fixes the bits; a value no precision of the list
settles falls back on `Config.trans` (log 12). -/
namespace Sys2Proof.Machine

/-! Quadratic irrationals. -/

/-- `(p + q √c) / d`, for `c` not negative and `d` positive, with an exact floor of its magnitude. -/
def algX (p q c d : Dy) : X :=
  let e := min (min p.e (q.e + c.e / 2 - 1)) (min d.e 0) - 450
  -- everything in units of 2^e
  let pi := p.at e
  let r := ((q.m * q.m * c.m) * 2 ^ (2 * q.e + c.e - 2 * e).toNat).natAbs
  let root := isqrt r
  let exact := root * root == r
  -- floor of p + sign(q) * √r
  let fl : Int := if q.m < 0 then pi - root - (if exact then 0 else 1) else pi + root
  let neg := decide (fl < 0)
  -- floor of the magnitude
  let mag : Int := if neg then (if exact then -fl else -fl - 1) else fl
  let di := (d.at (d.e)).natAbs
  let k := workBits
  let n := mag.natAbs * 2 ^ k
  -- the magnitude times 2^k may have lost a part below one: it stays sticky
  .fin neg (n / di) (e - d.e - k) (!exact || n % di != 0)

/-- `√c` for a dyadic. -/
def sqrtX (c : Dy) : X := if c.m = 0 then X.zero false else algX Dy.zero ⟨1, 0⟩ c ⟨1, 0⟩

/-! Fixed point: an integer `a` at scale `w` stands for `a / 2^w`. -/

def fmul (w : Nat) (a b : Int) : Int := (a * b).fdiv (2 ^ w)
def fdivW (w : Nat) (a b : Int) : Int := if b = 0 then 0 else (a * 2 ^ w).fdiv b

/-- A dyadic at scale `w`. -/
def fixDy (w : Nat) (d : Dy) : Int := (Dy.mk d.m (d.e + w)).floor

/-- `√d` at scale `w` for a dyadic that is not negative. -/
def fixSqrt (w : Nat) (d : Dy) : Int := isqrt (Dy.mk d.m (d.e + 2 * w)).floor.natAbs

/-- Square root of a fixed-point number. -/
def fsqrtW (w : Nat) (a : Int) : Int := isqrt (a.natAbs * 2 ^ w)

/-- `atan(1/n)` or `atanh(1/n)`: the sum of `± x / (2k+1)` with `x` divided by `n²` each time. -/
def atanLoop (alt : Bool) (n2 : Int) : Nat → Nat → Int → Int → Int
  | 0, _, _, acc => acc
  | f + 1, k, x, acc =>
    if x = 0 then acc else
    let t := x / (2 * k + 1)
    atanLoop alt n2 f (k + 1) (x / n2) (if alt && k % 2 == 1 then acc - t else acc + t)

def fixLn2 (w : Nat) : Int := 2 * atanLoop false 9 (w + 8) 0 (2 ^ w / 3) 0
def fixPi (w : Nat) : Int :=
  16 * atanLoop true 25 (w + 8) 0 (2 ^ w / 5) 0 - 4 * atanLoop true (239 * 239) (w + 8) 0 (2 ^ w / 239) 0

/-- Taylor terms of `e^r` from term `k` on. -/
def expLoop (w : Nat) (r : Int) : Nat → Nat → Int → Int → Int
  | 0, _, _, acc => acc
  | f + 1, k, t, acc => if t = 0 then acc else expLoop w r f (k + 1) (fmul w t r / k) (acc + t)

def squareN (w : Nat) : Nat → Int → Int
  | 0, a => a
  | n + 1, a => squareN w n (fmul w a a)

/-- `e^x` as a mantissa at scale `w` and a power of two. -/
def fixExpE (w : Nat) (x : Int) : Int × Int :=
  let ln2 := fixLn2 w
  let n := x.fdiv ln2
  let r := (x - n * ln2) / 2 ^ 16
  (squareN w 16 (expLoop w r (w + 8) 1 (2 ^ w) 0), n)

def shiftI (a n : Int) : Int :=
  if 0 ≤ n then a * 2 ^ n.toNat
  else if a.natAbs.log2 + 1 < (-n).toNat then (if a < 0 then -1 else 0)
  else a.fdiv (2 ^ (-n).toNat)

/-- `e^x` at scale `w`. -/
def fixExp (w : Nat) (x : Int) : Int := let r := fixExpE w x; shiftI r.1 r.2

/-- `ln m` for `m` from 1 to 2. -/
def lnLoop (w : Nat) (z2 : Int) : Nat → Nat → Int → Int → Int
  | 0, _, _, acc => acc
  | f + 1, k, x, acc => if x = 0 then acc else lnLoop w z2 f (k + 1) (fmul w x z2) (acc + x / (2 * k + 1))

def fixLn (w : Nat) (m : Int) : Int :=
  let z := fdivW w (m - 2 ^ w) (m + 2 ^ w)
  2 * lnLoop w (fmul w z z) (w + 8) 0 z 0

/-- Terms of `Σ x^(2n+1) / (2n+1)!!`. -/
def phiLoop (w : Nat) (x2 : Int) : Nat → Nat → Int → Int → Int
  | 0, _, _, acc => acc
  | f + 1, k, t, acc => if t = 0 then acc else phiLoop w x2 f (k + 1) (fmul w t x2 / (2 * k + 3)) (acc + t)

/-- The standard normal density as mantissa and exponent. -/
def fixPdfE (w : Nat) (x : Int) : Int × Int :=
  let e := fixExpE w (-(fmul w x x) / 2)
  (fdivW w e.1 (fsqrtW w (2 * fixPi w)), e.2)

def fixPdf (w : Nat) (x : Int) : Int := let r := fixPdfE w x; shiftI r.1 r.2

/-- The standard normal distribution function at scale `w`. -/
def fixPhi (w : Nat) (x : Int) : Int :=
  let a : Int := x.natAbs
  let d := fixPdfE w a
  let s := phiLoop w (fmul w a a) (8 * w + 64) 0 a 0
  let h := (s * d.1).fdiv (2 ^ (w - d.2).toNat)
  if x < 0 then 2 ^ (w - 1) - h else 2 ^ (w - 1) + h

/-- Newton steps of the inverse distribution function, from the left. -/
def probitLoop (w : Nat) (p : Int) : Nat → Int → Int
  | 0, z => z
  | f + 1, z =>
    let d := fdivW w (p - fixPhi w z) (fixPdf w z)
    if d.natAbs ≤ 1 then z else probitLoop w p f (z + d)

/-- `Φ⁻¹(p)` for `p` above one half. -/
def fixProbit (w : Nat) (p : Int) : Int := probitLoop w p 80 0

/-- The logistic function. -/
def fixSig (w : Nat) (x : Int) : Int := fdivW w (2 ^ w) (2 ^ w + fixExp w (-x))

/-! From approximations to values. -/

/-- Working bits beyond the precision asked for: room for operands up to 2^256 and for the loops' truncations. -/
def guardBits : Nat := 400

/-- Raise the precision until an interval of one unit either side fixes the floor of the magnitude. -/
def ziv (neg : Bool) (approx : Nat → Int) : List Nat → X
  | [] => X.zero neg
  | k :: rest =>
    let a0 := (approx (k + guardBits)).fdiv (2 ^ guardBits)
    let a := if neg then -a0 else a0
    if a ≤ 2 then .fin neg 0 (8 - (k : Int)) true
    else if (a - 2) / 256 = (a + 2) / 256 then .fin neg (a / 256).natAbs (8 - (k : Int)) true
    else match rest with
      | [] => .fin neg ((a - 2) / 256 + (if Config.trans a0 then 1 else 0)).natAbs (8 - (k : Int)) true
      | _ => ziv neg approx rest

def zivBits : List Nat := [640, 1280, 2816]

/-- Far beyond every target, and a nonzero magnitude below every lattice. -/
def hugeX (neg : Bool) : X := .fin neg 1 2000 true
def tinyX (neg : Bool) : X := .fin neg 0 (-400) true
/-- Just below and just above the magnitude of an exact nonzero value. -/
def belowX (neg : Bool) (d : Dy) : X := .fin neg (d.m.natAbs * 2 ^ workBits - 1) (d.e - workBits) true
def aboveX (neg : Bool) (d : Dy) : X := .fin neg (d.m.natAbs * 2 ^ workBits) (d.e - workBits) true

def dyInt (i : Int) : Dy := ⟨i, 0⟩
def Dy.abs (d : Dy) : Dy := ⟨d.m.natAbs, d.e⟩

/-- `2^x`. -/
def exp2X (x : Dy) : X :=
  if Dy.lt (dyInt 1000) x then hugeX false
  else if x.lt (dyInt (-1000)) then tinyX false
  else
    let i := x.floor
    let f := x.sub (dyInt i)
    if f.isZero then .fin false 1 i false
    else X.scale i (ziv false (fun w => fixExp w (fmul w (fixDy w f) (fixLn2 w))) zivBits)

/-- `log2 x` of a positive dyadic. -/
def log2X (x : Dy) : X :=
  let m := x.m.natAbs
  let l := m.log2
  let i : Int := x.e + l
  if 2 ^ l = m then X.ofInt i
  else ziv (i < 0) (fun w => i * 2 ^ w + fdivW w (fixLn w (fixDy w ⟨m, -l⟩)) (fixLn2 w)) zivBits

/-- `e^x`. -/
def expX (x : Dy) : X :=
  if x.isZero then X.one
  else if Dy.lt (dyInt 700) x then hugeX false
  else if x.lt (dyInt (-700)) then tinyX false
  else ziv false (fun w => fixExp w (fixDy w x)) zivBits

/-- `tanh x`. -/
def tanhX (x : Dy) : X :=
  if x.isZero then X.zero false
  else if Dy.lt (dyInt 300) x.abs then belowX (x.m < 0) (dyInt 1)
  else ziv (x.m < 0) (fun w =>
    let t := fixExp w (2 * fixDy w x)
    fdivW w (t - 2 ^ w) (t + 2 ^ w)) zivBits

/-- `x / (1 + e^-x)`. -/
def siluX (x : Dy) : X :=
  if x.isZero then X.zero false
  else if Dy.lt (dyInt 700) x then belowX false x
  else if x.lt (dyInt (-700)) then tinyX true
  else ziv (x.m < 0) (fun w => fmul w (fixDy w x) (fixSig w (fixDy w x))) zivBits

/-- `x Φ(x)`. -/
def geluX (x : Dy) : X :=
  if x.isZero then X.zero false
  else if Dy.lt (dyInt 42) x then belowX false x
  else if x.lt (dyInt (-42)) then tinyX true
  else ziv (x.m < 0) (fun w => fmul w (fixDy w x) (fixPhi w (fixDy w x))) zivBits

/-- The logistic function of a dyadic. -/
def sigX (x : Dy) : X :=
  if x.isZero then .fin false 1 (-1) false
  else if Dy.lt (dyInt 700) x then belowX false (dyInt 1)
  else if x.lt (dyInt (-700)) then tinyX false
  else ziv false (fun w => fixSig w (fixDy w x)) zivBits

/-- MREL (R179): mean and variance of relu of a normal variable, for a positive variance. -/
def mrelX (mu v : Dy) : X × X :=
  -- |α| > 42 exactly when μ² > 1764 v
  if (v.mul (dyInt 1764)).lt (mu.mul mu) then
    if mu.m < 0 then (tinyX false, tinyX false) else (aboveX false mu, belowX false v)
  else
    let parts (w : Nat) : Int × Int :=
      let s := fixSqrt w v
      let a := fdivW w (fixDy w mu) s
      let ph := fixPhi w a
      let d := fixPdf w a
      let m := fmul w (fixDy w mu) ph + fmul w s d
      (m, fmul w (fixDy w ((mu.mul mu).add v)) ph + fmul w (fixDy w mu) (fmul w s d) - fmul w m m)
    (ziv false (fun w => (parts w).1) zivBits, ziv false (fun w => (parts w).2) zivBits)

/-- MSIG (R179), for a positive variance. -/
def msigX (mu v : Dy) : X × X :=
  let kap (w : Nat) : Int := fdivW w (2 ^ w) (fsqrtW w (2 ^ w + fmul w (fixPi w) (fixDy w v) / 8))
  -- κμ beyond 700 in magnitude once μ² > 490000 (1 + v/2)
  let far := ((dyInt 490000).mul ((dyInt 1).add (v.mul ⟨1, -1⟩))).lt (mu.mul mu)
  let mean (w : Nat) : Int := fixSig w (fmul w (kap w) (fixDy w mu))
  let m := if mu.isZero then .fin false 1 (-1) false
    else if far then (if mu.m < 0 then tinyX false else belowX false (dyInt 1)) else ziv false mean zivBits
  let var := if far then tinyX false
    else ziv false (fun w => fmul w (fmul w (mean w) (2 ^ w - mean w)) (2 ^ w - kap w)) zivBits
  (m, var)

/-- MEXP (R179), for a positive variance. -/
def mexpX (mu v : Dy) : X × X :=
  let h := mu.add (v.mul ⟨1, -1⟩)
  let t := (mu.mul (dyInt 2)).add v
  let u := t.add v
  let var := if Dy.lt (dyInt 700) u then hugeX false
    else if u.lt (dyInt (-700)) then tinyX false
    else if u.isZero && Dy.lt (dyInt 1500) v then belowX false (dyInt 1)
    else ziv false (fun w => fixExp w (fixDy w u) - fixExp w (fixDy w t)) zivBits
  (expX h, var)

/-- SAMPLE (R180): `μ + √v · Φ⁻¹((u + 0.5) / 2^24)`. -/
def sampleX (mu v : Dy) (u : Nat) : X :=
  if v.isZero then mu.toX else
  let low := decide (u < 2 ^ 23)
  let p : Dy := ⟨2 * (if low then 2 ^ 24 - 1 - u else u) + 1, -25⟩
  let f (w : Nat) : Int :=
    let z := fixProbit w (fixDy w p)
    fixDy w mu + fmul w (fixSqrt w v) (if low then -z else z)
  ziv (decide (f 600 < 0)) f zivBits

end Sys2Proof.Machine
end

