-- ==== Sys2Proof/Machine/Granule.lean ====
section
/-! DEFINITION. Granules (R69, R70) and the helpers of the wide datapath (R157, R68): element values, the scale check,
the choice of a scale and packing. -/
namespace Sys2Proof.Machine

/-- The code of element `i` (R69). -/
def elemCode (f : Fmt) (pay : BitVec 256) (i : Nat) : Nat := (pay.extractLsb' (f.bits * i) f.bits).toNat

/-- `val(w, fmt, i)`. -/
def elemVal (f : Fmt) (w : Gran) (i : Nat) : X := scaled (f.decode (elemCode f w.pay i)) w.scale

def elemVals (f : Fmt) (w : Gran) : List X := tabulate f.count (elemVal f w)

/-- A payload from element codes. -/
def payOf (f : Fmt) (codes : List Nat) : BitVec 256 :=
  BitVec.ofNat 256 (codes.foldr (fun c a => a * 2 ^ f.bits + c % 2 ^ f.bits) 0)

/-- `check(w, fmt)`: whether the scale is refused. -/
def badScale (f : Fmt) (w : Gran) : Bool := f.isPlain && w.scale != 0x7F00

/-- %ti of the scale-operand fault (R335): the source field and the operand. -/
def scaleInfo (opnd : Nat) (field : Nat) : Word := BitVec.ofNat 64 (opnd * 256 + field % 128)

/-- The first of the operands A, B and C whose scale is refused, given with its values. -/
def firstBad (f : Fmt) : List (Nat × Src × Gran) → Option Word
  | [] => none
  | (o, x, w) :: t => if badScale f w then some (scaleInfo o x.bits.toNat) else firstBad f t

/-- `mx(fmt)` as a dyadic. -/
def mxOf : Fmt → Dy
  | .e4m3 => ⟨448, 0⟩ | .e5m2 => ⟨57344, 0⟩ | .i8 => ⟨127, 0⟩ | .i4 => ⟨7, 0⟩ | .kf4 => ⟨6, 0⟩ | _ => ⟨1, 0⟩

def scaleOf (c : Nat) : Dy := (scaleDy (BitVec.ofNat 16 c)).getD ⟨0, 0⟩

/-- The smallest of the codes `lo` to `lo + 2^n - 1` whose scale times `mx` reaches `q`, by halving. -/
def scaleSearch (mx q : Dy) : Nat → Nat → Nat
  | 0, lo => lo
  | n + 1, lo =>
    let mid := lo + 2 ^ n
    if mid ≤ 0xFEFF + 1 ∧ ((scaleOf (mid - 1)).mul mx).lt q then scaleSearch mx q n mid else scaleSearch mx q n lo

/-- The codes of the powers of two, ascending. -/
def p2Codes : List Nat := (List.range 8).map (2 ^ ·) ++ (List.range 254).map fun e => (e + 1) * 256

/-- `choose(v, fmt)`. -/
def chooseScale (f : Fmt) (p2 : Bool) (v : List X) : BitVec 16 :=
  if f.isPlain then 0x7F00 else
  let q := (v.filter X.isFin).foldl (fun a x => let d := x.abs.dy; if a.lt d then d else a) Dy.zero
  if q.isZero then 0x7F00
  else if p2 then
    match p2Codes.find? fun c => !((scaleOf c).mul (mxOf f)).lt q with
    | some c => BitVec.ofNat 16 c
    | none => 0xFE00
  else BitVec.ofNat 16 (min (scaleSearch (mxOf f) q 16 0) 0xFEFF)

/-- What packing leaves. -/
structure Packed where
  w : Gran
  fl : Fl
  seed : Word

/-- The zero of a format with a sign, under a zero scale. -/
def zeroCode (f : Fmt) (neg : Bool) : Nat :=
  match f with
  | .i8 | .i4 => 0
  | .q4g => if neg then 8 else 0
  | f => if neg then 2 ^ (f.bits - 1) else 0

/-- The canonical NaN of a format that has one. -/
def nanCodeOf (f : Fmt) : Nat := match f.nf with | some n => n.nanCode | none => 0

/-- `v / s` for a scale that is neither NaN nor zero. -/
def unscale (s : BitVec 16) (x : X) : X := if s = 0x7F00 then x else (X.div x ((scaleDy s).getD ⟨1, 0⟩).toX).1

/-- The codes of the elements, rounded in ascending order. -/
def packLoop (f : Fmt) (s : BitVec 16) (mode : Rnd) (ftz : Bool) : List X → Fl → Word → List Nat × Fl × Word
  | [], fl, seed => ([], fl, seed)
  | x :: t, fl, seed =>
    let (c, fl', seed') :=
      if x.isNan then (nanCodeOf f, fl, seed)
      else if s = 0 then (zeroCode f x.neg?, if x.isZero then fl else fl ||| flNX, seed)
      else let r := rnd f mode ftz seed (unscale s x); (r.code, fl ||| r.fl, r.seed)
    let (cs, fl, seed) := packLoop f s mode ftz t fl' seed'
    (c :: cs, fl, seed)

/-- `pack(wD, v, fmt, s)`. -/
def pack (f : Fmt) (s : BitVec 16) (mode : Rnd) (ftz : Bool) (v : List X) (fl : Fl) (seed : Word) : Packed :=
  if (scaleDy s).isNone || (f.noNan && v.any X.isNan) then ⟨⟨0xFF00, 0⟩, fl, seed⟩
  else
    let r := packLoop f s mode ftz v fl seed
    ⟨⟨s, payOf f r.1⟩, r.2.1, r.2.2⟩

/-- The MXFP8 and MXINT8 maps of R68. -/
def mxfpScale (e : Nat) : BitVec 16 :=
  if e = 255 then 0xFF00 else if e = 0 then 128 else BitVec.ofNat 16 (e * 256)
def mxintScale (e : Nat) : BitVec 16 :=
  if e = 255 then 0xFF00 else if e < 7 then BitVec.ofNat 16 (2 ^ (e + 1)) else BitVec.ofNat 16 ((e - 6) * 256)

/-- The smaller or larger of two values by R152. -/
def minMaxX (max : Bool) (a b : X) : X :=
  match a.isNan, b.isNan with
  | true, true => .nan
  | true, false => b
  | false, true => a
  | false, false => if (a.lt b || (a.eq b && a.neg?)) != max then a else b

end Sys2Proof.Machine
end

