-- ==== Sys2Proof/Machine/Access.lean ====
section
/-! DEFINITION. What a store does to the bytes at its home (R75, R217, R223, R308), what a thread's loads see (R202,
R36, R90), and the load-class reads an instruction or a trap makes before commit (R197, R210). -/
namespace Sys2Proof.Machine

/-! Read-modify-writes. -/

/-- FADD of R217: round to nearest, the sign of zero by R78, NaN canonical. -/
def f32Add (a b : Nat) : Nat := rnF32 (X.add false (f32 a) (f32 b)).1

/-- The new value of an ATOM or RED (R213, R217); `w` is the width. -/
def atomNew (aop w old b : Nat) : Nat :=
  let s (x : Nat) : Int := signedOf x w
  match aop with
  | 0 => (old + b) % 2 ^ w
  | 1 => old &&& b
  | 2 => old ||| b
  | 3 => old ^^^ b
  | 4 => if s old ≤ s b then old else b
  | 5 => if s b ≤ s old then old else b
  | 6 => min old (b % 2 ^ w)
  | 7 => max old (b % 2 ^ w)
  | 8 => b % 2 ^ w
  | 9 => f32Add old b
  | 10 => minMax false old b
  | _ => minMax true old b

/-- The new value of one RATOM element (R308): TY 0 I32, 1 F32, 2 I64. -/
def vecNew (aop ty old b : Nat) : Nat :=
  let w := if ty = 2 then 64 else 32
  let s (x : Nat) : Int := signedOf x w
  match aop with
  | 0 => if ty = 1 then f32Add old b else (old + b) % 2 ^ w
  | 1 => if ty = 1 then minMax false old b else if s old ≤ s b then old else b
  | 2 => if ty = 1 then minMax true old b else if s b ≤ s old then old else b
  | 3 => old &&& b
  | 4 => old ||| b
  | 5 => old ^^^ b
  | _ => b

/-- A vector operation on 32 bytes. -/
def vecBytes (aop ty : Nat) (old b : List Byte) : List Byte :=
  let w := if ty = 2 then 8 else 4
  (List.range (32 / w)).flatMap fun i =>
    toBytes w (vecNew aop ty (ofBytes ((old.drop (w * i)).take w)) (ofBytes ((b.drop (w * i)).take w)))

/-! BFA blocks (R74, R75). -/

structure Bfa where
  m : List Int
  exp : Nat
  ovf : Bool
  nan : Bool
  inex : Bool

def Bfa.of (l : List Byte) : Bfa :=
  let v := ofBytes l
  ⟨tabulate 32 fun i => signedOf (v / 2 ^ (24 * i) % 2 ^ 24) 24, v / 2 ^ 768 % 256, v.testBit 776, v.testBit 777,
    v.testBit 778⟩

def Bfa.bytes (b : Bfa) : List Byte :=
  let mant := b.m.foldr (fun x a => a * 2 ^ 24 + (BitVec.ofInt 24 x).toNat) 0
  toBytes 128 (mant + b.exp * 2 ^ 768 + boolN b.ovf * 2 ^ 776 + boolN b.nan * 2 ^ 777 + boolN b.inex * 2 ^ 778)

/-- Nearest integer of a dyadic, ties to even, and whether it is exact. -/
def rneDy (d : Dy) : Int × Bool :=
  if 0 ≤ d.e then (d.m * 2 ^ d.e.toNat, true)
  else
    let k := (-d.e).toNat
    let q := d.m.fdiv (2 ^ k)
    let r := d.m - q * 2 ^ k
    let h : Int := 2 ^ (k - 1)
    (if r < h then q else if h < r then q + 1 else if q % 2 = 0 then q else q + 1, decide (r = 0))

def fits24 (x : Int) : Bool := decide (-2 ^ 23 ≤ x) && decide (x ≤ 2 ^ 23 - 1)

/-- The smallest growth of the exponent under which every new value fits, if there is one. -/
def bfaGrow (vs : List Dy) (e : Nat) : Nat → Nat → Option Nat
  | 0, _ => none
  | f + 1, k =>
    if 255 < e + k then none
    else if vs.all fun v => fits24 (rneDy ⟨v.m, v.e - ((e + k : Nat) : Int) + 150⟩).1 then some k
    else bfaGrow vs e f (k + 1)

/-- `bfa_add` of R75 for pairs of distinct elements and FP32 codes. -/
def Bfa.add (b : Bfa) (pairs : List (Nat × Nat)) : Bfa :=
  if pairs.isEmpty then b else
  let xs := pairs.map fun p => (p.1, f32 p.2)
  let nan := b.nan || xs.any fun p => p.2.isNan
  let fin := xs.filter fun p => p.2.isFin
  let new := fin.map fun p => (p.1, ((Dy.mk ((b.m[p.1]?).getD 0) ((b.exp : Int) - 150)).add p.2.dy))
  let k := (bfaGrow (new.map (·.2)) b.exp 256 0).getD (255 - b.exp)
  let e : Int := (b.exp + k : Nat)
  let cell (i : Nat) : Int × Bool × Bool :=
    match xs.find? (·.1 == i) with
    | some (_, .inf n) => (if n then -2 ^ 23 else 2 ^ 23 - 1, true, true)
    | _ =>
      match new.find? (·.1 == i) with
      | some (_, v) =>
        let r := rneDy ⟨v.m, v.e - e + 150⟩
        (max (-2 ^ 23) (min (2 ^ 23 - 1) r.1), !fits24 r.1, r.2)
      | none =>
        let r := rneDy ⟨(b.m[i]?).getD 0, -(k : Int)⟩
        (r.1, false, r.2)
  let cells := tabulate 32 cell
  -- an element under an infinity is re-shifted first, and that may have been inexact too
  let hid := xs.any fun p => p.2.isInf && !(rneDy ⟨(b.m[p.1]?).getD 0, -(k : Int)⟩).2
  ⟨cells.map (·.1), b.exp + k, b.ovf || cells.any (·.2.1), nan, b.inex || hid || cells.any fun c => !c.2.2⟩

/-- The bytes a store leaves where `old` stood. -/
def StoreKind.apply (k : StoreKind) (data old : List Byte) : List Byte :=
  match k with
  | .red aop w32 =>
    let w := if w32 then 4 else 8
    toBytes w (atomNew aop (8 * w) (ofBytes old) (ofBytes data))
  | .bfa pairs => ((Bfa.of old).add pairs).bytes
  | .vec aop ty => vecBytes aop ty old data
  | _ => data

/-- How many bytes a store covers. -/
def Store.size (x : Store) : Nat := match x.kind with | .bfa _ => 128 | _ => x.data.length

/-- The physical addresses a store writes. -/
def Store.targets (x : Store) : List Nat := match x.kind with | .multi d => d.map (·.1) | _ => [x.pa]

def isControl (pa : Nat) : Bool := regionOf (paSite pa) (paLocal pa) == some .control

/-- The store gives its bytes as they are: no read-modify-write. -/
def StoreKind.writes : StoreKind → Bool
  | .plain | .put _ | .multi _ => true
  | .red _ _ | .bfa _ | .vec _ _ => false

/-- The 128-byte line of an address. -/
def lineOf (pa : Nat) : Nat := pa / 128

/-- Whether a store touches a line. -/
def Store.touches (x : Store) (line : Nat) : Bool :=
  x.targets.any fun a => decide (lineOf a ≤ line) && decide (line ≤ lineOf (a + x.size - 1))

/-- Whether a store touches some of `n` bytes. -/
def Store.meets (x : Store) (pa n : Nat) : Bool :=
  x.targets.any fun a => decide (a < pa + n) && decide (pa < a + x.size)

/-- A copy held at a site that neither its age (R187) nor an acquire at tick `mark` (R205) keeps from serving. -/
def Copy.fresh (c : Copy) (gs mark now : Nat) : Bool :=
  decide (mark < c.filled) && decide (coreSpan gs c.filled now < 65536)

/-- Whether a copy may serve a load (R184, R187, R205): not past its time, nor past the thread's acquires; an `.INV` load of bytes
whose promise was broken takes any copy (R207). -/
def Copy.serves (c : Copy) (gs : Nat) (x : Part) (mark now : Nat) (broken : List Nat) : Bool :=
  c.line == lineOf x.pa && (c.fresh gs mark now || (x.inv && (List.range x.n).all fun k => broken.contains (x.pa + k)))

/-- A copy that may serve a part of a thread's load: in L1, else for a remote line in the site's L2. -/
def State.copyFor (s : State) (t : TId) (x : Part) : Option (Copy × Bool) :=
  if !x.cached then none else
  let th := s.th t
  let broken := (s.site t.p.site).broken
  match (s.proc t.p).l1.find? (·.serves t.p.site x th.acqRet s.tick broken) with
  | some c => some (c, false)
  | none =>
    if paSite x.pa = t.p.site then none
    else ((s.site t.p.site).l2.find? (·.serves t.p.site x th.acqWaf s.tick broken)).map fun c => (c, true)

/-- Lay a pending store over memory. -/
def overlay (m : List Host.Cell) (x : Store) : List Host.Cell :=
  if x.rejected then m else
  x.targets.foldl (fun m a =>
    if isControl a then m else Memory.write m a (x.kind.apply x.data (Memory.read m a x.size))) m

/-- Stores still queued that a load of thread `t` sees: those numbered below `before` of its own slot (R36, R90), and those
of its spawners up to the spawn (R120). -/
def State.queuedFor (s : State) (t : TId) (before : Nat) : List Store :=
  let r := s.proc t.p
  let kin := (s.th t).kin.flatMap fun k => (r.queues.get [] k.1.slot).filter fun x => x.t == k.1 && decide (x.id < k.2)
  let own := (r.queues.get [] t.slot).filter fun x => x.t == t && decide (x.id < before)
  if kin.isEmpty then own else sortBy (fun a b => decide (a.id ≤ b.id)) (kin ++ own)

/-- Stores that a load of thread `t` sees before they reach their homes: those of its processor that have left their
queues (R202), in the order in which they left, then those still queued that it sees. -/
def State.pendingFor (s : State) (t : TId) (before : Nat) : List Store :=
  (s.stores.filter fun x => x.t.p == t.p && !x.done) ++ s.queuedFor t before

/-- Bytes at an address with stores laid over memory. -/
def readOver (m : List Host.Cell) (pend : List Store) (pa n : Nat) : List Byte :=
  if pend.isEmpty then Memory.read m pa n else Memory.read (pend.foldl overlay m) pa n

/-- The bytes a load of thread `t` returns when its home serves it; `extra` are the stores of its own clause so far. -/
def State.viewBytes (s : State) (t : TId) (before : Nat) (extra : List Store) (pa n : Nat) : List Byte :=
  if isControl pa then s.ctlBytes (paSite pa) (paLocal pa) n
  else readOver s.mem (s.pendingFor t before ++ extra) pa n

/-- The stores that a read of `n` bytes by the thread of creation number `gen` meets, and that are not yet acknowledged, count it
among their readers: those of its processor that have left their queues, and those of its spawners and of its slot's former
thread that it sees while they are queued (R120, R204, R205). -/
def State.noteRead (s : State) (t : TId) (gen before pa n : Nat) : State :=
  let note (x : Store) : Store := if x.meets pa n ∧ !x.readers.contains gen then { x with readers := gen :: x.readers } else x
  let seen := ((s.queuedFor t before).filter fun x => x.gen != gen && x.meets pa n).map (·.id)
  let s := if seen.isEmpty then s else s.modProc t.p fun r =>
    { r with queues := r.queues.map fun q => (q.1, q.2.map fun x => if seen.contains x.id then note x else x) }
  { s with stores := s.stores.map fun x => if x.t.p = t.p then note x else x }

/-! Reads made before commit. -/

/-- A request of a load-class kind. -/
def Req.isLoad (r : Req) : Bool := match r.kind with | .load _ _ => true | _ => false

/-- A load-class request some part of which its home has not served. -/
def Req.waiting (r : Req) : Bool := r.isLoad && r.resp.isNone && r.parts.any fun x => x.got.isNone

/-- Some load of the thread of creation number `gen` below number `id` has not been performed: its loads are performed in
program order (R202). -/
def State.behindLoads (s : State) (t : TId) (gen id : Nat) : Bool :=
  s.reqs.any fun q => q.t == t && q.gen == gen && decide (q.id < id) && q.waiting

/-- Whether a read of `n` bytes by thread `t`, ordered before store number `before`, must wait: for the thread's earlier
stores to the same site's control space (R25), and for read-modify-writes of the processor on their way to these bytes, whose
results stand only at their homes (R201). -/
def State.readWaits (s : State) (t : TId) (before pa n : Nat) : Bool :=
  let all := s.queuedFor t before ++ s.stores.filter fun y => y.t.p == t.p && !y.done
  if isControl pa then all.any fun y => y.t == t && y.targets.any fun a => isControl a && paSite a == paSite pa
  else all.any fun y => !y.kind.writes && y.meets pa n

/-- What a load-class read before commit gives: bytes and whether they were poisoned; a fault with its address; nothing, the
context being dead (R394); or nothing yet, earlier stores coming first (R25, R201). -/
inductive RV where
  | ok (bytes : List Byte) (poison : Bool)
  | trap (cause : Nat) (va : Word)
  | dead
  | wait
  deriving DecidableEq, Repr

/-- Access `id` has come to its bytes and the target's windows pass it (R26, R197). -/
def State.loadOk (s : State) (p : PId) (ctx id pa n : Nat) (k : AccKind) : Bool :=
  s.wayOf p ctx (.access id pa) pa == .here && s.windowFor p ctx pa n k

/-- What the target of a load-class access answers. -/
inductive Verd where
  | pass
  | wait
  | fail
  deriving DecidableEq, Repr

/-- The verdict on a load-class access of a thread before its commit (R197): its request goes to the target, under the thread's
creation number, and fails where the windows refuse it or the fabric discards it (R290). -/
def State.verdict (s : State) (t : TId) (ctx pa n : Nat) (k : AccKind) : Verd × State :=
  match s.askWay t.p ctx (s.th t).gen (.access (s.th t).gen pa) pa with
  | (.here, s) => (if s.windowFor t.p ctx pa n k then .pass else .fail, s)
  | (.lost, s) => (.fail, s)
  | (.coming, s) | (.unasked, s) => (.wait, s)

/-- The requests that the thread of creation number `gen` sent before its commit are done with. -/
def State.dropAsksOf (s : State) (p : PId) (ctx gen : Nat) : State :=
  s.dropWays p ctx fun k => match k with | .access i _ => i == gen | _ => false

/-- Those of the thread in a slot. -/
def State.dropAsks (s : State) (t : TId) : State := s.dropAsksOf t.p (s.th t).ctx (s.th t).gen

/-- The grant cache of a site holds a passing verdict for an access (R197). -/
def State.granted (s : State) (gs ctx pa n : Nat) (k : AccKind) : Bool :=
  (s.site gs).grants.any fun g => g.waf == siteWaf (paSite pa) && g.site == paSite pa % 64 && g.ctx == ctx && g.kind == k &&
    g.page == paLocal pa / 8192 && g.page == (paLocal pa + n - 1) / 8192

/-- The read of a load-class access that has passed: its bytes and their poison, unless the thread's earlier accesses come first; the
stores it meets count it among their readers. -/
def State.readHere (s : State) (t : TId) (extra : List Store) (pa n : Nat) : RV × State :=
  if s.readWaits t (s.nextId + 1) pa n || s.behindLoads t (s.th t).gen (s.nextId + 1) then (.wait, s)
  else (.ok (s.viewBytes t (s.nextId + 1) extra pa n) (s.poisoned pa n), s.noteRead t (s.th t).gen (s.nextId + 1) pa n)

/-- Read `n` bytes that lie in one page. -/
def State.readPage (s : State) (t : TId) (ctx : Nat) (extra : List Store) (va : Word) (n : Nat) : RV × State :=
  match s.translate t.p ctx va .read with
  | (.trap c, s) => (.trap c va, s)
  | (.dead, s) => (.dead, s)
  | (.wait, s) => (.wait, s)
  | (.ok pa _, s) =>
    if (paRegion pa n).isNone then (.trap 8 va, s) else
    match s.verdict t ctx pa n .read with
    | (.fail, s) => (.trap 11 va, s)
    | (.wait, s) => (.wait, s)
    | (.pass, s) => s.readHere t extra pa n

/-- Read `n` bytes at a virtual address, page by page; the fuel is the number of pages. -/
def State.readPages (s : State) (t : TId) (ctx : Nat) (extra : List Store) : Nat → Word → Nat → RV × State
  | 0, _, _ => (.ok [] false, s)
  | f + 1, va, n =>
    let k := min n (8192 - va.toNat % 8192)
    match s.readPage t ctx extra va k with
    | (.ok b p, s) =>
      if n ≤ k then (.ok b p, s)
      else match s.readPages t ctx extra f (va + BitVec.ofNat 64 k) (n - k) with
        | (.ok b' p', s) => (.ok (b ++ b') (p || p'), s)
        | r => r
    | r => r

def State.readVirt (s : State) (t : TId) (ctx : Nat) (extra : List Store) (va : Word) (n : Nat) : RV × State :=
  s.readPages t ctx extra (n / 8192 + 2) va n

end Sys2Proof.Machine
end

