-- ==== Sys2Proof/Machine/Ops.lean ====
section
/-! DEFINITION. The named operations of threads, bands and traps: parking and waking (R89), rejoin registers (R106, R122),
barrier objects (R108, R109), timelines (R231), the life of a thread (R87 to R90), the end of a band (R104), taking a
trap and returning from one (R337 to R340, R349), and the commit of a lane (R35 to R38). -/
namespace Sys2Proof.Machine

/-! Waking. -/

/-- Release from PARKED (R89, R93): READY with the age of now; under a stop, the state held before it changes. -/
def State.wake (s : State) (t : TId) : State :=
  s.modTh t fun th =>
    match th.st with
    | .parked => { th with st := .ready, wait := .none, age := s.cycles t.p }
    | .stopped => if th.was = .parked then { th with was := .ready, wait := .none, age := s.cycles t.p } else th
    | _ => th

/-- Whether a thread stands PARKED, in place or under a stop. -/
def Thread.isParked (th : Thread) : Bool := th.st == .parked || (th.st == .stopped && th.was == .parked)

/-- Wake every parked thread of a processor whose wait satisfies a test. -/
def State.wakeWhere (s : State) (p : PId) (c : Thread → Bool) : State :=
  ((s.liveThreads p).filter fun e => e.2.isParked && c e.2).foldl (fun s e => s.wake e.1) s

/-- A matrix-stream fault waits to be taken: the thread does not stay parked (R267). -/
def Thread.faultWaits (th : Thread) : Bool := !th.tst.getLsbD 0 && th.pend.any (·.cause == 21)

/-- Park a thread (R39, R89); with a stream fault pending it is READY to take it at once. -/
def State.park (s : State) (t : TId) (w : Wait) : State :=
  s.modTh t fun th => if th.faultWaits then { th with age := s.cycles t.p } else { th with st := .parked, wait := w }

/-- An acquire of a scope (R204, R205): the marks before which copies are stale. A scope that leaves a level out takes the
newest mark of that level on the processor (`ret`) or the site (`waf`): what the releaser had acquired is passed on. -/
def Thread.acquire (th : Thread) (scope tick ret waf : Nat) : Thread :=
  { th with
    acqRet := if 1 ≤ scope then tick else max th.acqRet ret
    acqWaf := if 2 ≤ scope then tick else max th.acqWaf waf }

/-- Note an acquire of a scope as the newest of its processor and of its site (R204). -/
def State.noteAcquire (s : State) (p : PId) (scope : Nat) : State :=
  let s := if 1 ≤ scope then s.modProc p fun r => { r with mkRet := s.tick } else s
  if 2 ≤ scope then s.modSite p.site fun q => { q with mkWaf := s.tick } else s

def State.acquire (s : State) (t : TId) (scope : Nat) : State :=
  (s.modTh t (·.acquire scope s.tick (s.proc t.p).mkRet (s.site t.p.site).mkWaf)).noteAcquire t.p scope

/-- Phase `n` of an object whose completed phases count `gen` is complete (R108). -/
def phaseDone (gen n : BitVec 32) : Bool := decide ((gen - n - 1).toNat < 2 ^ 31)

/-! Rejoin registers (R122). -/

def State.setRj (s : State) (p : PId) (row j : Nat) (enr arr : BitVec 32) : State :=
  s.modProc p fun r => { r with rj := r.rj.put (row, j) (enr, arr) }

/-- `check(jN)`: release every arrived lane once all enrolled lanes have arrived. -/
def State.rjCheck (s : State) (p : PId) (row j : Nat) : State :=
  let v := (s.proc p).rejoin row j
  if v.1 != 0 && v.2 == v.1 then
    let s := (List.range 32).foldl (fun s l => if v.2.getLsbD l then s.wake ⟨p, l, row⟩ else s) s
    s.setRj p row j 0 0
  else s

/-- Strike a lane from one register. -/
def State.rjStrike (s : State) (p : PId) (row j lane : Nat) : State :=
  let v := (s.proc p).rejoin row j
  let m : BitVec 32 := ~~~(1#32 <<< lane)
  (s.setRj p row j (v.1 &&& m) (v.2 &&& m)).rjCheck p row j

/-- Strike a lane from every register of its row (R90). -/
def State.strikeAll (s : State) (t : TId) : State :=
  (List.range 8).foldl (fun s j =>
    if ((s.proc t.p).rejoin t.slot j).1.getLsbD t.lane then s.rjStrike t.p t.slot j t.lane else s) s

/-! Barrier objects (R108, R109). -/

/-- The band a handle names on a processor, if it is not stale (R102). -/
def Proc.handle (r : Proc) (h : Word) : Option BandRef :=
  let b : BandRef := ⟨bitsOf h 5 0, bitsOf h 31 16⟩
  if h = handleOf b then (r.band b).map fun _ => b else none

/-- Replace a live band, in place or scanned out. -/
def Proc.putBand (r : Proc) (b : BandRef) (x : Band) : Proc :=
  match r.bands.find b.num with
  | some y => if y.epoch = b.epoch then { r with bands := r.bands.put b.num x } else
    match r.sband b with
    | some (e, _) => { r with sbands := r.sbands.put (e, b.num) x }
    | none => r
  | none =>
    match r.sband b with
    | some (e, _) => { r with sbands := r.sbands.put (e, b.num) x }
    | none => r

def State.setBar (s : State) (p : PId) (b : BandRef) (i : Nat) (bo : Bar) : State :=
  s.modProc p fun r => match r.band b with
    | some x => r.putBand b { x with bars := x.bars.put i bo }
    | none => r

def State.bar (s : State) (p : PId) (b : BandRef) (i : Nat) : Option Bar := ((s.proc p).band b).map (·.bar i)

/-- Wake the threads parked on an object whose phase is now complete; they acquire at the widest scope of the phase. -/
def State.wakeBar (s : State) (p : PId) (b : BandRef) (i scope : Nat) (gen : BitVec 32) : State :=
  let who := (s.liveThreads p).filter fun e => e.2.isParked && (match e.2.wait with
    | .barrier b' i' n => b' == b && i' == i && phaseDone gen (BitVec.ofNat 32 n)
    | _ => false)
  who.foldl (fun s e => (s.wake e.1).acquire e.1 scope) s

/-- `try_complete(bo)`. -/
def State.tryComplete (s : State) (p : PId) (b : BandRef) (i : Nat) : State :=
  match s.bar p b i with
  | none => s
  | some bo =>
    if bo.exp ≠ 0 ∧ bo.arr = bo.exp ∧ bo.txp = 0 then
      (s.setBar p b i { bo with gen := bo.gen + 1, arr := 0, scope := 0, last := bo.scope }).wakeBar p b i bo.scope (bo.gen + 1)
    else s

/-- Widen the scope of the current phase (R109). -/
def Bar.widen (bo : Bar) (scope : Nat) : Bar := { bo with scope := max bo.scope scope }

/-- The scope at which a thread that finds phase `n` complete acquires: that of the last phase, else the widest. -/
def Bar.scopeOf (bo : Bar) (n : BitVec 32) : Nat := if n + 1 = bo.gen then bo.last else 3

/-- An arrival (R109, R123). -/
def State.barArrive (s : State) (p : PId) (b : BandRef) (i scope : Nat) : State :=
  match s.bar p b i with
  | none => s
  | some bo =>
    let w := bo.widen scope
    (s.setBar p b i { w with arr := (w.arr + 1) % 1024 }).tryComplete p b i

/-- A byte posting of an engine (R108, R242). -/
def State.barPost (s : State) (p : PId) (b : BandRef) (i bytes scope : Nat) : State :=
  match s.bar p b i with
  | none => s
  | some bo =>
    let w := bo.widen scope
    (s.setBar p b i { w with txp := w.txp - BitVec.ofNat 32 bytes }).tryComplete p b i

/-! Timelines (R231). -/

/-- Advance DONE over the numbers completed above it. -/
def advance : Nat → Nat → List Nat → Nat × List Nat
  | 0, d, l => (d, l)
  | f + 1, d, l => if l.contains (d + 1) then advance f (d + 1) (l.erase (d + 1)) else (d, l)

/-- Operation `num` of a timeline has completed with a status. -/
def Timeline.complete (t : Timeline) (num : Nat) (status : Word) : Timeline :=
  let a := advance (t.above.length + 1) t.dn (num :: t.above)
  { t with dn := a.1, above := a.2, ended := ((num, status) :: t.ended).take 64 }

/-- Complete a number and wake the threads of the context that waited for it (R254). -/
def State.timelineDone (s : State) (p : PId) (ctx tl num : Nat) (status : Word) : State :=
  match (s.site p.site).ctxIdx ctx with
  | none => s
  | some x =>
    let t := ((s.proc p).timeline x tl).complete num status
    let s := s.modProc p fun r => { r with tls := r.tls.put (x, tl) t }
    let who := (s.liveThreads p).filter fun e => e.2.isParked && e.2.ctx == ctx && (match e.2.wait with
      | .timeline k n | .ptime k n => k == tl && decide (n ≤ t.dn)
      | _ => false)
    who.foldl (fun s e => (s.wake e.1).acquire e.1 3) s

/-- Take the next number of a timeline (R231). -/
def State.takeNumber (s : State) (p : PId) (ctx tl : Nat) : Nat × State :=
  match (s.site p.site).ctxIdx ctx with
  | none => (0, s)
  | some x =>
    let t := (s.proc p).timeline x tl
    (t.issued + 1, s.modProc p fun r => { r with tls := r.tls.put (x, tl) { t with issued := t.issued + 1 } })

/-! The life of a thread. -/

/-- The random state at creation (R82). -/
def firstSeed (t : TId) : Word :=
  0x9E3779B97F4A7C15 ^^^ BitVec.ofNat 64 (t.p.core * 512 ||| t.lane * 16 ||| t.slot)

/-- Create a thread in a free slot (R87): the state of a new thread, changed as its creator states. -/
def State.create (s : State) (t : TId) (ctx entry : Nat) (pc : Word) (f : Thread → Thread) : State :=
  let (g, s) := s.fresh
  s.setTh t (f { Thread.free with
    st := .ready, gen := g, ctx := ctx, entry := entry, pc := pc, age := s.cycles t.p, seed := firstSeed t, fid := g })

/-- Whether an EXITING thread can be freed (R89). -/
def Thread.drained (th : Thread) : Bool := th.sb.toList.all (· == 0)

/-- EXITING becomes FREE once every scoreboard reads zero (R90). -/
def State.freeIfDrained (s : State) (t : TId) : State :=
  let th := s.th t
  if th.st = .exiting ∧ th.drained then s.setTh t Thread.free else s

/-- Free the tiles a band owned (R246): an entry with work in flight empties when its count reaches zero; the tile of a
BOUND launch stays until its chunk is read (R303). -/
def endTiles (b : BandRef) (keep : Option Nat) (tiles : Tab Nat Tile) : Tab Nat Tile :=
  tiles.map fun e =>
    if e.2.st != .empty && e.2.band == b && keep != some e.1 then
      if e.2.cnt = 0 then (e.1, Tile.empty) else (e.1, { e.2 with ending := true })
    else e

/-- Every watermark reads 64 (R263): an unlisted tile's does. -/
def Seq.finalAll (q : Seq) : Seq := { q with accs := q.accs.map fun e => (e.1, { e.2 with wm := 64 }) }

/-- Unbind the sequencer (R263, R265); planes and accumulators stay for a rebind of the same band, and work under way
goes on. The loop stack is emptied too, so that a later XBIND.Q reads DEPTH 0 (DESIGN CHOICE, log 21: R273 lists UNBOUND and
the watermarks only). -/
def Seq.unbind (q : Seq) : Seq :=
  { q.finalAll with st := .unbound, was := .unbound, band := none, loops := [], ending := false, after := none }

/-- The BOUND fields of a launch record: tile, and the band grid's width and height (R326). -/
def recordBound (l : List Byte) : Option (Nat × Nat × Nat) :=
  if l.length = 256 ∧ (ofBytes ((l.drop 10).take 1)).testBit 0 then
    some (ofBytes ((l.drop 15).take 1), ofBytes ((l.drop 96).take 2), ofBytes ((l.drop 98).take 2))
  else none

/-- Take a band out of the table it stands in: in place, or scanned out. -/
def Proc.dropBand (r : Proc) (b : BandRef) : Proc :=
  match r.bands.find b.num with
  | some x => if x.epoch = b.epoch then { r with bands := r.bands.drop b.num } else
    { r with sbands := r.sbands.filter fun e => !(e.1.2 == b.num && e.2.epoch == b.epoch) }
  | none => { r with sbands := r.sbands.filter fun e => !(e.1.2 == b.num && e.2.epoch == b.epoch) }

/-- The end of a band (R104), by leaving or by a kill, wherever it stands (R345): tiles freed, pins released, the sequencer unbound, waiters woken
with a pending barrier-dead fault, the number closed until its release, a kill cancelling its operations (R346). `ctx` is the
context of its members. -/
def State.endBand (s : State) (p : PId) (br : BandRef) (ctx : Nat) (killed : Bool) : State :=
  let r := s.proc p
  match r.band br with
  | none => s
  | some b =>
    let bound := recordBound (r.entry b.entry).record
    let chunkTile := match bound with | some (t, _, _) => if killed then none else some t | none => none
    let q := r.seq
    let seq := if q.band = some br ∧ q.st ≠ .unbound then
        (if q.work.isEmpty then q.unbind else { q with ending := true })
      else q
    let s := s.setProc p { (r.dropBand br) with
      tiles := endTiles br chunkTile r.tiles
      stiles := r.stiles.filter fun t => t.2.1.band != br || chunkTile == some t.1.2
      seq := seq
      sseqs := r.sseqs.filter fun x => x.2.band != some br
      closing := r.closing ++ [⟨br.num, b.epoch, b.coord, ctx, (r.entry b.entry).record, killed, bound.isSome⟩] }
    let s := s.modSite p.site fun q => { q with pins := q.pins.filter fun x => x.1 != .band p br }
    let s := if killed then
        { s with ops := s.ops.map fun o => if o.t.p = p ∧ o.band = some br then { o with cancel := true, stopped := false, paused := false, out := false } else o }
      else s
    let who := (s.liveThreads p).filter fun e => e.2.isParked && (match e.2.wait with
      | .barrier b' _ _ => b' == br
      | _ => false)
    who.foldl (fun s e =>
      let i := match e.2.wait with | .barrier _ i _ => i | _ => 0
      (s.wake e.1).modTh e.1 fun th =>
        { th with pend := th.pend ++ [⟨16, handleOf br + BitVec.ofNat 64 (i * 2 ^ 32), false⟩] }) s

/-- Leave a band; the last member ends it. -/
def State.leaveBand (s : State) (t : TId) : State :=
  match (s.th t).band with
  | none => s
  | some b =>
    let r := s.proc t.p
    match r.band b with
    | none => s.modTh t fun th => { th with band := none }
    | some x =>
      let m := x.members.filter (· != (t.lane, t.slot))
      let s := s.setProc t.p (r.putBand b { x with members := m })
      let s := if m.isEmpty then s.endBand t.p b (s.th t).ctx false else s
      s.modTh t fun th => { th with band := none }

/-- Take a thread into a band. -/
def State.joinBand (s : State) (t : TId) (b : BandRef) : State :=
  let r := s.proc t.p
  match r.band b with
  | none => s
  | some x =>
    (s.setProc t.p (r.putBand b { x with members := x.members ++ [(t.lane, t.slot)] })).modTh t
      fun th => { th with band := some b }

/-- The lowest free band number (R104, R121). -/
def Proc.freeBand (r : Proc) : Option Nat :=
  (List.range 64).find? fun k => (r.bands.find k).isNone && !r.closing.any (·.num == k)

/-- Create a band (R103). -/
def State.newBand (s : State) (p : PId) (k : Nat) (coord : BitVec 48) (entry : Nat) : BandRef × State :=
  let r := s.proc p
  let e := (r.epochs.get 0 k + 1) % 65536
  (⟨k, e⟩, s.setProc p { r with epochs := r.epochs.put k e, bands := r.bands.put k ⟨e, coord, [], [], entry⟩ })

/-- The bulk read of a handler sees it retire (R238, R251): `err` for HEXIT.ERR or a kill, with its code. -/
def State.handlerEnd (s : State) (t : TId) (err : Bool) (code : Nat) : State :=
  match (s.th t).handler with
  | none => s
  | some h =>
    { s with ops := s.ops.map fun o =>
        if o.id = h.op then
          { o with handlers := o.handlers.filter (· != t), err := o.err || err, hcode := o.hcode ||| code % 256 }
        else o }

/-- EXITERR of a thread that exits with a non-empty error record (R198, R341), and its log entry (R387). -/
def State.exitErr (s : State) (t : TId) : State :=
  let th := s.th t
  let n := th.erec.count + th.prec.count
  if n = 0 then s
  else
    let first := if th.erec.count = 0 then th.prec.va else th.erec.va
    (s.raiseTh t 10 (min n (2 ^ 26 - 1))).logTh t 5 1 first 1 (min n (2 ^ 32 - 1))

/-- EXIT and HEXIT (R89, R90, R251): retire the thread. -/
def State.retire (s : State) (t : TId) (err : Bool) (code : Nat) : State :=
  let s := ((s.handlerEnd t err code).exitErr t)
  let s := (s.leaveBand t).strikeAll t
  (s.modTh t fun th => { th with st := .exiting, wait := .none, pend := [] }).freeIfDrained t

/-- A kill of a thread (R89, R320): the slot is free at once; a clause in flight loses its lane. -/
def State.killThread (s : State) (t : TId) : State :=
  if (s.th t).st = .free then s else
  let s := if (s.th t).st = .exiting then s else ((s.handlerEnd t true 0).leaveBand t).strikeAll t
  let cut (f : Flight) : Flight :=
    if f.p = t.p ∧ f.row = t.slot then { f with lanes := f.lanes.filter (·.lane != t.lane) } else f
  let s : State := { s with flights := s.flights.map cut, stalled := s.stalled.map cut }
  s.setTh t Thread.free

/-- The context of a band's members. -/
def State.bandCtx (s : State) (p : PId) (b : Band) : Nat :=
  match b.members with
  | (l, k) :: _ => (s.th ⟨p, l, k⟩).ctx
  | [] => ((s.proc p).entry b.entry).ctx

/-- A kill of a band (R346): every member FREE, then the end by kill. -/
def State.killBand (s : State) (p : PId) (br : BandRef) : State :=
  match (s.proc p).band br with
  | none => s
  | some b =>
    -- members are freed with the band still standing, so that the end is by kill
    let ctx := s.bandCtx p b
    let s := b.members.foldl (fun s m =>
      let t : TId := ⟨p, m.1, m.2⟩
      (s.modTh t fun th => { th with band := none }).killThread t) s
    s.endBand p br ctx true

/-! Traps. -/

/-- Hold a thread (R89, R320). -/
def State.holdThread (s : State) (t : TId) (why : Nat) : State :=
  s.modTh t fun th => { th with st := .held, why := why, wait := .none }

/-- A pending asynchronous trap (R338). -/
def State.pendTrap (s : State) (t : TId) (cause : Nat) (info : Word) : State :=
  s.modTh t fun th => { th with pend := th.pend ++ [⟨cause, info, false⟩] }

/-- `double_fault(c, f)` (R340). -/
def State.doubleFault (s : State) (t : TId) (c f : Nat) : State :=
  let s := s.modTh t fun th => { th with tst := th.tst ||| 1, entering := none }
  (s.holdThread t 1).raiseTh t 5 (c * 256 + f)

/-- %tc of a trap (R336). -/
def tcWord (async : Bool) (idx cause : Nat) : Word :=
  BitVec.ofNat 64 (boolN async * 65536 + idx % 16 * 256 + cause % 256)

/-- The saved registers of a trap (R336, R337), which is counted (R352). -/
def State.saveTrap (s : State) (t : TId) (cause idx : Nat) (info : Word) (async : Bool) : State :=
  (s.modTh t fun th => { th with tp := th.pc, tc := tcWord async idx cause, ti := info }).perfAdd t.p (s.th t).ctx 10 1

/-- The read of the vector of a cause, for a thread whose context is live (R337). -/
def State.readVector (s : State) (t : TId) (cause : Nat) : RV × State :=
  let q := s.site t.p.site
  match q.liveCtx (s.th t).ctx with
  | none => (.dead, s)
  | some x => s.readVirt t (s.th t).ctx [] ((q.ctx x).tvec + BitVec.ofNat 64 (8 * cause)) 8

/-- A trap is still to be taken: the read of its vector waits (R337). -/
def State.vectorWaits (s : State) (t : TId) (cause : Nat) : Bool :=
  !(s.th t).tst.getLsbD 0 && (s.readVector t cause).1 == .wait

/-- `deliver` (R337): taking a trap. The saved pc, cause and information are written, %tst.IN set and the pc moved to the
handler that the vector table names; a trap while IN is set, a fault on the vector or a bad vector is a double fault. The trap
waits with nothing written while the read of the vector waits, and is not taken under a context that is not live (R394). -/
def State.deliver (s : State) (t : TId) (cause idx : Nat) (info : Word) (async : Bool) : State :=
  if (s.th t).tst.getLsbD 0 then
    if async then s.pendTrap t cause info else (s.saveTrap t cause idx info async).doubleFault t cause cause
  else
    match s.readVector t cause with
    | (.dead, s) | (.wait, s) => s
    | (.trap f _, s) => ((s.dropAsks t).saveTrap t cause idx info async).doubleFault t cause f
    | (.ok b poison, s) =>
      let h : Word := BitVec.ofNat 64 (ofBytes b)
      let s := (s.dropAsks t).saveTrap t cause idx info async
      if poison then s.doubleFault t cause 12
      else if h = 0 ∨ h.toNat % 8 ≠ 0 then s.doubleFault t cause 1
      else s.modTh t fun th => { th with tst := th.tst ||| 1, pc := h, entering := some cause }

/-- Return from a trap (R349): the pc of %tp, IN cleared. -/
def State.eret (s : State) (t : TId) : State :=
  s.modTh t fun th => { th with pc := th.tp, tst := th.tst &&& ~~~1#64, entering := none }

/-! Commit. -/

/-- The fall-through header (R119). -/
def Flight.next (f : Flight) : Word := f.addr + BitVec.ofNat 64 (8 * (f.hdr.cnt.toNat + 2))

def State.sbInc (s : State) (t : TId) : Option Nat → State
  | none => s
  | some k => s.modTh t fun th => th.setSb k (th.sbOf k + 1)

/-- A scoreboard falls, for the thread that raised it; an EXITING thread may become FREE (R37, R90). -/
def State.sbDec (s : State) (t : TId) (gen : Nat) : Option Nat → State
  | none => s
  | some k =>
    if (s.th t).gen = gen then (s.modTh t fun th => th.setSb k (th.sbOf k - 1)).freeIfDrained t else s

/-- Lines of an L1 data cache: 256 KiB on a core (R9), 64 KiB on a framer or a port processor (R20). -/
def l1Lines (p : PId) : Nat := if kindOf p = .core then 2048 else 512

/-- Lines of L2 (R9). -/
def l2Lines : Nat := 2 ^ 23

/-- Enter a line into a cache, the newest first. -/
def putCopy (l : List Copy) (c : Copy) : List Copy := c :: l.filter (·.line != c.line)

/-- Fill a line into L1; a line for which there is no room, the one filled first (log 29), leaves its tag and the row that
filled it in the victim tag array (R94). -/
def Proc.fillL1 (r : Proc) (cap : Nat) (c : Copy) : Proc :=
  let l := putCopy r.l1 c
  { r with l1 := l.take cap, vtags := (((l.drop cap).map fun x => (x.line, x.row)) ++ r.vtags).take 1024 }

/-- An L1 miss: the victim tag array (R94) and the counters (R352). -/
def State.missL1 (s : State) (t : TId) (ctx pa : Nat) : State :=
  let s := s.perfAdd t.p ctx 5 1
  let pr := s.proc t.p
  let row := t.slot
  if pr.vtags.any (·.1 == lineOf pa) then
    (s.setProc t.p { pr with
      vtags := pr.vtags.filter (·.1 != lineOf pa), lls := pr.lls.put row (min (pr.lls.get 0 row + 16) 1023) }).perfAdd t.p ctx 6 1
  else s

/-- The 64-byte blocks of a range that are poisoned. -/
def State.badBlocks (s : State) (pa n : Nat) : List Nat :=
  s.poison.filter fun b => decide (pa / 64 ≤ b) && decide (b ≤ (pa + n - 1) / 64)

/-- Fill a line into L1, and with `far` into the site's L2 (R184, R221): as memory holds it, with the stores of the
processor, and for L2 of the site, that are on their way. While a read-modify-write on its way will change the line, no copy
of it is made. -/
def State.fillLine (s : State) (p : PId) (pa row : Nat) (far : Bool) : State :=
  let base := lineOf pa * 128
  let copy (own : List Store) : Copy := ⟨lineOf pa, readOver s.mem own base 128, s.tick, row, s.badBlocks base 128⟩
  let here := s.stores.filter fun x => x.t.p == p && !x.done
  let site := s.stores.filter fun x => x.t.p.site == p.site && !x.done
  let fixed (l : List Store) : Bool := l.all fun x => x.kind.writes || !x.touches (lineOf pa)
  let s' := if fixed here then s.modProc p fun r => r.fillL1 (l1Lines p) (copy here) else s
  if far && fixed site then s'.modSite p.site fun q => { q with l2 := (putCopy q.l2 (copy site)).take l2Lines } else s'

/-- The packets that a thread sent for the parts of a request before its commit travel on under the request's number. -/
def State.carryAsks (s : State) (t : TId) (gen id : Nat) (parts : List Part) : State :=
  { s with packets := s.packets.map fun k => match k.kind with
      | .access i pa => if i = gen ∧ k.src = t.p ∧ parts.any (·.pa == pa) then { k with kind := .access id pa } else k
      | _ => k }

/-- What an instruction asked for at commit: stores enter the row's queue in program order, each under one group number
and at most one scoreboard count (R36, R189, R215); deferred requests raise their scoreboard (R37). -/
def State.enact (s : State) (t : TId) : Act → State
  | .store entries sb =>
    let (grp, s) := s.fresh
    let th := s.th t
    let s := entries.foldl (fun s x =>
      let (id, s) := s.fresh
      s.modProc t.p fun r => { r with queues := r.queues.put t.slot (r.queues.get [] t.slot ++
        [{ x with id := id, t := t, gen := th.gen, ctx := th.ctx, grp := grp, sb := sb }]) }) s
    s.sbInc t sb
  | .req r =>
    let (id, s) := s.fresh
    let th := s.th t
    let s := s.carryAsks t th.gen id r.parts
    { (s.sbInc t r.sb) with
      reqs := s.reqs ++ [{ r with id := id, t := t, gen := th.gen, ctx := th.ctx, fid := th.fid }] }
  | .pref _ pa rc =>
    let th := s.th t
    if (s.proc t.p).l1.any fun c => c.line == lineOf pa && c.fresh t.p.site th.acqRet s.tick then s
    else (s.missL1 t th.ctx pa).fillLine t.p pa t.slot rc
  | .trq ch dst _ => s.modTh t fun th => th.setG dst (s.trqWord t.p ch)
  | .acovf a clr sb dst =>
    let v := ((s.proc t.p).seq.acc a).status
    let (id, s) := s.fresh
    let th := s.th t
    let s := s.sbInc t sb
    let s : State := { s with reqs := s.reqs ++ [⟨id, t, th.gen, th.ctx, th.fid, sb, .value false, [], some [.g dst v], none, none⟩] }
    if clr then s.modProc t.p fun r =>
      let x := { r.seq.acc a with ovf := false, nv := false, satf := false }
      { r with seq := { r.seq with accs := r.seq.accs.put a x } }
    else s

/-- The commit of one lane (R35, R36, R38, R148): register results, the random state, conditions, what the clause asked
for, the pc at the fall-through header, and the yield of YLD (R32). The lane is done. -/
def State.commitLane (s : State) (f : Flight) (l : LaneRun) : State × LaneRun :=
  let t : TId := ⟨f.p, l.lane, f.row⟩
  let s := s.modTh t fun th =>
    let th := th.writes l.writes
    { th with
      seed := l.seed
      fcsr := raiseFlags th.fcsr l.flags
      mcov := if l.flags.getLsbD 7 then th.mcov ||| 256 else th.mcov
      pc := f.next
      age := if f.hdr.yld then s.cycles f.p else th.age
      entering := none }
  (l.asked.foldl (fun s a => s.enact t a) s, { l with done := true })

/-- Age order (R93) of the lanes of a flight: oldest first, then lower lane. -/
def byAge (l : List LaneRun) : List LaneRun := sortBy (fun a b => decide (a.t0.age < b.t0.age ∨
  (a.t0.age = b.t0.age ∧ a.lane ≤ b.lane))) l

/-- Carry a clause-ending instruction over the lanes of the head flight: `check` may fault a lane; a lane whose guard is
true and that passes commits and then takes the effect, which tells the lanes' result register if there is one. -/
def State.runEnd (s : State) (pn : Bool) (pr : BitVec 3) (order : List LaneRun → List LaneRun)
    (check : State → Env → Option (Nat × Word)) (effect : State → Env → State) : State :=
  s.foldLanes order fun s f l =>
    if !l.active || !l.guard pn pr then (s, l)
    else
      let e : Env := ⟨s, f, l⟩
      match check s e with
      | some (c, i) => (s, l.trap f.idx c i)
      | none =>
        let r := s.commitLane f l
        (effect r.1 e, r.2)

/-- A result written at commit into file g (R37 aside: it is visible to the next clause). -/
def State.putG (s : State) (t : TId) (n : BitVec 6) (v : Word) : State := s.modTh t fun th => th.setG n.toNat v

end Sys2Proof.Machine
end

