-- ==== Sys2Proof/Machine/Sched.lean ====
section
/-! DEFINITION. The slot table (R329 to R333): bind and launch records (R326, R356), the transitions of an entry, creation
of its threads and bands (R327), stop and restore (R343 to R345), scan-out, kill (R346), and the images that hold stopped
units in memory (R319, R322, R357). -/
namespace Sys2Proof.Machine

/-! Records. -/

/-- An `n`-byte field of a record. -/
def fieldAt (l : List Byte) (off n : Nat) : Nat := ofBytes ((l.drop off).take n)

/-- All bytes from `a` below `b` are zero. -/
def zeroAt (l : List Byte) (a b : Nat) : Bool := ((l.drop a).take (b - a)).all (· == 0)

/-- Validity of a launch record (R326). -/
def recordValid (l : List Byte) : Bool :=
  let f := fieldAt l
  let bound := f 10 1 == 1
  let nb := f 14 1
  let members := (List.range nb).map fun j => f (160 + 8 * j) 2
  f 0 8 % 8 == 0 && decide (f 10 1 ≤ 1) && decide (1 ≤ f 11 1 ∧ f 11 1 ≤ 96) && decide (1 ≤ f 12 1 ∧ f 12 1 ≤ 32) &&
  decide (1 ≤ f 13 1 ∧ f 13 1 ≤ 16) && decide (nb ≤ 12) && (if bound then decide (f 15 1 ≤ 63) else f 15 1 == 0) &&
  f 72 8 % 8 == 0 && (bound || f 88 8 == 0) &&
  (if bound then decide (1 ≤ f 96 2) && decide (1 ≤ f 98 2) else f 96 2 == 0 && f 98 2 == 0) &&
  zeroAt l 102 160 && zeroAt l (160 + 8 * nb) 256 &&
  (members.all fun m => decide (1 ≤ m ∧ m ≤ 512)) && decide (members.foldl (· + ·) 0 ≤ f 12 1 * f 13 1)

/-! Transitions (R332). -/

def State.setEntry (s : State) (p : PId) (e : Nat) (n : Entry) : State :=
  s.modProc p fun r => { r with slots := r.slots.put e n }

/-- The BIND event of a transition (R341). -/
def State.bindEvent (s : State) (p : PId) (e ctx : Nat) (st : ESt) : State :=
  s.raise p.site 8 p.core 0 0 ctx (e % 32 + st.code * 32)

/-- Move an entry to a state: ATIME holds from activation on (R330), the rank counts from entry to WAIT or STOPPED. -/
def State.moveEntry (s : State) (p : PId) (e : Nat) (st : ESt) : State :=
  let n := (s.proc p).entry e
  let (o, s) := s.fresh
  let n' : Entry := { n with
    st := st
    atime := if n.st = .active then s.atime p n else if st = .active then 0 else n.atime
    since := if st = .active then s.tick else n.since
    order := if st = .wait ∨ st = .stopped then o else n.order }
  (s.setEntry p e (if st = .empty then Entry.empty else n')).bindEvent p e n.ctx st

def Entry.overlaps (a b : Entry) : Bool := decide (a.slo ≤ b.shi) && decide (b.slo ≤ a.shi)

def Entry.pending (a : Entry) : Bool := a.st == .wait || a.st == .stopped

/-- `a` ranks above `b` (R331). -/
def Entry.above (a b : Entry) : Bool := decide (b.prio < a.prio) || (a.prio == b.prio && decide (a.order < b.order))

/-- The slot number under which a scanned-out thread of an entry stands. -/
def vslot (e row : Nat) : Nat := 16 * (e + 1) + row

/-- Threads of an entry, scanned out or not. -/
def State.entryThreads (s : State) (p : PId) (e : Nat) : List (TId × Thread) :=
  (s.liveThreads p).filter fun x => x.2.entry == e

/-- The real slot of a thread. -/
def homeSlot (t : TId) : TId := ⟨t.p, t.lane, t.slot % 16⟩

/-- The slots an entry will create or restore threads in (R331). -/
def State.wantedSlots (s : State) (p : PId) (e : Nat) : List TId :=
  let n := (s.proc p).entry e
  if n.st = .wait then
    (List.range (n.shi + 1 - n.slo)).flatMap fun k => (List.range (fieldAt n.record 12 1)).map fun l => ⟨p, l, n.slo + k⟩
  else (s.entryThreads p e).map fun x => homeSlot x.1

/-- An open slot (R331): FREE, the entry's own stopped thread, or another entry's STOPPED thread. -/
def State.slotOpen (s : State) (t : TId) : Bool :=
  let th := s.th t
  slotExists t && (th.st == .free || th.st == .stopped ||
    (th.st == .held && ((s.proc t.p).entry th.entry).st == .stopped))

/-- The first two conditions of R331. -/
def State.unopposed (s : State) (p : PId) (e : Nat) : Bool :=
  let r := s.proc p
  let n := r.entry e
  n.pending && r.slots.all fun x => x.1 == e || !x.2.overlaps n ||
    !(x.2.st == .active || x.2.st == .stopping || (x.2.pending && x.2.above n))

/-- A clear entry (R331). -/
def State.isClear (s : State) (p : PId) (e : Nat) : Bool :=
  s.unopposed p e && (s.wantedSlots p e).all s.slotOpen

/-! Engine operations. -/

/-- The number of points of a walk (R229). -/
def Walk.points (w : Walk) : Nat := w.ctrs.foldl (fun a c => a * c.n) 1

/-- How many points, units or elements an operation has. -/
def OpKind.total : OpKind → Nat
  | .bread w _ _ _ _ _ _ _ => w.points
  | .copy w _ | .copyIn w _ _ | .copyOut w _ _ => w.points
  | .tileAdd _ _ _ _ => 1
  | .bupd d _ _ _ _ => fieldAt d 32 4

/-- Bytes of a burst, a unit or an add. -/
def OpKind.unitBytes : OpKind → Nat
  | .bread _ b _ _ _ _ _ _ => b
  | .copy w _ | .copyIn w _ _ | .copyOut w _ _ => 16 * 2 ^ w.unit
  | .tileAdd _ _ _ v => 32 * v.length
  | _ => 0

/-- A copy between memory and memory or a tile. -/
def OpKind.isCopy : OpKind → Bool
  | .copy _ _ | .copyIn _ _ _ | .copyOut _ _ _ => true
  | _ => false

/-- A copy stands at a boundary of 4 KiB, its stop unit (R243). -/
def Op.atBoundary (o : Op) : Bool := o.next == o.kind.total || o.next * o.kind.unitBytes % 4096 == 0

/-! Stop (R343, R344). -/

/-- Whether a thread has a clause in flight. -/
def State.inFlight (s : State) (t : TId) : Bool :=
  (s.flights ++ s.stalled).any fun f => f.p == t.p && f.row == t.slot && f.lanes.any (·.lane == t.lane)

/-- Stop a thread at its clause boundary. -/
def Thread.stop (th : Thread) : Thread :=
  match th.st with
  | .ready | .parked => { th with st := .stopped, was := th.st, cand := none, starved := none }
  | _ => th

/-- The sequencer is bound to a band of an entry. -/
def Proc.seqOf (r : Proc) (e : Nat) : Bool :=
  r.seq.st != .unbound && match r.seq.band with
    | some b => match r.band b with | some x => x.entry == e | none => false
    | none => false

/-- The stop reaches every unit of the entry that stands at its stop unit. -/
def State.stopUnits (s : State) (p : PId) (e : Nat) : State :=
  let s := (s.entryThreads p e).foldl (fun s x => if s.inFlight x.1 then s else s.modTh x.1 Thread.stop) s
  let busy := match s.stream with | some (q, _) => q == p | none => false
  let s := s.modProc p fun r =>
    if r.seqOf e && !busy && r.seq.work.isEmpty && (r.seq.st == .running || r.seq.st == .waiting) then
      { r with seq := { r.seq with st := .stopped, was := r.seq.st } } else r
  { s with ops := s.ops.map fun o => if o.t.p = p ∧ o.entry = e then { o with stopped := true } else o }

/-- Stop an ACTIVE entry. -/
def State.stopEntry (s : State) (p : PId) (e : Nat) : State :=
  if ((s.proc p).entry e).st = .active then (s.moveEntry p e .stopping).stopUnits p e else s

/-- ACTIVE entries that a waiting overlapping entry of higher PRIO stops (R332). -/
def State.contend (s : State) (p : PId) : State :=
  let r := s.proc p
  (r.slots.filter fun x => x.2.st == .active && r.slots.any fun y =>
    y.2.pending && y.2.overlaps x.2 && decide (x.2.prio < y.2.prio)).foldl (fun s x => s.stopEntry p x.1) s

/-- Every unit of the entry has stopped; what the sequencer began is complete, also after an XEND or a fault (R269). -/
def State.allStopped (s : State) (p : PId) (e : Nat) : Bool :=
  (s.entryThreads p e).all (fun x => x.2.st != .ready && x.2.st != .parked) &&
    (s.ops.all fun o => !(o.t.p == p && o.entry == e && o.kind.isCopy) || o.atBoundary || o.paused) &&
    !((s.proc p).seqOf e && ((s.proc p).seq.st == .running || (s.proc p).seq.st == .waiting)) &&
    !((s.proc p).seq.work.any fun w => match w.band.bind (s.proc p).band with | some x => x.entry == e | none => false)

/-- ENTRY_STOPPED. -/
def State.entryStopped (s : State) (p : PId) (e : Nat) : State :=
  if ((s.proc p).entry e).st ≠ .stopping then s else
  let s' := s.stopUnits p e
  if s'.allStopped p e then (s'.moveEntry p e .stopped).contend p else s'

/-! Images of units in memory. -/

def wordsBytes (l : List Word) : List Byte := l.flatMap fun w => toBytes 8 w.toNat

def TSt.of : Nat → TSt
  | 1 => .ready | 2 => .parked | 3 => .exiting | 4 => .held | 5 => .stopped | _ => .free

/-- A wait as four numbers, for the words R319 does not name (log 9). -/
def Wait.nums : Wait → Nat × Nat × Nat × Nat
  | .none => (0, 0, 0, 0)
  | .sleep _ => (1, 0, 0, 0)
  | .rejoin j => (2, j, 0, 0)
  | .barrier b i n => (3, b.num + b.epoch * 64, i, n)
  | .truss c n => (4, c, n, 0)
  | .timeline k n => (5, k, n, 0)
  | .ptime k n => (9, k, n, 0)
  | .chan c => (6, c, 0, 0)
  | .version v => (7, v, 0, 0)
  | .event d => (8, d, 0, 0)

def Wait.ofNums (deadline : Nat) : Nat × Nat × Nat × Nat → Wait
  | (1, _, _, _) => .sleep deadline
  | (2, j, _, _) => .rejoin j
  | (3, b, i, n) => .barrier ⟨b % 64, b / 64⟩ i n
  | (4, c, n, _) => .truss c n
  | (5, k, n, _) => .timeline k n
  | (9, k, n, _) => .ptime k n
  | (6, c, _, _) => .chan c
  | (7, v, _, _) => .version v
  | (8, d, _, _) => .event d
  | _ => .none

/-- The words of a thread window that R319 leaves unlisted, as images use them (log 9); `op` names a handler's bulk read by its
place among the operations of the image, counted from 1. The last 32 hold what PWAIT has seen of each channel (R316). -/
def Thread.extra (t : Thread) (op k : Nat) : Word :=
  let w := t.wait.nums
  match k with
  | 0 => BitVec.ofNat 64 (t.was.code + t.why * 16)
  | 1 => BitVec.ofNat 64 w.1
  | 2 => BitVec.ofNat 64 w.2.1
  | 3 => BitVec.ofNat 64 w.2.2.1
  | 4 => BitVec.ofNat 64 w.2.2.2
  | 5 => BitVec.ofNat 64 (t.rjs.toNat + (match t.entering with | some c => (c + 1) * 2 ^ 16 | none => 0))
  | 6 => BitVec.ofNat 64 t.pend.length
  | 7 => BitVec.ofNat 64 op
  | 14 => BitVec.ofNat 64 ((t.handler.map (·.seq)).getD 0)
  | 15 => ((t.handler.map (·.bid)).getD 0)
  | k =>
    if k < 14 then BitVec.ofNat 64 ((t.handler.bind fun h => h.bc[k - 8]?).getD 0)
    else if 63 ≤ k then
      BitVec.ofNat 64 (t.seen.get 0 (2 * (k - 63)) % 2 ^ 32 + t.seen.get 0 (2 * (k - 63) + 1) % 2 ^ 32 * 2 ^ 32)
    else if 31 ≤ k then
      match t.pend[(k - 31) / 2]? with
      | some x => if k % 2 = 1 then BitVec.ofNat 64 (x.cause + boolN x.ofRec * 256) else x.info
      | none => 0
    else 0

/-- The operations of an entry that a save moves with it. -/
def State.opsOf (s : State) (p : PId) (e : Nat) : List Op := s.ops.filter fun o => o.t.p == p && o.entry == e

/-- The image of a thread window (R319, R357); a SLEEP holds its remainder in a save image, and its deadline in the save area of
its processor (R118). -/
def State.threadImage (s : State) (p : PId) (saved : Bool) (t : Thread) : List Byte :=
  let rem := match t.wait with | .sleep d => if saved then d - s.cycles p else d | _ => 0
  let op := match t.handler with
    | some h => (((s.opsOf p t.entry).findIdx? (·.id == h.op)).map (· + 1)).getD 0
    | none => 0
  wordsBytes (tabulate 512 fun k =>
    if k < 0xD08 / 8 then (if k = 0xF8 / 8 then BitVec.ofNat 64 rem else threadWord t (8 * k)) else t.extra op (k - 0xD08 / 8))

/-- A walk descriptor read back (R227). -/
def Walk.parse (l : List Byte) : Walk where
  base := BitVec.ofNat 64 (fieldAt l 0 8)
  unit := fieldAt l 8 1
  bound := (fieldAt l 9 1).testBit 0
  fill := BitVec.ofNat 64 (fieldAt l 16 8)
  ctrs := (List.range 6).map fun k =>
    ⟨fieldAt l (32 + 24 * k) 4, signedOf (fieldAt l (36 + 24 * k) 4) 32, fieldAt l (40 + 24 * k) 4,
      signedOf (fieldAt l (48 + 24 * k) 8) 64⟩

/-- A part of the error record read back from its %ti layout. -/
def ErrPart.parse (w : Word) : ErrPart := ⟨BitVec.ofNat 64 (bitsOf w 52 0), bitsOf w 63 53⟩

def handleRef (h : Word) : Option BandRef := if h = BitVec.allOnes 64 then none else some ⟨bitsOf h 5 0, bitsOf h 31 16⟩

/-- A thread read back from its image: `id` numbers its frames afresh, `ops` are the numbers of the image's operations, and a SLEEP
counts from `now`. -/
def State.threadOf (s : State) (now id entry : Nat) (ops : List Nat) (l : List Byte) : Thread :=
  let w (off : Nat) : Word := BitVec.ofNat 64 (fieldAt l off 8)
  let x (k : Nat) : Nat := (w (0xD08 + 8 * k)).toNat
  let ctl := w 0
  let bits := (w 0x20).toNat
  let wst := (w 0x78).toNat
  let held := wst % 8
  { Thread.free with
    st := TSt.of (bitsOf ctl 63 61)
    was := TSt.of (x 0 % 16)
    why := x 0 / 16
    wait := Wait.ofNums (now + (w 0xF8).toNat) (x 1, x 2, x 3, x 4)
    gen := id
    ctx := bitsOf ctl 47 32
    entry := entry
    pc := w 8
    age := (w 0x10).toNat
    gr := Vector.ofFn fun k : Fin 32 => if k.val = 0 then 0 else w (0x100 + 8 * k.val)
    pr := Vector.ofFn fun k : Fin 7 => bits.testBit k.val
    wr := Vector.ofFn fun k : Fin 16 =>
      ⟨(w (0x600 + 64 * k.val + 32)).setWidth 16, BitVec.ofNat 256 (fieldAt l (0x600 + 64 * k.val) 32)⟩
    mr := Vector.ofFn fun k : Fin 8 => w (0x500 + 8 * k.val)
    sb := Vector.ofFn fun k : Fin 8 => bits / 2 ^ (8 + 6 * k.val) % 64
    fid := id + 8
    parent := id + 7
    lnk := w 0xC0
    frames := (List.range held).map fun k =>
      ⟨id + 7 - k, id + 6 - k, Vector.ofFn fun j : Fin 16 => w (0x200 + 128 * k + 8 * j.val), w (0xC8 + 8 * k)⟩
    spilled := wst / 2 ^ 16 % 2 ^ 16
    wsp := w 0x80
    seed := w 0x88
    fcsr := w 0x30
    mcov := w 0x38
    mrho := w 0x40
    tp := w 0x48
    tc := w 0x50
    ti := w 0x58
    tst := w 0x60
    tk0 := w 0x68
    tk1 := w 0x70
    gsd := w 0x90
    acqRet := s.tick
    acqWaf := s.tick
    band := handleRef (w 0x18)
    handler := if x 7 = 0 then none else
      some ⟨(ops[x 7 - 1]?).getD 0, (List.range 6).map fun k => x (8 + k), x 14, w (0xD08 + 8 * 15)⟩
    walks := Vector.ofFn fun k : Fin 4 =>
      if (w 0xD00).getLsbD k.val then some (Walk.parse ((l.drop (0xA00 + 192 * k.val)).take 192)) else none
    erec := ErrPart.parse (w 0x28)
    prec := ErrPart.parse (w 0xA0)
    pend := (List.range (x 6)).map fun k => ⟨x (31 + 2 * k) % 256, w (0xD08 + 8 * (32 + 2 * k)), x (31 + 2 * k) / 256 == 1⟩
    entering := if x 5 / 2 ^ 16 = 0 then none else some (x 5 / 2 ^ 16 - 1)
    rjs := BitVec.ofNat 16 (x 5)
    seen := ((List.range 64).map fun c => (c, x (63 + c / 2) / 2 ^ (32 * (c % 2)) % 2 ^ 32)).filter (·.2 != 0) }

/-- The image of a band (R318, R107): handle, count, coordinates, barrier objects. -/
def Band.image (b : Band) (num : Nat) : List Byte :=
  wordsBytes (tabulate 64 fun k =>
    if k = 0 then handleOf ⟨num, b.epoch⟩
    else if k = 1 then BitVec.ofNat 64 b.members.length
    else if k = 2 then b.coord.setWidth 64
    else if 32 ≤ k then (b.bar ((k - 32) / 2)).word true (k % 2)
    else 0)

/-- A barrier object read back. -/
def Bar.parse (lo hi : Word) : Bar :=
  ⟨hi.extractLsb' 32 32, hi.extractLsb' 0 32, bitsOf lo 41 32, bitsOf lo 21 12, 3, 3⟩

/-- A band read back, its members given. -/
def bandOf (l : List Byte) (members : List (Nat × Nat)) (entry : Nat) : Band :=
  let w (off : Nat) : Word := BitVec.ofNat 64 (fieldAt l off 8)
  ⟨bitsOf (w 0) 31 16, (w 16).setWidth 48, members,
    (List.range 16).map (fun i => (i, Bar.parse (w (256 + 16 * i)) (w (264 + 16 * i)))), entry⟩

/-- The tile table word read back (R245). -/
def Tile.parse (w : Word) (epoch : Nat) : Tile :=
  ⟨match bitsOf w 63 62 with | 1 => .filling | 2 => .ready | 3 => .draining | _ => .empty,
    bitsOf w 61 59, bitsOf w 58 51, w.getLsbD 50, ⟨bitsOf w 49 44, epoch⟩, bitsOf w 29 19, bitsOf w 18 0, false, false⟩

/-- The bytes of a tile. -/
def Proc.tileBytes (r : Proc) (t : Tile) : List Byte := Memory.read r.tstore t.base (512 * t.size)

/-! Scan-out and restore (R345). -/

/-- Copy bytes into a save area. -/
def State.saveBytes (s : State) (p : PId) (ctx off : Nat) (b : List Byte) : State :=
  match s.saveBase p ctx with
  | some a => ({ s with mem := Memory.write s.mem (a + off) b } : State).clearPoison (a + off) b.length
  | none => s

/-- The 8-byte words of a block that differ from an earlier image of it, with their offsets. -/
def changedWords (old new : List Byte) : List (Nat × List Byte) :=
  (List.range ((new.length + 7) / 8)).filterMap fun k =>
    let w := (new.drop (8 * k)).take 8
    if (old.drop (8 * k)).take 8 = w then none else some (8 * k, w)

/-- Bring the save area up to what a scanned-out unit of an entry holds: the words that have changed since it was given them
last (R344, R345). -/
def State.saveBlock (s : State) (p : PId) (e ctx : Nat) (x : Nat × List Byte) : State :=
  let old := (s.proc p).mirror.get [] (e, x.1)
  if old = x.2 then s else
  ((changedWords old x.2).foldl (fun s w => s.saveBytes p ctx (x.1 + w.1) w.2) s).modProc p fun r =>
    { r with mirror := r.mirror.put (e, x.1) x.2 }

/-- Scan a unit's blocks out: the whole of each goes to the save area. -/
def State.saveBlocks (s : State) (p : PId) (e ctx : Nat) (l : List (Nat × List Byte)) : State :=
  l.foldl (fun s x => (s.saveBytes p ctx x.1 x.2).modProc p fun r => { r with mirror := r.mirror.put (e, x.1) x.2 }) s

/-- The rejoin bits of a lane. -/
def Proc.laneRj (r : Proc) (row lane : Nat) : BitVec 16 :=
  (List.range 8).foldl (fun a j =>
    a ||| BitVec.ofNat 16 (boolN ((r.rejoin row j).1.getLsbD lane) * 2 ^ j + boolN ((r.rejoin row j).2.getLsbD lane) * 2 ^ (8 + j))) 0

/-- Save the rejoin registers of a row with the stopped threads that stand in it (R106): each lane's bits go to its thread, so
that a new entry finds the row's registers clear of them. -/
def State.parkRow (s : State) (p : PId) (row : Nat) : State :=
  ((s.liveThreads p).filter fun x => x.1.slot == row && ((s.proc p).entry x.2.entry).st == .stopped).foldl (fun s x =>
    let m : BitVec 32 := ~~~(1#32 <<< x.1.lane)
    (s.modTh x.1 fun th => { th with rjs := th.rjs ||| (s.proc p).laneRj row x.1.lane }).modProc p fun r =>
      { r with rj := r.rj.map fun e => if e.1.1 = row then (e.1, (e.2.1 &&& m, e.2.2 &&& m)) else e }) s

/-- Give a thread's saved bits back to its row's registers. -/
def State.unparkRow (s : State) (t : TId) : State :=
  let rj := (s.th t).rjs
  (List.range 8).foldl (fun s j =>
    if rj.getLsbD j then
      let v := (s.proc t.p).rejoin t.slot j
      let bit : BitVec 32 := 1#32 <<< t.lane
      s.setRj t.p t.slot j (v.1 ||| bit) (if rj.getLsbD (8 + j) then v.2 ||| bit else v.2)
    else s) (s.modTh t fun th => { th with rjs := 0 })

/-- Rename a thread in the tables that name it. -/
def State.rename (s : State) (a b : TId) : State :=
  let s := s.modProc a.p fun r =>
    let mv (x : Band) : Band := { x with members := x.members.map fun m => if m = (a.lane, a.slot) then (b.lane, b.slot) else m }
    { r with bands := r.bands.map (fun e => (e.1, mv e.2)), sbands := r.sbands.map fun e => (e.1, mv e.2) }
  { s with
    ops := s.ops.map fun o =>
      { o with t := if o.t = a then b else o.t, handlers := o.handlers.map fun h => if h = a then b else h }
    reqs := s.reqs.map fun r => if r.t = a then { r with t := b } else r
    threads := (s.threads.put b (s.th a)).drop a }

/-- A stopped thread that may be scanned out: its scoreboards read zero and nothing holds it. -/
def Thread.movable (th : Thread) : Bool := th.sb.toList.all (· == 0) && th.hold == Hold.empty

/-- The block of a thread. -/
def State.threadBlock (s : State) (t : TId) : Nat × List Byte :=
  (0x200000 + 0x1000 * (16 * t.lane + t.slot % 16), s.threadImage t.p false (s.th t))

/-- Scan out a stopped thread: its window to the save area, its rejoin bits with it. -/
def State.scanThread (s : State) (t : TId) : State :=
  let s := s.parkRow t.p t.slot
  let th := s.th t
  (s.saveBlocks t.p th.entry th.ctx [s.threadBlock t]).rename t ⟨t.p, t.lane, vslot th.entry t.slot⟩

/-- The block of a band. -/
def bandBlock (num : Nat) (b : Band) : Nat × List Byte := (0x1000 + 512 * num, b.image num)

/-- Scan out a band of a stopped entry. -/
def State.scanBand (s : State) (p : PId) (e num : Nat) : State :=
  let r := s.proc p
  match r.bands.find num with
  | none => s
  | some b =>
    (s.saveBlocks p e (r.entry e).ctx [bandBlock num b]).modProc p fun r =>
      { r with bands := r.bands.drop num, sbands := r.sbands.put (e, num) b }

/-- The blocks of a tile: its table word and its bytes. -/
def tileBlocks (k : Nat) (t : Tile) (b : List Byte) : List (Nat × List Byte) :=
  [(0x20000 + 8 * k, toBytes 8 t.word.toNat), (0x80000 + t.base, b)]

/-- Scan out a tile of a stopped entry, bytes included. -/
def State.scanTile (s : State) (p : PId) (e k : Nat) : State :=
  let r := s.proc p
  let t := r.tile k
  let b := r.tileBytes t
  (s.saveBlocks p e (r.entry e).ctx (tileBlocks k t b)).modProc p fun r =>
    { r with tiles := r.tiles.drop k, stiles := r.stiles.put (e, k) (t, b) }

/-- The sequencer's block as an image (R318); planes, and the words +0x10 to +0x28, in the layout of log 8. -/
def Seq.image (q : Seq) : List Byte :=
  let href (b : Option BandRef) : Word := match b with | some x => handleOf x | none => BitVec.allOnes 64
  wordsBytes (tabulate (0x7000 / 8) fun k =>
    if k = 2 then BitVec.ofNat 64 (q.was.code + q.wbar * 16 + q.ctx * 2 ^ 16)
    else if k = 3 then href q.band
    else if k = 4 then href q.last
    else q.word (8 * k))

/-- The accumulator entries of a tile as an image. -/
def AccTile.image (a : AccTile) : List Byte :=
  wordsBytes (tabulate 4096 fun e => (0#27 ++ BitVec.ofBool (a.holdBit (e / 64) (e % 64)) ++ a.entry (e / 64) (e % 64)))

/-- The blocks of the sequencer: its own, the accumulator tiles and their status words. -/
def seqBlocks (q : Seq) : List (Nat × List Byte) :=
  (0x40000, q.image) :: (List.range 8).flatMap fun a =>
    [(0x100000 + 0x8000 * a, (q.acc a).image), (0x140000 + 8 * a, toBytes 8 (q.acc a).status.toNat)]

/-- Scan out the sequencer, planes and accumulators of a stopped entry. -/
def State.scanSeq (s : State) (p : PId) (e : Nat) : State :=
  let r := s.proc p
  (s.saveBlocks p e (r.entry e).ctx (seqBlocks r.seq)).modProc p fun r =>
    { r with seq := Seq.unbound, sseqs := r.sseqs.put e r.seq }

/-- A stopped entry other than `e` that owns a band, if one does: the owner whose scan-out frees its storage. -/
def Proc.stoppedOwner (r : Proc) (b : BandRef) (e : Nat) : Option Nat :=
  match r.band b with
  | some x => if x.entry ≠ e ∧ (r.entry x.entry).st = .stopped then some x.entry else none
  | none => none

/-- The tile of an operation. -/
def OpKind.tile : OpKind → Option Nat
  | .copyIn _ k _ | .copyOut _ k _ | .tileAdd _ k _ _ => some k
  | _ => none

/-- A tile of a stopped entry other than `e`, with its owner, at which nothing is at work. -/
def State.tileClaim (s : State) (p : PId) (e k : Nat) : Option Nat :=
  let t := (s.proc p).tile k
  let q := (s.proc p).seq
  if t.st = .empty ∨ t.scrub ∨ (s.ops.any fun o => o.t.p == p && o.kind.tile == some k && o.band == some t.band && !o.stopped) ∨
      (q.work.any fun w => w.band == some t.band && w.tiles.contains k) then none
  else (s.proc p).stoppedOwner t.band e

/-- Free a tile number held by a band of a stopped entry, for a claim by entry `e` (R345). -/
def State.claimTile (s : State) (p : PId) (e k : Nat) : State :=
  match s.tileClaim p e k with
  | some o => s.scanTile p o k
  | none => s

/-- Free the sequencer when a stopped entry holds it, for a claim by entry `e` (R345). -/
def State.claimSeq (s : State) (p : PId) (e : Nat) : State :=
  match (s.proc p).seq.band with
  | some b => if (s.proc p).seq.st = .unbound ∨ !(s.proc p).seq.work.isEmpty then s else
    match (s.proc p).stoppedOwner b e with
    | some o => s.scanSeq p o
    | none => s
  | none => s

/-- Free band numbers held by stopped entries until `n` are free, for a claim by entry `e` (R327, R345). -/
def State.claimBands (s : State) (p : PId) (e n : Nat) : State :=
  let r := s.proc p
  let free := ((List.range 64).filter fun k => (r.bands.find k).isNone && !r.closing.any (·.num == k)).length
  let held := r.bands.filter fun b => b.2.entry != e && (r.entry b.2.entry).st == .stopped
  (held.take (n - free)).foldl (fun s b => s.scanBand p b.2.entry b.1) s

/-- Free a band number held by a stopped entry other than `e`, for a claim by entry `e` (R345). -/
def State.claimBand (s : State) (p : PId) (e k : Nat) : State :=
  match (s.proc p).bands.find k with
  | some b => if b.entry != e && ((s.proc p).entry b.entry).st == .stopped then s.scanBand p b.entry k else s
  | none => s

/-- The lowest offset where a free run of `n` blocks of the tile store begins (R244). -/
def Proc.findRun (r : Proc) (n : Nat) : Option Nat :=
  let used (b : Nat) : Bool := r.tiles.any fun x => x.2.st != .empty && decide (x.2.base / 512 ≤ b) &&
    decide (b < x.2.base / 512 + x.2.size)
  (List.range 1024).find? fun b => decide (b + n ≤ 1024) && (List.range n).all fun k => !used (b + k)

/-- Free runs of the tile store held by stopped entries, tile by tile, until a run of `n` blocks is free (R345). -/
def State.claimRun (s : State) (p : PId) (e n : Nat) : List Nat → State
  | [] => s
  | k :: t => if ((s.proc p).findRun n).isSome then s else (s.claimTile p e k).claimRun p e n t

/-- Bytes of the burst buffer that operations take. -/
def bufferOf (l : List Op) : Nat :=
  l.foldl (fun a o => match o.kind with
    | .bread _ z _ _ _ _ _ _ => a + z * (o.bursts.length + o.held.length + o.again.length)
    | _ => a) 0

/-- The operations that stand in a processor's engine table (R232). -/
def State.engineTable (s : State) (p : PId) : List Op := s.ops.filter fun o => o.t.p == p && !o.out

/-- Bytes of the burst buffer taken on a core. -/
def State.bufferUse (s : State) (p : PId) : Nat := bufferOf (s.engineTable p)

def OpKind.isBread : OpKind → Bool
  | .bread _ _ _ _ _ _ _ _ => true
  | _ => false

def OpKind.isBupd : OpKind → Bool
  | .bupd _ _ _ _ _ => true
  | _ => false

/-- An operation that may be scanned out or moved: stopped at its stop unit, with no request in flight (R241, R243). -/
def State.settled (s : State) (o : Op) : Bool :=
  o.stopped && !o.kind.isBupd && (!o.kind.isBread || o.bursts.all (·.data.isSome)) &&
    (!o.kind.isCopy || o.atBoundary || o.paused) && !s.abroad o.id

/-- The operations that a scan-out of an entry's engine state takes along. -/
def State.enginesHeld (s : State) (p : PId) (e : Nat) : List Op := (s.opsOf p e).filter fun o => !o.kind.isBupd

/-- The blocks of an entry's engine state: each engine's own 64 KiB, then the rest. -/
def State.engineBlocks (s : State) (p : PId) (e : Nat) : List (Nat × List Byte) :=
  [false, true].flatMap fun copy =>
    let w := (s.engineNats (s.enginesHeld p e) copy).take (engineCap copy)
    let bytes (l : List Nat) : List Byte := l.flatMap (toBytes 8)
    (engineOff copy 0, bytes (w.take 8192)) :: (if w.length ≤ 8192 then [] else [(engineOff copy 8192, bytes (w.drop 8192))])

/-- Scan out the burst-engine and copy-engine state of a stopped entry. -/
def State.scanEngines (s : State) (p : PId) (e : Nat) : State :=
  let s := s.saveBlocks p e ((s.proc p).entry e).ctx (s.engineBlocks p e)
  { s with ops := s.ops.map fun o => if o.t.p = p ∧ o.entry = e ∧ !o.kind.isBupd then { o with out := true } else o }

/-- The stopped entry other than `e` whose engine state can be scanned out. -/
def State.enginesOf (s : State) (p : PId) (e : Nat) : Option Nat :=
  ((s.proc p).slots.find? fun x => x.1 != e && x.2.st == .stopped && (s.opsOf p x.1).any (fun o => !o.out && !o.kind.isBupd) &&
    (s.opsOf p x.1).all fun o => o.out || o.kind.isBupd || s.settled o).map (·.1)

/-- Free engine storage that a stopped entry holds, for a claim by entry `e` (R345). -/
def State.claimEngines (s : State) (p : PId) (e : Nat) : State :=
  match s.enginesOf p e with
  | some k => s.scanEngines p k
  | none => s

/-- The engine table and the burst buffer have room for the scanned-out operations of an entry. -/
def State.engineRoom (s : State) (p : PId) (e : Nat) : Bool :=
  let mine := (s.opsOf p e).filter (·.out)
  let here := s.engineTable p
  decide (here.length + mine.length ≤ 64) &&
    decide ((here.filter (·.kind.isBread)).length + (mine.filter (·.kind.isBread)).length ≤ 16) &&
    decide (bufferOf here + bufferOf mine ≤ 65536)

/-- The blocks of the units of an entry that stand scanned out. -/
def State.outBlocks (s : State) (p : PId) (e : Nat) : List (Nat × List Byte) :=
  let r := s.proc p
  (((s.entryThreads p e).filter fun x => decide (16 ≤ x.1.slot)).map fun x => s.threadBlock x.1) ++
    ((r.sbands.filter fun x => x.1.1 == e).map fun x => bandBlock x.1.2 x.2) ++
    ((r.stiles.filter fun x => x.1.1 == e).flatMap fun x => tileBlocks x.1.2 x.2.1 x.2.2) ++
    ((r.sseqs.find e).elim [] seqBlocks) ++ (if (s.opsOf p e).any (·.out) then s.engineBlocks p e else [])

/-- What reaches a scanned-out unit is written where it stands (R344): the save area follows. -/
def State.mirrorOut (s : State) (p : PId) (e : Nat) : State :=
  (s.outBlocks p e).foldl (fun s x => s.saveBlock p e ((s.proc p).entry e).ctx x) s

/-- No unit of an entry stands scanned out any more. -/
def Proc.dropMirror (r : Proc) (e : Nat) : Proc := { r with mirror := r.mirror.filter (·.1.1 != e) }

/-- Scan out the stopped threads of entry `e` that stand in slots a clear entry claims; the event does what it can. -/
def State.scanOut (s : State) (p : PId) (e : Nat) : State :=
  let r := s.proc p
  if (r.entry e).st ≠ .stopped then s else
  let claimed := (r.slots.filter fun x => x.1 != e && s.isClear p x.1).flatMap fun x => s.wantedSlots p x.1
  ((s.entryThreads p e).filter fun x => decide (x.1.slot < 16) && claimed.contains x.1 && x.2.movable).foldl
    (fun s x => s.scanThread x.1) s

/-- Every slot an entry wants is FREE, or holds its own stopped thread. -/
def State.slotsReady (s : State) (p : PId) (e : Nat) : Bool :=
  (s.wantedSlots p e).all fun t => slotExists t && ((s.th t).st == .free || (s.th t).entry == e && ((s.proc p).entry e).st == .stopped)

/-! Activation (R327) and restore (R345). -/

/-- Create one band of a launch with its members. -/
def State.launchBand (s : State) (p : PId) (e : Nat) (coord : BitVec 48) (members : List TId) : State :=
  match (s.proc p).freeBand with
  | none => s
  | some k =>
    let r := s.newBand p k coord e
    members.foldl (fun s t => s.joinBand t r.1) r.2

/-- Create the bands of a launch record: band entries still to take, members still free. -/
def State.launchBands (s : State) (p : PId) (e : Nat) (rec : List Byte) (c : Nat) : Nat → Nat → List TId → State
  | 0, _, _ => s
  | n + 1, j, ts =>
    let f := fieldAt rec
    let m := f (160 + 8 * j) 2
    let coord : BitVec 48 := BitVec.ofNat 16 (f (166 + 8 * j) 2 + c * f 100 2) ++ BitVec.ofNat 16 (f (164 + 8 * j) 2) ++
      BitVec.ofNat 16 (f (162 + 8 * j) 2)
    (s.launchBand p e coord (ts.take m)).launchBands p e rec c n (j + 1) (ts.drop m)

/-- ENTRY_ACTIVATE: the threads and bands of a clear WAIT entry. -/
def State.activate (s : State) (p : PId) (e : Nat) : State :=
  let n := (s.proc p).entry e
  let rows := (List.range (n.shi + 1 - n.slo)).map (n.slo + ·)
  if n.st ≠ .wait ∨ n.killing ∨ !s.isClear p e ∨ !s.slotsReady p e then s else
  let f := fieldAt n.record
  let nb := f 14 1
  let ts := s.wantedSlots p e
  let s := s.claimBands p e nb
  let r := s.proc p
  if ((List.range 64).filter fun k => (r.bands.find k).isNone && !r.closing.any (·.num == k)).length < nb then
    let s := (s.moveEntry p e .active).modProc p fun r => { r with slots := r.slots.put e { r.entry e with err := true } }
    s.moveEntry p e .done
  else
    let s := rows.foldl (fun s row => s.parkRow p row) (s.moveEntry p e .active)
    -- promises of an earlier launch under this entry are no more (R207)
    let s := s.modSite p.site fun q => { q with promises := q.promises.filter fun x => !(x.1 == p && x.2.1 == e) }
    let lanes := f 12 1
    let s := ts.foldl (fun s t =>
      let i := (t.slot - n.slo) * lanes + t.lane
      s.create t n.ctx e (BitVec.ofNat 64 (f 0 8)) fun th =>
        { th with gr := Vector.ofFn fun k : Fin 32 =>
            if 1 ≤ k.val ∧ k.val ≤ 7 then BitVec.ofNat 64 (f (8 + 8 * k.val) 8)
            else if k.val = 8 then BitVec.ofNat 64 (n.c * lanes * f 13 1 + i)
            else if k.val = 9 then BitVec.ofNat 64 n.c else 0 }) s
    -- the launched threads observe what the launch released (R127)
    let s := ts.foldl (fun s t => s.acquire t 3) s
    let s := s.launchBands p e n.record n.c nb 0 ts
    s.modProc p fun r => { r with slots := r.slots.put e { r.entry e with started := true } }

/-- Return a scanned-out tile: its number and contents kept, its BASE afresh (R345). -/
def Proc.unscanTile (r : Proc) (k : Nat) (t : Tile) (b : List Byte) : Proc :=
  match r.findRun t.size with
  | none => r
  | some base => { r with
      tiles := r.tiles.put k { t with base := 512 * base }
      tstore := Memory.write r.tstore (512 * base) b }

/-- Return scanned-out tiles, if there is room for all of them. -/
def Proc.placeTiles (r : Proc) : List ((Nat × Nat) × Tile × List Byte) → Option Proc
  | [] => some r
  | x :: t => if (r.findRun x.2.1.size).isSome then (r.unscanTile x.1.2 x.2.1 x.2.2).placeTiles t else none

/-- The scanned-out tiles of an entry. -/
def Proc.tilesOut (r : Proc) (e : Nat) : List ((Nat × Nat) × Tile × List Byte) := r.stiles.filter fun x => x.1.1 == e

/-- Free tile store held by other stopped entries, tile by tile, until the entry's tiles have room. -/
def State.claimRoom (s : State) (p : PId) (e : Nat) : List Nat → State
  | [] => s
  | k :: t => if ((s.proc p).placeTiles ((s.proc p).tilesOut e)).isSome then s else (s.claimTile p e k).claimRoom p e t

/-- The units of an entry that stand scanned out can return (R345): band numbers and tile numbers free, room for its tiles and
its operations, the sequencer unbound. -/
def State.canRestore (s : State) (p : PId) (e : Nat) : Bool :=
  let r := s.proc p
  (r.sbands.all fun x => x.1.1 != e || ((r.bands.find x.1.2).isNone && !r.closing.any (·.num == x.1.2))) &&
  (r.stiles.all fun x => x.1.1 != e || (r.tile x.1.2).st == .empty) && (r.placeTiles (r.tilesOut e)).isSome &&
  ((r.sseqs.find e).isNone || r.seq.st == .unbound) && s.engineRoom p e

/-! Kill (R332, R346). -/

/-- The operations of an entry are cancelled. -/
def State.cancelOps (s : State) (c : Op → Bool) : State :=
  { s with ops := s.ops.map fun o => if c o then { o with cancel := true, stopped := false, paused := false, out := false } else o }

/-- A save or load under way meets a failure. -/
def State.failMove (s : State) (p : PId) (c : Move → Bool) : State :=
  s.modProc p fun r => { r with move := r.move.map fun m => if c m then { m with err := true } else m }

/-- Kill an entry: its bands end by kill, its threads become FREE, its operations are cancelled; ENTRY_KILL_DONE ends it. -/
def State.killEntry (s : State) (p : PId) (e : Nat) : State :=
  let r := s.proc p
  if (r.entry e).st = .empty then s else
  let s := (s.setEntry p e { r.entry e with killing := true }).failMove p fun m => m.entry == e
  let mine := (s.entryThreads p e).filterMap (·.2.band)
  let own := ((s.proc p).bands.filter fun b => b.2.entry == e).map fun b => (⟨b.1, b.2.epoch⟩ : BandRef)
  let out := ((s.proc p).sbands.filter fun b => b.1.1 == e).map fun b => (⟨b.1.2, b.2.epoch⟩ : BandRef)
  let s := (mine ++ own ++ out).foldl (fun s b => s.killBand p b) s
  let s := (s.entryThreads p e).foldl (fun s x => s.killThread x.1) s
  let s := s.modProc p fun r =>
    { r.dropMirror e with stiles := r.stiles.filter (fun x => x.1.1 != e), sseqs := r.sseqs.drop e }
  s.cancelOps fun o => o.t.p == p && o.entry == e

/-- ENTRY_KILL_DONE. -/
def State.killDone (s : State) (p : PId) (e : Nat) : State :=
  let r := s.proc p
  if (r.entry e).killing ∧ (s.entryThreads p e).isEmpty ∧ !(r.bands.any fun b => b.2.entry == e) ∧ !(r.move.any (·.entry == e)) ∧
      !(s.ops.any fun o => o.t.p == p && o.entry == e) then s.moveEntry p e .empty
  else s

/-- ENTRY_DONE. -/
def State.entryDone (s : State) (p : PId) (e : Nat) : State :=
  let r := s.proc p
  if (r.entry e).st = .active ∧ (s.entryThreads p e).isEmpty ∧ !(r.bands.any fun b => b.2.entry == e) then s.moveEntry p e .done
  else s

/-- QUANTUM_EXPIRY. -/
def State.quantumExpiry (s : State) (p : PId) (e : Nat) : State :=
  let r := s.proc p
  let n := r.entry e
  if n.st = .active ∧ n.quantum ≠ 0 ∧ n.quantum ≤ s.atime p n ∧
      (r.slots.any fun x => x.1 != e && x.2.pending && x.2.overlaps n && x.2.prio == n.prio) then s.stopEntry p e
  else s

/-! Contexts (R322). -/

/-- The kill of a context: entries, bands, threads, operations, translations and verdicts. -/
def State.killContext (s : State) (gs x : Nat) : State :=
  let q := s.site gs
  let c := q.ctx x
  if c.st ≠ 1 then s else
  let s := s.setSite gs { q with
    ctxs := q.ctxs.put x { c with st := 2 }
    stlb := q.stlb.filter (·.ctx != c.id)
    grants := q.grants.filter (·.ctx != c.id) }
  let procs := (List.range 102).map fun n => (⟨gs, n⟩ : PId)
  procs.foldl (fun s p =>
    let s := s.modProc p fun r => { r with tlb := r.tlb.filter (·.ctx != c.id) }
    let s := ((s.proc p).slots.filter fun e => e.2.st != .empty && e.2.ctx == c.id).foldl (fun s e => s.killEntry p e.1) s
    let s := s.failMove p fun m => m.ctx == c.id
    let bands := (s.liveThreads p).filterMap fun t => if t.2.ctx = c.id then t.2.band else none
    let s := bands.foldl (fun s k => s.killBand p k) s
    let s := ((s.liveThreads p).filter fun t => t.2.ctx == c.id).foldl (fun s t => s.killThread t.1) s
    s.cancelOps fun o => o.t.p == p && o.ctx == c.id) s

/-- CTX_FREE: the dying entry becomes free once nothing of it is left. -/
def State.freeContext (s : State) (gs x : Nat) : State :=
  let q := s.site gs
  let c := q.ctx x
  if c.st = 2 ∧ !(s.procs.any fun p => p.1.site == gs && (p.2.move.any (·.ctx == c.id) ||
        p.2.slots.any fun e => e.2.st != .empty && e.2.ctx == c.id)) ∧
      !(s.threads.any fun t => t.1.p.site == gs && t.2.st != .free && t.2.ctx == c.id) ∧
      !(s.ops.any fun o => o.t.p.site == gs && o.ctx == c.id) ∧
      !(s.procs.any fun p => p.1.site == gs && p.2.closing.any fun y => y.ctx == c.id && y.chunk) ∧
      !(s.reqs.any fun r => r.t.p.site == gs && r.ctx == c.id && match r.kind with | .coll _ _ _ => true | _ => false) then
    s.setSite gs { q with ctxs := q.ctxs.put x { c with st := 0 } }
  else s

/-- CTX_CREATE: a free entry becomes live, its timelines and counters zero, its translations dropped. -/
def State.createContext (s : State) (gs x : Nat) : State :=
  let q := s.site gs
  let c := q.ctx x
  if c.st ≠ 0 ∨ (q.ctxIdx c.id).isSome then s else
  let s := s.setSite gs { q with ctxs := q.ctxs.put x { c with st := 1 }, stlb := q.stlb.filter (·.ctx != c.id) }
  { s with procs := s.procs.map fun p =>
      if p.1.site = gs then
        (p.1, { p.2 with
          tls := p.2.tls.filter (·.1.1 != x), perf := p.2.perf.filter (·.1.1 != x), tlb := p.2.tlb.filter (·.ctx != c.id) })
      else p }

end Sys2Proof.Machine
end

