-- ==== Sys2Proof/Machine/Flow.lean ====
section
/-! DEFINITION. Threads, bands and control instructions (R87 to R127). -/
namespace Sys2Proof.Machine

/-- No check beyond those of decode. -/
def noCheck (_ : State) (_ : Env) : Option (Nat × Word) := none

/-- Run a clause-ending instruction in lane order. -/
def State.ending (s : State) (pn : Bool) (pr : BitVec 3) (check : State → Env → Option (Nat × Word))
    (effect : State → Env → State) : Out := .next (s.runEnd pn pr id check effect)

def allOnes : Word := BitVec.allOnes 64

/-! NOP, YIELD, SLEEP, EXIT (R117). -/

def execNop (_b : BForm) (s : State) : Out :=
  .next (s.mapLanes fun _ l => if l.active then l.shift none else l)

/-- The youngest place of the age order (R32, R93). -/
def State.youngest (s : State) (t : TId) : State := s.modTh t fun th => { th with age := s.cycles t.p }

def execYield (b : BForm) (s : State) : Out := s.ending b.pn b.pr noCheck fun s e => s.youngest e.tid

def execSleep (b : BForm) (cycles : BitVec 24) (s : State) : Out :=
  s.ending b.pn b.pr noCheck fun s e =>
    let c := (e.g b.a).toNat % 2 ^ 32 + cycles.toNat
    if c = 0 then s.youngest e.tid else s.park e.tid (.sleep (s.cycles e.p + c))

def execExit (b : BForm) (s : State) : Out := s.ending b.pn b.pr noCheck fun s e => s.retire e.tid false 0

/-! Control transfers (R119). -/

/-- The relative target. -/
def target (f : Flight) (off : BitVec 32) : Word := f.addr + 8 * off.signExtend 64

def State.jump (s : State) (t : TId) (a : Word) : State := s.modTh t fun th => { th with pc := a }

/-- The illegal-header trap of an unaligned target. -/
def misTarget (a : Word) : Option (Nat × Word) := if a.toNat % 8 = 0 then none else some (1, a)

def execBra (j : JForm) (s : State) : Out := s.ending j.pn j.pr noCheck fun s e => s.jump e.tid (target e.f j.off)

def execBrc (j : JForm) (s : State) : Out :=
  s.ending j.pn j.pr noCheck fun s e => if e.g j.a ≠ 0 then s.jump e.tid (target e.f j.off) else s

def execBrx (b : BForm) (s : State) : Out :=
  s.ending b.pn b.pr (fun _ e => misTarget (e.g b.a)) fun s e => s.jump e.tid (e.g b.a)

/-- `call_effect`: open a frame linked to the fall-through header. -/
def State.callTo (s : State) (e : Env) (a : Word) : State :=
  let (id, s) := s.fresh
  s.modTh e.tid fun th => { th.openFrame id e.f.next with pc := a }

/-- The checks of a call: the target first, then the window. -/
def callCheck (e : Env) (a : Word) : Option (Nat × Word) :=
  match misTarget a with
  | some x => some x
  | none => if e.t.frames.length = 6 then some (17, 0) else none

def execCall (j : JForm) (s : State) : Out :=
  s.ending j.pn j.pr (fun _ e => callCheck e (target e.f j.off)) fun s e => s.callTo e (target e.f j.off)

def execCallx (b : BForm) (s : State) : Out :=
  s.ending b.pn b.pr (fun _ e => callCheck e (e.g b.a)) fun s e => s.callTo e (e.g b.a)

def execRet (b : BForm) (s : State) : Out :=
  s.ending b.pn b.pr
    (fun _ e =>
      match misTarget e.t.lnk with
      | some x => some x
      | none => if e.t.frames.isEmpty then some (18, if e.t.spilled = 0 then 1 else 0) else none)
    fun s e => s.modTh e.tid fun th => { th.closeFrame with pc := e.t.lnk }

/-! SPAWN (R88, R120, R333). -/

/-- Whether a slot of a lane is open to launches and SPAWN of an entry: below HLO under HRES on a core (R234), within the entry's
rows (R333); the framer has no slot table. -/
def Proc.rowOpen (r : Proc) (p : PId) (entry row : Nat) : Bool :=
  let n := r.entry entry
  (kindOf p != .core || !r.hres || decide (row < r.hlo)) &&
    (n.st == .empty || (decide (n.slo ≤ row) && decide (row ≤ n.shi)))

/-- The lowest free slot of a lane open to SPAWN. -/
def State.spawnSlot (s : State) (p : PId) (entry lane : Nat) : Option Nat :=
  (List.range (slotsOf p)).find? fun k => (s.proc p).rowOpen p entry k && (s.th ⟨p, lane, k⟩).st == .free

/-- What SPAWN answers, and the slot it takes: the row lowest in the table of R120 that applies. -/
def State.spawnCode (s : State) (e : Env) (b : BForm) (join : Bool) : Word × Option Nat :=
  let lane := (e.g b.b).toNat
  if (e.g b.a).toNat % 8 ≠ 0 then (0xFFFFFFFFFFFFFFFD, none)
  else if lanesOf e.p ≤ lane then (0xFFFFFFFFFFFFFFFE, none)
  else
    let full := match e.t.band with
      | some br => (((s.proc e.p).band br).map fun x => decide (512 ≤ x.members.length)).getD false
      | none => false
    if join && full then (0xFFFFFFFFFFFFFFFC, none)
    else match s.spawnSlot e.p e.t.entry lane with
      | none => (allOnes, none)
      | some k => (BitVec.ofNat 64 k, some k)

def execSpawn (b : BForm) (join : Bool) (s : State) : Out :=
  s.ending b.pn b.pr noCheck fun s e =>
    let r := s.spawnCode e b join
    let s := match r.2 with
      | none => s
      | some k =>
        let child : TId := ⟨e.p, (e.g b.b).toNat, k⟩
        let par := s.th e.tid
        let mark := s.nextId + 1
        let s := s.create child par.ctx par.entry (e.g b.a) fun th =>
          { th with
            gr := Vector.ofFn fun n : Fin 32 =>
              if 1 ≤ n.val ∧ n.val ≤ 7 then e.t.g n.val else if n.val = 8 then e.g b.c else 0
            fcsr := par.fcsr, mcov := par.mcov, mrho := par.mrho, gsd := par.gsd
            acqRet := par.acqRet, acqWaf := par.acqWaf
            kin := (e.tid, mark) :: par.kin }
        if join then (match par.band with | some br => s.joinBand child br | none => s) else s
    s.putG e.tid b.dst r.1

/-! Bands (R121). -/

def execBandnew (b : BForm) (s : State) : Out :=
  .next (s.runEnd b.pn b.pr byAge
    (fun s e => if (s.th e.tid).band.isSome then some (15, allOnes) else none)
    fun s e =>
      -- a number that a stopped entry holds is freed for the claim (R345)
      let s := s.claimBands e.p e.t.entry 1
      match (s.proc e.p).freeBand with
      | none => s.putG e.tid b.dst allOnes
      | some k =>
        let r := s.newBand e.p k ((e.g b.a).extractLsb' 0 48) e.t.entry
        (r.2.joinBand e.tid r.1).putG e.tid b.dst (handleOf r.1))

def execJoin (b : BForm) (s : State) : Out :=
  .next (s.runEnd b.pn b.pr byAge
    (fun s e =>
      let r := s.proc e.p
      if (s.th e.tid).band.isSome then some (15, e.g b.a) else
      match (r.handle (e.g b.a)).bind r.band with
      | none => some (15, e.g b.a)
      | some x => if 512 ≤ x.members.length then some (15, e.g b.a) else none)
    fun s e => match (s.proc e.p).handle (e.g b.a) with
      | some br => s.joinBand e.tid br
      | none => s)

def execLeave (b : BForm) (s : State) : Out :=
  .next (s.runEnd b.pn b.pr byAge
    (fun s e => if (s.th e.tid).band.isNone then some (15, allOnes) else none)
    fun s e => s.leaveBand e.tid)

/-- The answer of BANDQ. -/
def State.bandqWord (s : State) (p : PId) (query : Nat) (h row : Word) : Word :=
  let r := s.proc p
  match r.handle h with
  | none => 0
  | some br =>
    match r.band br with
    | none => 0
    | some x =>
      match query with
      | 0 => BitVec.ofNat 64 x.members.length
      | 1 => x.coord.setWidth 64
      | 2 =>
        if 16 ≤ row.toNat then 0
        else BitVec.ofNat 64 ((List.range 32).foldl
          (fun a l => a + boolN (x.members.contains (l, row.toNat)) * 2 ^ l) 0)
      | _ =>
        BitVec.ofNat 64 (boolN (r.seq.band == some br && r.seq.st != .unbound) * 2 ^ 17 + 2 ^ 16 +
          (List.range 16).foldl (fun a i => a + boolN ((x.bar i).exp != 0) * 2 ^ i) 0)

def execBandq (b : BForm) (query : BitVec 2) (s : State) : Out :=
  .next (s.pureG b fun e => e.s.bandqWord e.p query.toNat (e.g b.a) (e.g b.b))

/-! Rejoin (R122): the lanes act together, the check runs once afterwards. -/

/-- The check after the group's commits. -/
def State.rjAfter (s : State) (j : BitVec 3) : State :=
  match s.flights with
  | f :: _ => s.rjCheck f.p f.row j.toNat
  | [] => s

def execRjen (b : BForm) (j : BitVec 3) (s : State) : Out :=
  s.ending b.pn b.pr noCheck fun s e =>
    let v := (s.proc e.p).rejoin e.f.row j.toNat
    s.setRj e.p e.f.row j.toNat (v.1 ||| (1#32 <<< e.l.lane)) v.2

def execRjwait (b : BForm) (j : BitVec 3) (s : State) : Out :=
  .next ((s.runEnd b.pn b.pr id noCheck fun s e =>
    let v := (s.proc e.p).rejoin e.f.row j.toNat
    if v.1.getLsbD e.l.lane then
      (s.setRj e.p e.f.row j.toNat v.1 (v.2 ||| (1#32 <<< e.l.lane))).park e.tid (.rejoin j.toNat)
    else s).rjAfter j)

def execRjstrike (b : BForm) (j : BitVec 3) (s : State) : Out :=
  .next ((s.runEnd b.pn b.pr id noCheck fun s e =>
    let v := (s.proc e.p).rejoin e.f.row j.toNat
    let m : BitVec 32 := ~~~(1#32 <<< e.l.lane)
    s.setRj e.p e.f.row j.toNat (v.1 &&& m) (v.2 &&& m)).rjAfter j)

/-! Barrier objects (R123). -/

/-- The object of the thread's own band. -/
def State.ownBar (s : State) (t : TId) (i : BitVec 4) : Option (BandRef × Bar) :=
  match (s.th t).band with
  | none => none
  | some br => (s.bar t.p br i.toNat).map fun bo => (br, bo)

/-- The band a BARW or BART names. -/
def State.barBand (s : State) (e : Env) (h : Src) (x : Bool) : Option BandRef :=
  if x then (s.proc e.p).handle (e.g h) else (s.th e.tid).band

/-- %ti of the barrier-dead fault (R104). -/
def deadInfo (h : Word) (i : BitVec 4) : Word := BitVec.ofNat 64 (i.toNat * 2 ^ 32 + h.toNat % 2 ^ 32)

/-- The check of BARW and BART: with X a stale handle is barrier-dead; without, a thread in no band is band-state. -/
def State.waitCheck (s : State) (e : Env) (h : Src) (i : BitVec 4) (x : Bool) : Option (Nat × Word) :=
  match s.barBand e h x with
  | none => if x then some (16, deadInfo (e.g h) i) else some (15, allOnes)
  | some br => match s.bar e.p br i.toNat with
    | none => some (16, deadInfo (handleOf br) i)
    | some _ => none

def execBari (b : BForm) (bar : BitVec 4) (s : State) : Out :=
  s.ending b.pn b.pr
    (fun s e =>
      if (s.ownBar e.tid bar).isNone ∨ e.g b.a = 0 ∨ 512 < (e.g b.a).toNat then some (15, allOnes) else none)
    fun s e => match s.ownBar e.tid bar with
      | none => s
      | some (br, bo) => s.setBar e.p br bar.toNat { bo with exp := (e.g b.a).toNat % 1024, arr := 0, txp := 0 }

def execBara (b : BForm) (bar : BitVec 4) (wait : Bool) (scope : BitVec 2) (s : State) : Out :=
  s.ending b.pn b.pr
    (fun s e => match s.ownBar e.tid bar with
      | none => some (15, allOnes)
      | some (_, bo) => if bo.exp = 0 then some (15, allOnes) else none)
    fun s e => match s.ownBar e.tid bar with
      | none => s
      | some (br, bo) =>
        let s := (s.barArrive e.p br bar.toNat scope.toNat).putG e.tid b.dst (bo.gen.setWidth 64)
        if !wait then s
        else match s.bar e.p br bar.toNat with
          | some bo' =>
            if phaseDone bo'.gen bo.gen then s.acquire e.tid (bo'.scopeOf bo.gen)
            else s.park e.tid (.barrier br bar.toNat bo.gen.toNat)
          | none => s

def execBarx (b : BForm) (bar : BitVec 4) (s : State) : Out :=
  s.ending b.pn b.pr
    (fun s e => if (s.ownBar e.tid bar).isNone then some (15, allOnes) else none)
    fun s e => match s.ownBar e.tid bar with
      | none => s
      | some (br, bo) =>
        (s.setBar e.p br bar.toNat { bo with txp := bo.txp + (e.g b.a).setWidth 32 }).tryComplete e.p br bar.toNat

def execBarw (b : BForm) (bar : BitVec 4) (x : Bool) (s : State) : Out :=
  s.ending b.pn b.pr (fun s e => s.waitCheck e b.b bar x)
    fun s e => match s.barBand e b.b x with
      | none => s
      | some br => match s.bar e.p br bar.toNat with
        | none => s
        | some bo =>
          let n : BitVec 32 := (e.g b.a).setWidth 32
          if phaseDone bo.gen n then s.acquire e.tid (bo.scopeOf n)
          else s.park e.tid (.barrier br bar.toNat n.toNat)

def execBart (b : BForm) (bar : BitVec 4) (x : Bool) (s : State) : Out :=
  s.ending b.pn b.pr (fun s e => s.waitCheck e b.b bar x)
    fun s e => match s.barBand e b.b x with
      | none => s
      | some br => match s.bar e.p br bar.toNat with
        | none => s
        | some bo =>
          let n : BitVec 32 := (e.g b.a).setWidth 32
          if phaseDone bo.gen n then (s.acquire e.tid (bo.scopeOf n)).putG e.tid b.dst 1
          else s.putG e.tid b.dst 0

/-! VOTE and SHFL (R124, R125). -/

/-- The participating lanes of the issue group: guard true. -/
def Flight.taking (f : Flight) (b : BForm) : List LaneRun := f.lanes.filter fun l => l.guard b.pn b.pr

/-- The lanes that vote true. -/
def State.votes (s : State) (f : Flight) (b : BForm) : List LaneRun :=
  (f.taking b).filter fun l => Env.pr ⟨s, f, l⟩ b.a

def execVote (b : BForm) (mode : BitVec 2) (s : State) : Out :=
  if mode = 3 then
    .next (s.pureG b fun e => BitVec.ofNat 64 ((e.s.votes e.f b).foldl (fun a l => a + 2 ^ l.lane) 0))
  else
    .next (s.pureP b fun e =>
      let v := (e.s.votes e.f b).length
      let n := (e.f.taking b).length
      match mode.toNat with
      | 0 => v == n
      | 1 => v != 0
      | _ => v == n || v == 0)

/-- The source lane of SHFL. -/
def shflLane (mode c l : Nat) (sel : Word) : Nat :=
  let w := 32 / 2 ^ c
  let base := l - l % w
  let m := sel.toNat % w
  match mode with
  | 0 => base + m
  | 1 => if sel.toNat < w ∧ base + sel.toNat ≤ l then l - sel.toNat else l
  | 2 => if sel.toNat < w ∧ l + sel.toNat < base + w then l + sel.toNat else l
  | _ => base + ((l - base) ^^^ m)

def execShfl (b : BForm) (mode : BitVec 2) (seg : BitVec 3) (s : State) : Out :=
  .next (s.pureG b fun e =>
    let src := shflLane mode.toNat seg.toNat e.l.lane (e.g b.b)
    match (e.f.taking b).find? (·.lane == src) with
    | some l => Env.g ⟨e.s, e.f, l⟩ b.a
    | none => e.g b.a)

/-! The truss (R126). -/

def execTra (b : BForm) (ch : BitVec 4) (s : State) : Out :=
  s.ending b.pn b.pr noCheck fun s e =>
    let r := s.proc e.p
    let part := ((s.site e.p.site).mask ch.toNat).getLsbD e.p.core
    (s.setProc e.p { r with
      tarr := r.tarr.put ch.toNat true
      tpart := if r.tarr.get false ch.toNat then r.tpart else r.tpart.put ch.toNat part }).putG e.tid b.dst ((r.tgen.get 0 ch.toNat).setWidth 64)

def execTrw (b : BForm) (ch : BitVec 4) (s : State) : Out :=
  s.ending b.pn b.pr noCheck fun s e =>
    let n : BitVec 32 := (e.g b.a).setWidth 32
    if phaseDone ((s.proc e.p).tgen.get 0 ch.toNat) n then s.acquire e.tid 2
    else s.park e.tid (.truss ch.toNat n.toNat)

/-- TRQ: the latch takes what the channel shows now, the register what it shows at commit. -/
def execTrq (b : BForm) (ch : BitVec 4) (s : State) : Out :=
  let late (l : LaneRun) : LaneRun :=
    if l.active && l.guard b.pn b.pr && !b.nw then { l with acts := l.acts ++ [.trq ch.toNat b.dst.toNat (l.writes.length + 1)] } else l
  .next ((s.mapHead late).pureG b fun e => e.s.trqWord e.p ch.toNat)

/-! KLAUNCH (R127, R325). -/

/-- A lane that neither commits nor traps: its thread stays at the clause header. -/
def LaneRun.freeze (l : LaneRun) : LaneRun := { l with frozen := true }

/-- A lane that waits to commit, its clause in flight (R246). -/
def LaneRun.await (l : LaneRun) : LaneRun := { l with stall := true }

/-- A fault taken asynchronously at the header, for poisoned bytes read before commit (R210). -/
def LaneRun.trapLater (l : LaneRun) (idx : Nat) (info : Word) : LaneRun :=
  if l.fault.isSome then l else { l with fault := some ⟨idx, 12, info, true⟩ }

/-- Carry an instruction that reads `n` bytes before commit over the lanes: `addr` names the address and what faults
first; `use` takes the bytes to the fault of a bad descriptor or to the effect after the lane's commit. -/
def State.runRead (s : State) (pn : Bool) (pr : BitVec 3) (n : Nat) (addr : Env → Except (Nat × Word) Word)
    (use : State → Env → List Byte → Except (Nat × Word) (State → State)) : State :=
  s.foldLanes id fun s f l =>
    if !l.active || !l.guard pn pr then (s, l)
    else
      let e : Env := ⟨s, f, l⟩
      match addr e with
      | .error (c, i) => (s, l.trap f.idx c i)
      | .ok va =>
        match s.readVirt e.tid e.t.ctx l.queued va n with
        | (.dead, s) => (s, l.freeze)
        | (.wait, s) => (s, l.await)
        | (.trap c a, s) => (s, l.trap f.idx c a)
        | (.ok b poison, s) =>
          if poison then (s, l.trapLater f.idx va)
          else match use s e b with
            | .error (c, i) => (s, l.trap f.idx c i)
            | .ok g =>
              let r := s.commitLane f l
              (g r.1, r.2)

/-- The lowest free entry of the device-launch buffer. That it is the lowest, and that the lanes of a group take theirs in lane
order, is the model's choice (DESIGN CHOICE, log 14): R325 asks for an entry whose OCC reads 0. -/
def Site.freeDl (q : Site) : Option Nat := (List.range 64).find? fun i => !(q.dl i).occ

/-- Place a launch record in a buffer entry and raise DLAUNCH. -/
def State.postLaunch (s : State) (t : TId) (i : Nat) (image : List Byte) (sel : Word) : State :=
  let bad := decide (64 ≤ sel.toNat)
  (s.modSite t.p.site fun q => { q with dlaunch := q.dlaunch.put i ⟨image, true, bad, if bad then 0 else sel.toNat⟩ }).raiseTh
    t 2 i

def execKlaunch (b : BForm) (s : State) : Out :=
  .next (s.foldLanes id fun s f l =>
    if !l.active || !l.guard b.pn b.pr then (s, l)
    else
      let e : Env := ⟨s, f, l⟩
      let va := e.g b.a
      if va.toNat % 256 ≠ 0 then (s, l.trap f.idx 7 va)
      else match s.readVirt e.tid e.t.ctx l.queued va 256 with
        | (.dead, s) => (s, l.freeze)
        | (.wait, s) => (s, l.await)
        | (.trap c a, s) => (s, l.trap f.idx c a)
        | (.ok bytes poison, s) =>
          if poison then (s, l.trapLater f.idx va)
          else match (s.site e.p.site).freeDl with
            | none => (s, l.await)
            | some i =>
              let r := s.commitLane f l
              (r.1.postLaunch e.tid i bytes (e.g b.b), r.2))

end Sys2Proof.Machine
end

