-- ==== Sys2Proof/Machine/Control.lean ====
section
/-! DEFINITION. What a store to a control-space word does (R25, R317 to R323, R325, R341, R342 and the registers of the
other chapters), with the events that are such stores. -/
namespace Sys2Proof.Machine

def maskW (v m : Word) : Word := v &&& m

/-! Registers with behaviour of their own. -/

/-- A write to half of a source window table entry (R195): every verdict for the target goes from every grant cache
(R197). -/
def State.writeWindow (s : State) (gs row entry : Nat) (hi : Bool) (v : Word) : State :=
  let s := s.modSite gs fun q =>
    let w := q.windows.get ⟨0, 0⟩ (row, entry)
    let w := if hi then { w with hi := maskW v 0xF801FFFFFFFFFFFF } else { w with lo := v }
    { q with windows := q.windows.put (row, entry) w }
  { s with sites := s.sites.map fun e =>
      (e.1, { e.2 with grants := e.2.grants.filter fun g => !(g.waf == siteWaf gs && g.site == gs % 64) }) }

/-- GO of the scrub engine (R323): the range is taken as it stands; a GO while a scrub is in progress is ignored (log 31). -/
def State.scrubStart (s : State) (gs : Nat) : State :=
  let q := s.site gs
  if q.scrub.busy then s else
  let n := q.scrub.limit + 1 - q.scrub.base
  let ok := decide (q.scrub.base ≤ q.scrub.limit) && match paRegion (mkPa gs q.scrub.base) n with
    | some .dram | some .poolSram => true
    | _ => false
  s.setSite gs { q with scrub := if ok then { q.scrub with busy := true, lo := q.scrub.base, hi := q.scrub.limit } else { q.scrub with err := true } }

/-- Norm registers (R76, R270). -/
def Norm.stat (n : Norm) (v : Word) : Norm := { n with sat := n.sat && !v.getLsbD 33, uf := n.uf && !v.getLsbD 32 }
def State.setNorm (s : State) (gs k : Nat) (f : Norm → Norm) : State :=
  s.modSite gs fun q => { q with norms := q.norms.put k (f (q.norm k)) }
def State.normZero (s : State) (gs k : Nat) : State := s.setNorm gs k fun _ => ⟨0, false, false, 0⟩

/-- Accumulation of a square (R77); the value is an FP36 code, which holds every FP32, FP16 and BF16 value exactly. -/
def Norm.acc (n : Norm) (x : BitVec 36) : Norm :=
  match NF.fp36.decode x.toNat with
  | .fin _ m e _ =>
    if m = 0 then n else
    let k := 2 * e + 48
    let q : Nat := if 0 ≤ k then m * m * 2 ^ k.toNat else m * m / 2 ^ (-k).toNat
    if q = 0 then { n with uf := true, ufcnt := min (n.ufcnt + 1) (2 ^ 32 - 1) }
    else if 2 ^ 96 - 1 < n.v.toNat + q then { n with v := BitVec.allOnes 96, sat := true }
    else { n with v := n.v + BitVec.ofNat 96 q }
  | _ => { n with v := BitVec.allOnes 96, sat := true }

/-- A write to a word of the context table (R321, R322). -/
def State.writeCtx (s : State) (gs x k : Nat) (v : Word) : State :=
  let c := (s.site gs).ctx x
  let put (c : Ctx) : State := s.modSite gs fun q => { q with ctxs := q.ctxs.put x c }
  match k with
  | 0 =>
    let s := if c.st = 0 then put { c with id := bitsOf v 15 0 } else s
    match bitsOf v 60 58 with
    | 1 => s.createContext gs x
    | 2 => s.killContext gs x
    | _ => s
  | 1 => put { c with ptroot := maskW v 0x7FFFFFFFFFFFE000 }
  | 2 => put { c with tvec := maskW v 0xFFFFFFFFFFFFFFF8 }
  | 3 => put { c with save := maskW v 0xFFFFFFFFFFC00000 }
  | _ => s

/-- The current limit word (R381). -/
def Site.writeLimit (q : Site) (v : Word) : Site := { q with ilim := min (bitsOf v 15 0) 4800 }

/-- Keep since when the current stays below 95 % of its limit (R382). -/
def Site.watchCurrent (q : Site) (now : Nat) : Site :=
  { q with below := if 100 * q.iout < 95 * q.ilim then some (q.below.getD now) else none }

/-- The hardware measures DETUNE of a ring (R384): on a change of its lock, and of what its register sets. -/
def State.measure (s : State) (gs k : Nat) : State :=
  let (n, s) := s.draw
  s.modSite gs fun q =>
    { q with rings := q.rings.put k { q.rings.get ⟨false, false, 0, 0, 0⟩ k with detune := Config.detune gs k n } }

/-- The wafer master's firmware writes the end-of-life word (R385): HEALTH when the prediction falls below 12 months. -/
def State.writeEol (s : State) (gs : Nat) (v : Word) : State :=
  let old := (s.site gs).eol
  let s := s.modSite gs fun q => { q with eol := maskW v 0xFFFF }
  if bitsOf v 7 0 < 12 ∧ (old = 0 ∨ 12 ≤ bitsOf old 7 0) then s.health gs 3 (bitsOf v 15 8) else s

/-- The framer's firmware makes an entry of its own in the error log (R328, R387): stores to words 0 to 2 of slot NEXT, which the
store to word 3 completes with the time (log 34). -/
def State.writeLog (s : State) (gs k w : Nat) (v : Word) : State :=
  let q := s.site gs
  if k ≠ q.logNext then s
  else if (q.logNext + 1) % 1024 = q.logHead then
    if w = 3 then s.setSite gs { q with logLost := min (q.logLost + 1) 65535 } else s
  else
    let e := q.log.get ⟨0, 0, 0, 0⟩ k
    match w with
    | 0 => s.setSite gs { q with log := q.log.put k { e with w0 := maskW v 0xFFFFFFFFFFFF003F } }
    | 1 => s.setSite gs { q with log := q.log.put k { e with w1 := v } }
    | 2 => s.setSite gs { q with log := q.log.put k { e with w2 := v } }
    | _ => s.setSite gs { q with log := q.log.put k { e with w3 := s.waferTime }, logNext := (q.logNext + 1) % 1024 }

/-- A word of a multicast set keeps the fields R309 gives it. -/
def mcsetMask (w : Nat) : Word :=
  if w = 0 then 0xFFFFFFFFFF else if w = 1 then 0x1FFFF else if w % 2 = 0 then BitVec.allOnes 64 else 0x807FFFFF

/-- LAUNCH of a watch (R342): accesses that complete in one tick raise one event, as long as it waits in the queue. -/
def State.raiseLaunch (s : State) (gs w : Nat) : State :=
  let q := s.site gs
  let word : Word := BitVec.ofNat 6 1 ++ BitVec.ofNat 7 127 ++ 0#25 ++ BitVec.ofNat 26 w
  if q.launched.find w = some s.tick ∧ (q.events.contains word ∨ 256 ≤ q.events.length) then s
  else (s.raise gs 1 127 0 0 0 w).modSite gs fun q => { q with launched := q.launched.put w s.tick }

/-- Watches whose word an access to framer SRAM touched (R342): one event each. -/
def State.watchHit (s : State) (pa n : Nat) : State :=
  let gs := paSite pa
  let a := paLocal pa
  if isCompute gs ∧ 0xF000000000 ≤ a ∧ a ≤ 0xF000FFFFFF then
    (List.range 16).foldl (fun s w =>
      let x := (s.site gs).watches.get 0 w
      let o := bitsOf x 23 3 * 8
      if x.getLsbD 63 ∧ a - 0xF000000000 < o + 8 ∧ o < a - 0xF000000000 + n then s.raiseLaunch gs w else s) s
  else s

/-! TCTL and the windows (R319, R320). -/

/-- Resume a HELD thread: READY, or with its entry STOPPED stopped as READY (R89, R320, R344). -/
def State.resumeThread (s : State) (t : TId) : State :=
  let th := s.th t
  if th.st = .held then
    let th : Thread := { th with st := .ready, why := 0, age := s.cycles t.p, tst := th.tst &&& ~~~1#64 }
    s.setTh t (if ((s.proc t.p).entry th.entry).st = .stopped then th.stop else th)
  else s

/-- A store to PC. -/
def State.writePc (s : State) (t : TId) (v : Word) : State :=
  let th := s.th t
  if th.st = .held ∨ th.st = .stopped then s.setTh t { th with pc := v } else s

/-! The processor block (R318). -/

/-- Bytes posted to the operation's barrier object as a unit settles (R242). -/
def State.post (s : State) (o : Op) (bytes : Nat) : State :=
  match o.bar with
  | some (b, i) => if bytes = 0 then s else s.barPost o.t.p b i bytes o.scope
  | none => s

/-- The postings of `n` units settled together, one unit after another (R242). -/
def State.postUnits (s : State) (o : Op) : Nat → State
  | 0 => s
  | n + 1 => (s.post o o.kind.unitBytes).postUnits o n

/-- The framer's answer to a fault record (R239): RETRY gives the held units back to their engines, ABANDON counts them in
FAILED, posting the bytes of a copy's units (R242). -/
def State.faultAnswer (s : State) (p : PId) (slot : Nat) (abandon : Bool) : State :=
  match (s.proc p).efq.find slot with
  | none => s
  | some _ =>
    let s := s.modProc p fun r => { r with efq := r.efq.drop slot }
    let mine (o : Op) : List Nat := (o.held.filter (·.2 == slot)).map (·.1)
    let touched := s.ops.filter fun o => o.t.p == p && !(mine o).isEmpty
    let s : State := { s with ops := s.ops.map fun o =>
      if o.t.p = p then
        { o with
          held := o.held.filter (·.2 != slot)
          again := if abandon then o.again else o.again ++ mine o
          failed := if abandon then o.failed + (mine o).length else o.failed }
      else o }
    if abandon then touched.foldl (fun s o => s.postUnits o (mine o).length) s else s

/-- Kill the band that the windows show under a number (R318, R346). -/
def State.killShown (s : State) (p : PId) (k : Nat) : State :=
  match (s.proc p).shownBand k with
  | some b => s.killBand p ⟨k, b.epoch⟩
  | none => s

/-- A store to a word of a processor block. -/
def State.writeProc (s : State) (p : PId) (off : Nat) (v : Word) : State :=
  let core := kindOf p == .core
  if off = 0 then
    if core then s.modProc p fun r => { r with thrEn := v.getLsbD 31, thr := bitsOf v 15 0 } else s
  else if off = 8 then
    if core then s.modProc p fun r =>
      { r with hres := v.getLsbD 17, hlo := bitsOf v 15 12, hmax := max 1 (min 512 (bitsOf v 9 0)) } else s
  else if 0x180 ≤ off ∧ off < 0x1C0 then s.faultAnswer p (bitsOf v 2 0) (v.getLsbD 3)
  else if 0x1000 ≤ off ∧ off < 0x9000 ∧ (off - 0x1000) % 512 = 24 then
    if v.getLsbD 0 then s.killShown p ((off - 0x1000) / 512) else s
  else if 0x200000 ≤ off ∧ off < 0x400000 then
    let k := (off - 0x200000) / 0x1000
    let t := s.windowThread p (k / 16) (k % 16)
    if off % 0x1000 = 0 then
      match bitsOf v 57 56 with
      | 1 => s.resumeThread t
      | 2 => s.killThread t
      | _ => s
    else if off % 0x1000 = 8 then s.writePc t v
    else s
  else s

/-! The health region (R373, R379 to R387). -/

/-- A store to a word of the health region that only sets a register of the site. -/
def Site.writeHealth (q : Site) (off : Nat) (v : Word) : Site :=
  if off = 0 then { q with logHead := bitsOf v 9 0 }
  else if 0x100 ≤ off ∧ off < 0x200 then
    let k := (off - 0x100) / 8
    { q with hosts := q.hosts.put k (maskW v (if k % 2 = 0 then 0xFFFFFF else 0x80FFFF80FFFF0000)) }
  else if off = 0x208 then { q with lim := q.lim && !v.getLsbD 19 }
  else if off = 0x210 then q.writeLimit v
  else if 0x300 ≤ off ∧ off < 0x380 then
    let k := (off - 0x300) / 8
    let t := q.therm.get ⟨false, 0, 0⟩ k
    if v.getLsbD 31 then { q with therm := q.therm.put k { t with peak := 0 } } else q
  else if 0x400 ≤ off ∧ off < 0x480 then
    let k := (off - 0x400) / 8
    let r := q.rings.get ⟨false, false, 0, 0, 0⟩ k
    { q with rings := q.rings.put k { r with
        en := v.getLsbD 62, target := v.extractLsb' 16 16, heat := v.extractLsb' 0 16 } }
  else if 0xA000 ≤ off ∧ off < 0xB000 then { q with report := q.report.put ((off - 0xA000) / 8) v }
  else q

/-! The map of R317. -/

/-- A shadow routing table word (R291): one 64-bit entry, or four 16-bit entries on a pool reticle. -/
def Site.writeRoute (q : Site) (gs k : Nat) (v : Word) : Site :=
  if isCompute gs then { q with rtShadow := q.rtShadow.put k (maskW v 0xFFFFFF0000000FC0) }
  else
    let t := (List.range 4).foldl (fun (t : Tab Nat Word) j => t.put (4 * k + j) ((v.extractLsb' (16 * j) 9).setWidth 64))
      q.rtShadow
    { q with rtShadow := t }

/-- A store to a word of the health region (R373, R379 to R387) by the processor `src`, if one stores it. -/
def State.writeHealth (s : State) (gs off : Nat) (v : Word) (src : Option PId) : State :=
  let framer := match src with | some p => p.core == 96 | none => false
  let from' := match src with | some p => p.site | none => 0
  if off = 0x520 then
    if framer && siteWaf from' == siteWaf gs && (s.site from').master then s.writeEol gs v else s
  else if 0x1000 ≤ off ∧ off < 0x9000 then
    if framer && from' == (if isCompute gs then gs else reporting gs) then
      s.writeLog gs ((off - 0x1000) / 32) (off / 8 % 4) v
    else s
  else
    let s := s.modSite gs fun q => q.writeHealth off v
    if off = 0x210 then s.modSite gs fun q => q.watchCurrent s.tick
    else if 0x400 ≤ off ∧ off < 0x480 then s.measure gs ((off - 0x400) / 8) else s

/-- A store of a whole word to control space: `src` is the processor that stores, if one does. -/
def State.ctlWrite (s : State) (gs a : Nat) (v : Word) (src : Option PId) : State :=
  let o := a - 0xF800000000
  let c := isCompute gs
  if o < 0x1000 then s
  else if c ∧ o = 0x1000 then s.modSite gs fun q => { q with fabPrefix := v }
  else if c ∧ o = 0x1008 then s.modSite gs fun q => { q with egress := maskW v 0xBFBFBF }
  else if o = 0x2000 then s.modSite gs fun q => { q with scrub := { q.scrub with base := bitsOf v 39 0 } }
  else if o = 0x2008 then s.modSite gs fun q => { q with scrub := { q.scrub with limit := bitsOf v 39 0 } }
  else if o = 0x2010 then
    let s := if v.getLsbD 61 then s.modSite gs fun q => { q with scrub := { q.scrub with err := false } } else s
    if v.getLsbD 63 then s.scrubStart gs else s
  else if !c ∧ o = 0x3000 then s.modSite gs fun q => q.writeVersion v
  else if c ∧ 0x10000 ≤ o ∧ o < 0x10200 then
    match o / 8 % 4 with
    | 2 => s.setNorm gs ((o - 0x10000) / 32) fun n => n.stat v
    | 3 => s.normZero gs ((o - 0x10000) / 32)
    | _ => s
  else if c ∧ 0x20000 ≤ o ∧ o < 0x20100 then
    s.modSite gs fun q => { q with maskNext := q.maskNext ++ [((o - 0x20000) / 16, o / 8 % 2 == 1, v)] }
  else if 0x30000 ≤ o ∧ o < 0x30000 + (if c then 160 else 288) then
    let k := (o - 0x30000) / 8
    match bitsOf v 57 56 with
    | 1 => s.trainLink gs (k / 4) (k % 4)
    | 2 => s.downLink gs (k / 4) (k % 4)
    | _ => s
  else if 0x41000 ≤ o ∧ o < 0x41000 + (if c then 512 else 128) then
    s.modSite gs fun q => q.writeRoute gs ((o - 0x41000) / 8) v
  else if c ∧ 0x50000 ≤ o ∧ o < 0x58000 then
    s.modSite gs fun q => { q with mcsets := q.mcsets.put ((o - 0x50000) / 8) (maskW v (mcsetMask ((o - 0x50000) / 8 % 16))) }
  else if 0x60000 ≤ o ∧ o < 0x70000 then
    s.writeWindow gs ((o - 0x60000) / 1024) ((o - 0x60000) / 16 % 64) (o / 8 % 2 == 1) v
  else if c ∧ 0x80000 ≤ o ∧ o < 0x81000 then s.writeCtx gs ((o - 0x80000) / 64) (o / 8 % 8) v
  else if c ∧ o = 0x90000 then s.modSite gs fun q => { q with pend := q.pend &&& ~~~(v.extractLsb' 1 12) }
  else if c ∧ 0x90100 ≤ o ∧ o < 0x90180 then
    s.modSite gs fun q => { q with watches := q.watches.put ((o - 0x90100) / 8) (maskW v 0x8000000000FFFFF8) }
  else if c ∧ 0x95000 ≤ o ∧ o < 0x95200 then
    let i := (o - 0x95000) / 8
    if v.getLsbD 63 then s.modSite gs fun q => { q with dlaunch := q.dlaunch.put i { q.dl i with occ := false } } else s
  else if 0xA0000 ≤ o ∧ o < 0xB0000 then s.writeHealth gs (o - 0xA0000) v src
  else if c ∧ 0x10000000 ≤ o ∧ o < 0x10000000 + 102 * 0x400000 then
    s.writeProc ⟨gs, (o - 0x10000000) / 0x400000⟩ ((o - 0x10000000) % 0x400000) v
  else s

/-- A store of whole words, in ascending address order (R25). -/
def State.ctlStore (s : State) (gs a : Nat) (src : Option PId) : List Byte → Nat → State
  | _, 0 => s
  | b, n + 1 => (s.ctlWrite gs a (BitVec.ofNat 64 (ofBytes (b.take 8))) src).ctlStore gs (a + 8) src (b.drop 8) n

/-! The events. -/

/-- The control-space address of an offset. -/
def ctlAddr (o : Nat) : Nat := 0xF800000000 + o

def execRegisterWrite (site localAddr : Nat) (v : Word) (s : State) : Out := .next (s.ctlWrite site (localAddr / 8 * 8) v none)

def execWindowTableWrite (site row entry : Nat) (hi : Bool) (v : Word) (s : State) : Out :=
  .next (s.ctlWrite site (ctlAddr (0x60000 + row % 64 * 1024 + entry % 64 * 16 + boolN hi * 8)) v none)

def execScrubGo (site : Nat) (s : State) : Out := .next (s.ctlWrite site (ctlAddr 0x2010) 0x8000000000000000 none)

/-- SCRUB_DONE (R323): the range reads zero and holds no poison. A 64-byte block that lies only partly in the range loses its
poison too (DESIGN CHOICE, log 31: the spec does not say). -/
def execScrubDone (site : Nat) (s : State) : Out :=
  let q := s.site site
  if !q.scrub.busy then .next s else
  let lo := mkPa site q.scrub.lo
  let hi := mkPa site q.scrub.hi
  .next (({ s with
    mem := s.mem.filter fun c => !(decide (lo ≤ c.1) && decide (c.1 ≤ hi))
    poison := s.poison.filter fun b => !(decide (lo ≤ 64 * b + 63) && decide (64 * b ≤ hi)) } : State).setSite site
      { q with scrub := { q.scrub with busy := false } })

def execNormZero (site k : Nat) (s : State) : Out := .next (s.ctlWrite site (ctlAddr (0x10000 + 32 * (k % 16) + 24)) 0 none)
def execNormStatWrite (site k : Nat) (v : Word) (s : State) : Out :=
  .next (s.ctlWrite site (ctlAddr (0x10000 + 32 * (k % 16) + 16)) v none)

def execLinkTrain (site port link : Nat) (s : State) : Out := .next (s.trainLink site port link)
def execLinkTakeDown (site port link : Nat) (s : State) : Out := .next (s.downLink site port link)

def execTopologyVersionWrite (site : Nat) (v : Word) (s : State) : Out := .next (s.modSite site fun q => q.writeVersion v)

def execThreadResume (t : TId) (s : State) : Out := .next (s.resumeThread t)
def execThreadKill (t : TId) (s : State) : Out := .next (s.killThread t)
def execThreadPcWrite (t : TId) (v : Word) (s : State) : Out := .next (s.writePc t v)
def execCtxCreate (site x : Nat) (s : State) : Out := .next (s.createContext site x)
def execCtxKill (site x : Nat) (s : State) : Out := .next (s.killContext site x)
def execCtxFree (site x : Nat) (s : State) : Out := .next (s.freeContext site x)
def execBandKill (p : PId) (k : Nat) (s : State) : Out := .next (s.killShown p k)
def execFaultRetry (p : PId) (slot : Nat) (s : State) : Out := .next (s.faultAnswer p slot false)
def execFaultAbandon (p : PId) (slot : Nat) (s : State) : Out := .next (s.faultAnswer p slot true)
def execDlaunchEntryFree (site i : Nat) (s : State) : Out :=
  .next (s.modSite site fun q => { q with dlaunch := q.dlaunch.put i { q.dl i with occ := false } })
def execCurrentLimitWrite (site : Nat) (v : Word) (s : State) : Out :=
  .next (s.modSite site fun q => (q.writeLimit v).watchCurrent s.tick)

/-! Slot-table events. -/

def execEntryStopped (p : PId) (e : Nat) (s : State) : Out := .next (s.entryStopped p e)
def execScanOut (p : PId) (e : Nat) (s : State) : Out := .next (s.scanOut p e)
def execEntryActivate (p : PId) (e : Nat) (s : State) : Out := .next (s.activate p e)
def execQuantumExpiry (p : PId) (e : Nat) (s : State) : Out := .next (s.quantumExpiry p e)
def execEntryDone (p : PId) (e : Nat) (s : State) : Out := .next (s.entryDone p e)
def execEntryKillDone (p : PId) (e : Nat) (s : State) : Out := .next (s.killDone p e)

/-- BAND_NUMBER_RELEASE (R104): the number of an ended band is free again, once nothing waits to be sent for it. -/
def execBandNumberRelease (p : PId) (k : Nat) (s : State) : Out :=
  .next (s.modProc p fun r => { r with closing := r.closing.filter fun c => c.num != k || c.chunk })

end Sys2Proof.Machine
end

