-- ==== Sys2Proof/Machine/Home.lean ====
section
/-! DEFINITION. The way of an access to its home and back (R184, R189, R196 to R206, R210, R395): store queues, stores on
their way, performing at the home, cached copies, responses, and the events of these steps. -/
namespace Sys2Proof.Machine

/-! Threads by creation number. -/

/-- The slot in which a thread of a creation number stands now, in place or scanned out. -/
def State.locate (s : State) (t : TId) (gen : Nat) : Option TId :=
  if (s.th t).gen = gen ∧ (s.th t).st ≠ .free then some t
  else (s.threads.find? fun e => e.1.p == t.p && e.2.gen == gen && e.2.st != .free).map (·.1)

/-- A posted failure enters the issuer's error record (R198), in its poison part for the failures of R210. -/
def State.recordFail (s : State) (t : TId) (gen : Nat) (poison : Bool) (va : Word) : State :=
  match s.locate t gen with
  | none => s
  | some t =>
    let add (e : ErrPart) : ErrPart := ⟨if e.count = 0 then va else e.va, e.count + 1⟩
    s.modTh t fun th => if poison then { th with prec := add th.prec } else { th with erec := add th.erec }

/-- The report of posted failures (R198): each part that is not empty becomes a pending trap. -/
def Thread.report (th : Thread) : Thread :=
  let has (c : Nat) : Bool := th.pend.any fun x => x.ofRec && x.cause == c
  { th with pend := th.pend ++
      (if th.erec.count ≠ 0 ∧ !has 11 then [⟨11, 0, true⟩] else []) ++
      (if th.prec.count ≠ 0 ∧ !has 12 then [⟨12, 0, true⟩] else []) }

/-! Holds (R206, R218). -/

/-- Some store that a release by the thread of creation number `gen` carries is not yet acknowledged: one of its processor
numbered below `id`, or one that its loads have read, on its way or still in the queue of its spawner or its slot's former thread
(R120, R204, R205). -/
def State.owed (s : State) (p : PId) (gen id : Nat) : Bool :=
  (s.stores.any fun x => x.t.p == p && (decide (x.id < id) || x.readers.contains gen)) ||
    (s.proc p).queues.any fun q => q.2.any fun x => x.readers.contains gen

/-- What a hold waits for has come about; the earlier loads come before the acknowledgements, since what they acquire is
carried too. -/
def State.holdMet (s : State) (t : TId) (th : Thread) : Bool :=
  let h := th.hold
  let q := (s.proc t.p).queues.get [] (t.slot % 16)
  let mine (r : Req) : Bool := r.t == t && r.gen == th.gen && decide (r.id < h.before)
  (!h.loads || !(s.reqs.any fun r => mine r && r.isLoad)) &&
  (!(h.drained || h.acked) || !(q.any fun x => x.t == t && x.gen == th.gen && decide (x.id < h.before))) &&
  (!h.acked || !((s.reqs.any fun r => mine r && r.waiting) || s.owed t.p th.gen h.before)) &&
  h.icinv.isNone && h.tlbi.isNone

/-- End a hold whose conditions are met: the fence acquires, and posted failures are reported. -/
def State.settle (s : State) (t : TId) : State :=
  let th := s.th t
  if th.hold = Hold.empty ∨ th.st = .free then s
  else if s.holdMet t th then
    let r := if th.hold.report then th.report else th
    let u := s.setTh t { r with hold := Hold.empty }
    match th.hold.sc with | some scope => u.acquire t scope | none => u
  else s

/-- End every hold of a processor that can end. -/
def State.settleAll (s : State) (p : PId) : State :=
  ((s.liveThreads p).filter fun e => e.2.hold != Hold.empty).foldl (fun s e => s.settle e.1) s

/-- What the thread of creation number `gen` did before number `id` is done, for a release at a scope (R203, R205, R209): its loads
and atomics have been performed, the stores of its processor have left their queues, and, beyond core scope, what the release
carries has been acknowledged. -/
def State.carriedAt (s : State) (p : PId) (gen id scope : Nat) : Bool :=
  (scope == 0 || !s.owed p gen id) && !((s.proc p).queues.any fun q => q.2.any fun x => decide (x.id < id)) &&
  !(s.reqs.any fun r => r.gen == gen && decide (r.id < id) && r.waiting)

/-- The same for a release beyond core scope. -/
def State.carried (s : State) (p : PId) (gen id : Nat) : Bool := s.carriedAt p gen id 3

/-! Copies. -/

/-- A store's bytes laid over a copy (R184); a whole block written is poisoned no more (R210). -/
def Copy.update (c : Copy) (x : Store) : Copy :=
  { c with
    data := x.targets.foldl (fun d a =>
      Memory.read (Memory.write ((d.zipIdx (c.line * 128)).map fun e => (e.2, e.1)) a x.data) (c.line * 128) 128) c.data
    bad := c.bad.filter fun b => !(x.targets.any fun a => decide (a ≤ 64 * b) && decide (64 * b + 64 ≤ a + x.size)) }

/-- A store that leaves its queue meets the issuer's copies: a plain one updates them, another drops them. -/
def Store.onCopies (x : Store) (l : List Copy) : List Copy :=
  if x.kind.writes then l.map fun c => if x.touches c.line then c.update x else c
  else l.filter fun c => !x.touches c.line

/-- Drop a line from the copies an issuer's loads could meet. -/
def State.dropCopies (s : State) (p : PId) (line : Nat) : State :=
  (s.modProc p fun r => { r with l1 := r.l1.filter (·.line != line) }).modSite p.site fun q =>
    { q with l2 := q.l2.filter (·.line != line) }

/-! Stores. -/

/-- A write reaches bytes on which `.INV` loads of live entries rest their promise: it is broken for these bytes on every reticle
that made it (R207). -/
def State.breakPromises (s : State) (pa n : Nat) : State :=
  let hit (k : PId × Nat × Nat × Nat) : Bool := decide (k.2.2.1 < pa + n) && decide (pa < k.2.2.1 + k.2.2.2)
  if s.sites.any fun q => q.2.promises.any hit then
    { s with sites := s.sites.map fun q =>
        let live := q.2.promises.filter fun k => !hit k || s.entryLive k.1 k.2.1 != 0
        let now := ((live.filter hit).flatMap fun k => (List.range k.2.2.2).map (k.2.2.1 + ·)).filter fun b =>
          decide (pa ≤ b) && decide (b < pa + n)
        (q.1, { q.2 with promises := live, broken := (now.eraseDups.filter fun b => !q.2.broken.contains b) ++ q.2.broken }) }
  else s

/-- Bytes written at a home in memory: poison set or cleared (R210), the line dirty in L2 where the home is one (R184). -/
def State.writeBytes (s : State) (pa : Nat) (b : List Byte) (poison : Bool) : State :=
  let s : State := { s with mem := Memory.write s.mem pa b }
  let s := if poison then s.poisonRange pa b.length else s.clearPoison pa b.length
  let s := if isCompute (paSite pa) && regionOf (paSite pa) (paLocal pa) == some .dram then
      s.modSite (paSite pa) fun q => if q.dirty.contains (lineOf pa) then q else { q with dirty := lineOf pa :: q.dirty }
    else s
  s.breakPromises pa b.length

/-- A write at a home in memory, which its watches see (R342). -/
def State.writeMem (s : State) (pa : Nat) (b : List Byte) (poison : Bool) : State :=
  (s.writeBytes pa b poison).watchHit pa b.length

/-- Whether two stores overlap. -/
def Store.overlap (x y : Store) : Bool :=
  x.targets.any fun a => y.targets.any fun b => decide (a < b + y.size) && decide (b < a + x.size)

/-- Two stores write the control space of one site. -/
def Store.sameControl (x y : Store) : Bool :=
  x.targets.any fun a => isControl a && y.targets.any fun b => isControl b && paSite a == paSite b

/-- The stores that left their queues before a store did. -/
def State.storesBefore (s : State) (x : Store) : List Store := s.stores.takeWhile fun y => y.id != x.id

/-- A store keeps behind one that left its queue before it. Those of a processor keep their order on the same bytes (R201, R202),
and so do those of a site's processors on another site's bytes, of which the site's L2 may hold copies (R184, R205); those of a
thread to one site's control space (R25) and of an ordered flow (R307) always. The accesses of a host keep the order of R374 alone:
the writes of one ROD message, whose number stands for a creation number, and an atomic behind all of its connection. -/
def Store.follows (x y : Store) : Bool :=
  if x.t.p.core = 127 ∨ y.t.p.core = 127 then y.t == x.t && (x.rel.isSome || (x.gen != 0 && y.gen == x.gen))
  else
    (y.overlap x && (y.t.p == x.t.p || (y.t.p.site == x.t.p.site && x.targets.any fun a => paSite a != x.t.p.site))) ||
    (y.t == x.t && (y.sameControl x ||
      (y.gen == x.gen && y.kind == .put true && x.kind == .put true && paSite y.pa == paSite x.pa)))

/-- A store may be performed: those it keeps behind have been. -/
def State.storeReady (s : State) (x : Store) : Bool :=
  !x.done && !((s.storesBefore x).any fun y => !y.done && x.follows y)

def StoreKind.access : StoreKind → AccKind
  | .red _ _ | .bfa _ | .vec _ _ => .rmw
  | _ => .write

/-! The way of an access (R288 to R296). -/

/-- Access `id` of a processor has come to its bytes, at a site that is alive (R383). -/
def State.arrived (s : State) (p : PId) (ctx id pa : Nat) : Bool :=
  s.wayOf p ctx (.access id pa) pa == .here && !s.dead (paSite pa)

/-- The packet of an access to the bytes at `pa`. -/
def accessPacket (id pa ctx : Nat) (p : PId) (gen : Nat) (data : List Byte) : Packet :=
  packetOf (.access id pa) ctx p gen ⟨paSite pa, 127⟩ 0 data none 0

/-- A store that left its queue goes out: to a target at another site a packet, a multicast to its own wafer as one packet that the
crossbars split, and one to each ingress site of another wafer (R309). -/
def State.sendStore (s : State) (x : Store) : State :=
  let gs := x.t.p.site
  match x.kind with
  | .multi d =>
    let own := ((d.map (·.1)).filter fun a => siteWaf (paSite a) == siteWaf gs && paSite a != gs)
    let s := if own.isEmpty then s else
      s.sendPacket (packetOf (.multi x.id own) x.ctx x.t.p x.gen ⟨paSite (own.headD 0), 127⟩ 0 x.data none 0)
    ((d.filter fun a => siteWaf (paSite a.1) != siteWaf gs).map (·.2)).eraseDups.foldl (fun s g =>
      s.sendPacket (packetOf (.spread x.id) x.ctx x.t.p x.gen ⟨g, 127⟩ 0 x.data none 0)) s
  | _ =>
    if paSite x.pa = gs then s
    else s.sendPacket { accessPacket x.id x.pa x.ctx x.t.p x.gen x.data with
      flow := if x.kind = .put true then some x.t else none }

/-- Targets of a store are done with: a multicast goes on with the others. -/
def State.endTargets (s : State) (id : Nat) (l : List Nat) (rejected : Bool) : State :=
  { s with stores := s.stores.map fun y =>
      if y.id = id then
        match y.kind with
        | .multi d =>
          let rest := d.filter fun a => !l.contains a.1
          { y with kind := .multi rest, done := rest.isEmpty }
        | _ => { y with done := true, rejected := rejected }
      else y }

/-- A store to a target is discarded on its way (R290): a posted failure (R198). -/
def State.loseStore (s : State) (x : Store) (a : Nat) : State :=
  (s.recordFail x.t x.gen false x.va).endTargets x.id [a] true

/-- Perform a store at one target: the window check, then the write or the read-modify-write. -/
def State.performAt (s : State) (x : Store) (a : Nat) : State × Bool :=
  let n := x.size
  if !((paRegion a n).isSome && s.windowFor x.t.p x.ctx a n x.kind.access) then
    (s.recordFail x.t x.gen false x.va, false)
  else if isControl a then (s.ctlStore (paSite a) (paLocal a) (if x.t.p.core = 127 then none else some x.t.p) x.data (x.data.length / 8), true)
  else
    match x.kind with
    | .plain | .put _ | .multi _ => (s.writeMem a x.data x.poison, true)
    | k =>
      if s.poisoned a n then
        ((s.recordFail x.t x.gen true x.va).logErr (paSite a) 2 1 x.ctx x.t.p.core x.t.lane x.t.slot (x.t.p.site % 64)
          (BitVec.ofNat 64 (paLocal a)) 1 0, true)
      else
        let b := k.apply x.data (Memory.read s.mem a n)
        -- a read-modify-write leaves the block's poison as it was, and there is none here
        (s.writeMem a b false, true)

/-- Perform a store at the targets it has come to, its home or some homes of a multicast: each sends its acknowledgement. -/
def State.perform (s : State) (x : Store) : State :=
  let here := x.targets.filter (s.arrived x.t.p x.ctx x.id)
  if here.isEmpty && !x.targets.isEmpty then s else
  let r := here.foldl (fun (r : State × Bool) a =>
    let q := r.1.performAt x a
    (q.1.endWay x.t.p x.ctx x.id a [], r.2 && q.2)) (s, true)
  r.1.endTargets x.id here (!r.2)

/-- The store of an identifier. -/
def State.store (s : State) (id : Nat) : Option Store := s.stores.find? (·.id == id)

/-- STORE_DRAIN: the head of a row's queue may leave when its thread's earlier loads have been performed (R202) and, for a
release at RET scope or wider, when everything it carries has been acknowledged (R205). -/
def State.canDrain (s : State) (p : PId) (row : Nat) : Option Store :=
  match (s.proc p).queues.get [] row with
  | [] => none
  | x :: _ =>
    let loads := s.reqs.any fun r => r.t == x.t && r.gen == x.gen && decide (r.id < x.id) && r.waiting
    let release := match x.rel with
      | some c => decide (1 ≤ c) && s.owed p x.gen x.id
      | none => false
    if loads || release then none else some x

def execStoreDrain (p : PId) (row : Nat) (s : State) : Out :=
  match (if s.dead p.site then none else s.canDrain p row) with
  | none => .next s
  | some x =>
    let s := s.modProc p fun r =>
      { r with queues := r.queues.put row ((r.queues.get [] row).drop 1), drained := row, l1 := x.onCopies r.l1 }
    let s := s.modSite p.site fun q => { q with l2 := x.onCopies q.l2 }
    .next ((({ s with stores := s.stores ++ [x] } : State).sendStore x).settleAll p)

def StoreKind.isPlain : StoreKind → Bool
  | .plain | .put _ => true
  | _ => false

def execStoreAtHome (id : Nat) (s : State) : Out :=
  match s.store id with
  | none => .next s
  | some x => if s.storeReady x && x.kind.isPlain then .next (s.perform x) else .next s

/-- The acknowledgement reaches the issuer: the last of its instruction's releases the scoreboard (R215). -/
def State.ackStore (s : State) (x : Store) : State :=
  let s : State := { s with stores := s.stores.filter (·.id != x.id) }
  let more := (s.stores.any fun y => y.grp == x.grp) ||
    (s.procs.any fun r => r.1 == x.t.p && r.2.queues.any fun q => q.2.any fun y => y.grp == x.grp)
  let s := if more then s else s.sbDec x.t x.gen x.sb
  s.settleAll x.t.p

def execStoreAck (id : Nat) (s : State) : Out :=
  match s.store id with
  | none => .next s
  | some x => if x.done && !s.answering id then .next (s.ackStore x) else .next s

/-- BFA_ADD (R75, R223): one BFA add at the bank. -/
def execBfaAdd (id : Nat) (s : State) : Out :=
  match s.store id with
  | none => .next s
  | some x => match x.kind with
    | .bfa _ => if s.storeReady x then .next (s.perform x) else .next s
    | _ => .next s

/-! Loads. -/

/-- The request of an identifier. -/
def State.req (s : State) (id : Nat) : Option Req := s.reqs.find? (·.id == id)

/-- Loads of a thread are performed in program order (R202). -/
def State.inOrder (s : State) (r : Req) : Bool := !s.behindLoads r.t r.gen r.id

/-- A part may be served: an access to control space follows the thread's earlier stores to that site's control space
(R25); bytes under a read-modify-write of the processor that is still on its way wait for it (R201), and so do remote bytes
under a store of another processor of the site, which a copy in L2 may have shown already. -/
def State.partReady (s : State) (r : Req) (x : Part) : Bool :=
  !s.readWaits r.t r.id x.pa x.n &&
  !(paSite x.pa != r.t.p.site && s.stores.any fun y => y.t.p != r.t.p && y.t.p.site == r.t.p.site && !y.done && y.meets x.pa x.n)

/-- The bytes a load returns: parts in the order they were asked for. -/
def LoadKind.finish (k : LoadKind) (parts : List (List Byte)) : List RegW :=
  let b := parts.flatten
  let v := ofBytes b
  match k with
  | .scalar n signed dst => [.g dst (if signed then sextN v (8 * n) else BitVec.ofNat 64 v)]
  | .gran dst => [.w dst ⟨BitVec.ofNat 16 v, BitVec.ofNat 256 (ofBytes (b.drop 2))⟩]
  | .granE dst => [.wPay dst (BitVec.ofNat 256 v)]
  | .granS dst => [.wScale dst (BitVec.ofNat 16 v)]
  | .moment dst => [.m dst (BitVec.ofNat 64 v)]
  | .get dst => (List.range (b.length / 32)).map fun i =>
      .wPay (dst + i) (BitVec.ofNat 256 (ofBytes ((b.drop (32 * i)).take 32)))
  | .atom _ w32 _ dst | .cas w32 _ _ dst => [.g dst (if w32 then sextN v 32 else BitVec.ofNat 64 v)]
  | .vec _ _ _ dst => [.wPay dst (BitVec.ofNat 256 v)]

/-- Replace a request. -/
def State.setReq (s : State) (r : Req) : State :=
  { s with reqs := s.reqs.map fun q => if q.id = r.id then r else q }

/-- A part has been served: it acquires, each access of a granule load by itself (R204, R205, R208); when it was the last, the
response is known. -/
def State.served (s : State) (r : Req) (i : Nat) (b : List Byte) (bad : Bool) : State :=
  let s := match r.parts[i]? with | some x => s.noteRead r.t r.gen r.id x.pa x.n | none => s
  let s := match r.kind with
    | .load _ (some scope) => if (s.th r.t).gen = r.gen then s.acquire r.t scope else s
    | _ => s
  let parts := (r.parts.zipIdx).map fun e => if e.2 = i then { e.1 with got := some b, bad := bad } else e.1
  let r := { r with parts := parts }
  if parts.any fun x => x.got.isNone then s.setReq r
  else
    match r.kind with
    | .load k _ =>
      let poison := (parts.find? (·.bad)).map (·.va)
      s.setReq { r with
        poison := poison
        resp := some (if poison.isSome then [] else k.finish (parts.map fun x => x.got.getD [])) }
    | _ => s.setReq r

/-- Bytes from a copy, with the queued stores that the thread sees (R120, R202). -/
def State.copyBytes (s : State) (r : Req) (c : Copy) (x : Part) : List Byte :=
  readOver ((c.data.zipIdx (c.line * 128)).map fun e => (e.2, e.1)) (s.queuedFor r.t r.id) x.pa x.n

/-- Whether bytes lie in a block that came poisoned with the copy (R210). -/
def Copy.poisoned (c : Copy) (pa n : Nat) : Bool := c.bad.any fun b => decide (pa / 64 ≤ b) && decide (b ≤ (pa + n - 1) / 64)

/-- An `.INV` load of a thread of an entry rests a promise on its bytes (R207). -/
def State.promise (s : State) (r : Req) (x : Part) : State :=
  let k : PId × Nat × Nat × Nat := (r.t.p, (s.th r.t).entry, x.pa, x.n)
  if x.inv then s.modSite r.t.p.site fun q => if q.promises.contains k then q else { q with promises := k :: q.promises } else s

/-- A request goes out to bytes at another site, unless it is on its way. -/
def State.askHome (s : State) (r : Req) (x : Part) : State := (s.askWay r.t.p r.ctx r.gen (.access r.id x.pa) x.pa).2

/-- A committed request whose packet the fabric lost (R290): its registers stay, and the access error follows at the next
header, since the clause can roll back no more (log 30). -/
def State.loseReq (s : State) (r : Req) : State :=
  match r.parts.find? fun x => x.got.isNone with
  | some x => s.setReq { r with resp := some [], lost := some x.va }
  | none => s

/-- LOAD_AT_HOME: the next part of a load is served, from a copy if the step says so and one may serve it; else its request
goes to the home, which serves it once it stands there and answers with the data. -/
def State.serveLoad (s : State) (r : Req) (fromCopy : Bool) : State :=
  match (r.parts.zipIdx).find? fun e => e.1.got.isNone with
  | none => s
  | some (x, i) =>
    if !s.partReady r x then s
    else match (if fromCopy then s.copyFor r.t x else none) with
      | some (c, far) =>
        let b := s.copyBytes r c x
        let s := (s.promise r x).dropWays r.t.p r.ctx fun k => k == .access r.id x.pa
        -- a line that L1 takes from L2 keeps the time of its fill (R187)
        let s := if far then (s.missL1 r.t r.ctx x.pa).modProc r.t.p fun p =>
            p.fillL1 (l1Lines r.t.p) { c with row := r.t.slot } else s
        s.served r i b (c.poisoned x.pa x.n)
      | none =>
        if !s.arrived r.t.p r.ctx r.id x.pa then s.askHome r x else
        let b := s.viewBytes r.t r.id [] x.pa x.n
        let s := (s.promise r x).endWay r.t.p r.ctx r.id x.pa b
        let s := if x.cached then s.missL1 r.t r.ctx x.pa else s
        let own := paSite x.pa == r.t.p.site
        let s := if x.cached && (own || x.rc || x.inv) then s.fillLine r.t.p x.pa r.t.slot (!own)
          else s.dropCopies r.t.p (lineOf x.pa)
        s.served r i b (s.poisoned x.pa x.n)

def LoadKind.isAtomic : LoadKind → Bool
  | .atom _ _ _ _ | .cas _ _ _ _ | .vec _ _ _ _ => true
  | _ => false

def execLoadAtHome (id : Nat) (fromCopy : Bool) (s : State) : Out :=
  match s.req id with
  | none => .next s
  | some r => match r.kind with
    | .load k _ => if !k.isAtomic && r.waiting && s.inOrder r then .next (s.serveLoad r fromCopy) else .next s
    | _ => .next s

/-- The bytes an atomic leaves. -/
def LoadKind.after (k : LoadKind) (old : List Byte) : List Byte :=
  match k with
  | .atom aop w32 b _ => let w := if w32 then 4 else 8; toBytes w (atomNew aop (8 * w) (ofBytes old) b.toNat)
  | .cas w32 c b _ =>
    let w := if w32 then 4 else 8
    if ofBytes old = c.toNat % 2 ^ (8 * w) then toBytes w b.toNat else old
  | .vec aop ty b _ => vecBytes aop ty old (toBytes 32 b.toNat)
  | _ => old

/-- An atomic may be performed: after its thread's earlier loads and queued stores, after the processor's earlier stores to
the same bytes, and, for a release at RET scope or wider, after the acknowledgement of every earlier store. -/
def State.atomicReady (s : State) (r : Req) (rel : Option Nat) : Bool :=
  s.inOrder r && !(((s.proc r.t.p).queues.get [] r.t.slot).any fun y => y.t == r.t && decide (y.id < r.id)) &&
  (r.parts.all fun x => !(s.stores.any fun y => y.t.p == r.t.p && !y.done && y.meets x.pa x.n)) &&
  (match rel with
    | some c => decide (c < 1) || !s.owed r.t.p r.gen r.id
    | none => true)

/-- ATOMIC_AT_HOME: an ATOM, CAS or RATOM with its old value, or a posted RED or RATOM, as one step at the home. -/
def execAtomicAtHome (id : Nat) (s : State) : Out :=
  match s.req id with
  | some r => match r.kind with
    | .load k acq =>
      if !k.isAtomic || !r.waiting || !s.atomicReady r (r.parts.head?.bind fun x => if x.rc then some 1 else none) then .next s
      else match r.parts with
        | x :: _ =>
          if !s.arrived r.t.p r.ctx r.id x.pa then .next (s.askHome r x) else
          let old := Memory.read s.mem x.pa x.n
          let s := s.endWay r.t.p r.ctx r.id x.pa old
          if s.poisoned x.pa x.n then
            .next ((s.logErr (paSite x.pa) 2 1 r.ctx r.t.p.core r.t.lane r.t.slot (r.t.p.site % 64)
              (BitVec.ofNat 64 (paLocal x.pa)) 1 0).served r 0 old true)
          else
            .next (((s.writeMem x.pa (k.after old) false).dropCopies r.t.p (lineOf x.pa)).served
              { r with kind := .load k acq } 0 old false)
        | [] => .next s
    | _ => .next s
  | none => match s.store id with
    | none => .next s
    | some x => match x.kind with
      | .red _ _ | .vec _ _ => if s.storeReady x then .next (s.perform x) else .next s
      | _ => .next s

/-! Responses. -/

/-- The answer of a deferred instruction (R37, R101): its data is written and its scoreboard falls; poisoned data
leaves the registers and makes the poison trap pending (R210). -/
def State.respond (s : State) (r : Req) : State :=
  match r.resp with
  | none => s
  | some w =>
    let s : State := { s with reqs := s.reqs.filter (·.id != r.id) }
    match s.locate r.t r.gen with
    | none => s
    | some t =>
      let s := s.modTh t fun th =>
        let th := w.foldl (fun th x => th.deferred r.fid x) th
        let th := match r.poison with
          | some va => { th with pend := th.pend ++ [⟨12, va, false⟩] }
          | none => th
        match r.lost with
        | some va => { th with pend := th.pend ++ [⟨11, va, false⟩] }
        | none => th
      (s.sbDec t r.gen r.sb).settle t

/-! Walkers, verdicts, copies and errors. -/

/-- PAGE_WALK (R192, R193): a walk for a live context goes on; at its end it fills the shared TLB. -/
def execPageWalk (site ctx : Nat) (va : Word) (s : State) : Out :=
  let q := s.site site
  match q.liveCtx ctx with
  | none => .next s
  | some x =>
    match s.walkOn ⟨site, 0⟩ ctx (q.ctx x).ptroot.toNat va with
    | (.ok e lvl, s) => .next (s.modSite site fun q => { q with stlb := (⟨ctx, va.toNat, lvl, e⟩ :: q.stlb).take 32768 })
    | (_, s) => .next s

/-- Some access of a context from a site stands at a target, which answers it with its verdict (R197). -/
def State.judged (s : State) (site target ctx : Nat) : Bool :=
  site == target || s.packets.any fun k => k.src.site == site && k.ctx == ctx && k.hop == target && !k.crossing &&
    match k.kind with | .access _ _ | .fetch _ _ | .walk _ _ => true | _ => false

/-- VERDICT_REPLY (R197): a passing verdict enters the grant cache of the asking reticle. -/
def execVerdictReply (site target ctx : Nat) (a : Nat) (kind : AccKind) (s : State) : Out :=
  let g : Grant := ⟨siteWaf target, target % 64, ctx, a / 8192, kind⟩
  if s.judged site target ctx && s.windowOk site (siteWaf site) ctx (mkPa target a) 1 kind then
    .next (s.modSite site fun q => { q with grants := (g :: q.grants.filter (· != g)).take 1024 })
  else .next s

/-- CACHE_LINE_EXPIRY (R187): a copy is dropped; a line that leaves L1 leaves its tag with the row that filled it (R94). A
pinned line of the reticle's own DRAM is no copy. -/
def execCacheLineExpiry (p : PId) (l2 : Bool) (line : Nat) (s : State) : Out :=
  if l2 then .next (s.modSite p.site fun q => { q with l2 := q.l2.filter (·.line != line) })
  else .next (s.modProc p fun r =>
    match r.l1.find? (·.line == line) with
    | some c => { r with l1 := r.l1.filter (·.line != line), vtags := ((line, c.row) :: r.vtags).take 1024 }
    | none => r)

/-- ECC_ERROR (R210, R387): a corrected error is logged; an uncorrectable one poisons its 64-byte block. -/
def execEccError (a : Nat) (correctable : Bool) (s : State) : Out :=
  let gs := paSite a
  if correctable then .next (s.logErr gs 1 0 0 127 0 0 (gs % 64) (BitVec.ofNat 64 (paLocal a)) 1 0)
  else .next ((s.poisonRange (a / 64 * 64) 64).logErr gs 2 1 0 127 0 0 (gs % 64) (BitVec.ofNat 64 (paLocal a)) 1 0)

/-- LLS_DECAY (R94): every score is halved. -/
def execLlsDecay (p : PId) (s : State) : Out :=
  .next (s.modProc p fun r => { r with lls := r.lls.map fun e => (e.1, e.2 / 2) })

/-- The pages of a virtual range: the address and length of each piece. -/
def pagePieces : Nat → Word → Nat → List (Word × Nat)
  | 0, _, _ => []
  | f + 1, va, n =>
    if n = 0 then [] else
    let k := min n (8192 - va.toNat % 8192)
    (va, k) :: pagePieces f (va + BitVec.ofNat 64 k) (n - k)

/-- The physical pieces of pages that translate for reading, the others being skipped (R219, R220); nothing while a table entry is
on its way. -/
def State.xlatPieces (s : State) (p : PId) (ctx : Nat) : List (Word × Nat) → Option (List (Nat × Nat × Bool)) × State
  | [] => (some [], s)
  | (va, n) :: t =>
    match s.translate p ctx va .read with
    | (.ok pa nc, s) => let r := s.xlatPieces p ctx t; (r.1.map ((pa, n, nc) :: ·), r.2)
    | (.wait, s) => (none, s)
    | (_, s) => s.xlatPieces p ctx t

/-- The pieces of a range, translated (R194). -/
def State.rangePieces (s : State) (p : PId) (ctx : Nat) (va : Word) (n : Nat) : Option (List (Nat × Nat × Bool)) × State :=
  s.xlatPieces p ctx (pagePieces (n / 8192 + 2) va n)

/-- CCLEAN_CINV_COMPLETE (R220): lines of the range written back, and for CINV copies dropped and broken promises over (R207);
pinned lines stay. -/
def execCcleanCinvComplete (id : Nat) (s : State) : Out :=
  match s.req id with
  | none => .next s
  | some r => match r.kind with
    | .range inv ps =>
      let inRange (line : Nat) : Bool := ps.any fun x => decide (lineOf x.1 ≤ line) && decide (line ≤ lineOf (x.1 + x.2 - 1))
      let s := s.modSite r.t.p.site fun q =>
        { q with
          dirty := q.dirty.filter fun l => !(inRange l)
          broken := if inv then q.broken.filter fun b => !(ps.any fun x => decide (x.1 ≤ b) && decide (b < x.1 + x.2)) else q.broken
          l2 := if inv then q.l2.filter fun c => !(inRange c.line) else q.l2 }
      let s := if inv then s.modProc r.t.p fun p => { p with l1 := p.l1.filter fun c => !(inRange c.line) } else s
      let s : State := { s with reqs := s.reqs.filter (·.id != id) }
      .next (s.sbDec r.t r.gen r.sb)
    | _ => .next s

end Sys2Proof.Machine
end

