-- ==== Sys2Proof/Machine/Memory.lean ====
section
/-! DEFINITION. Memory instructions (R182, R183, R211 to R223): loads, stores, atomics, fences, pins, cleaning,
prefetch, probe and the BFA reduction. What happens at the home is in Machine/Home.lean. -/
namespace Sys2Proof

/-! What the modifier fields of a memory word say: the scope of an acquire or a release (R203), the scoreboard, and the
operation word of R213. -/

def MForm.acq (f : MForm) : Option Nat := if f.ord = 1 then some f.scope.toNat else none
def MForm.rel (f : MForm) : Option Nat := if f.ord = 2 then some f.scope.toNat else none
def MForm.w32 (f : MForm) : Bool := f.off.getLsbD 4
def MForm.aop (f : MForm) : Nat := (f.off.extractLsb' 0 4).toNat
def MForm.relWide (f : MForm) : Bool := f.ord == 2 && f.scope != 0
def MForm.sbUse (f : MForm) : Option Nat := if f.sbe then some f.sb.toNat else none
def QForm.sbUse (q : QForm) : Option Nat := if q.sbe then some q.sb.toNat else none

end Sys2Proof

namespace Sys2Proof.Machine

/-! Runners. -/

/-- What a lane of a memory instruction comes to before commit: what it asks for at commit, a fault, nothing because
its context died (R394), or nothing yet, a request of it being on its way (R197). -/
inductive ARes where
  | ok (acts : List Act)
  | trap (cause : Nat) (info : Word)
  | dead
  | wait

/-- A word some lane of which waits for a request on its way is taken again later, by the whole clause: it stands with those that
wait, as it stood before (R197). -/
def State.orPause (s s' : State) : State :=
  match s.flights, s'.flights with
  | f :: _, f' :: rest => if f'.lanes.any (·.stall) then { s' with flights := rest, stalled := s'.stalled ++ [f] } else s'
  | _, _ => s'

/-- Run an instruction that asks for actions at commit and leaves b0 empty (R37, R212). -/
def State.runActs (s : State) (pn : Bool) (pr : BitVec 3) (f : State → Env → ARes × State) : State :=
  s.orPause (s.foldLanes id fun s fl l =>
    if !l.active then (s, l)
    else if !l.guard pn pr then (s, l.shift none)
    else match f s ⟨s, fl, l⟩ with
      | (.ok a, s) => (s, { l.shift none with acts := l.acts ++ a })
      | (.trap c i, s) => (s, l.trap fl.idx c i)
      | (.dead, s) => (s, l.freeze)
      | (.wait, s) => (s, l.await))

/-- What a lane of a clause-ending instruction comes to: the effect after its commit, a fault, nothing because its context died
(R394), a wait to commit with the clause in flight (R197, R246), or poisoned bytes read before commit, whose fault comes later
(R210). -/
inductive LRes where
  | ok (go : State → State)
  | trap (cause : Nat) (info : Word)
  | dead
  | wait
  | later (va : Word)

/-- Run a clause-ending instruction, lane by lane in a given order: commit, then the effect. -/
def State.runLanes (s : State) (pn : Bool) (pr : BitVec 3) (order : List LaneRun → List LaneRun)
    (f : State → Env → LRes × State) : State :=
  s.foldLanes order fun s fl l =>
    if !l.active || !l.guard pn pr then (s, l)
    else match f s ⟨s, fl, l⟩ with
      | (.ok go, s) => let r := s.commitLane fl l; (go r.1, r.2)
      | (.trap c i, s) => (s, l.trap fl.idx c i)
      | (.dead, s) => (s, l.freeze)
      | (.wait, s) => (s, l.await)
      | (.later va, s) => (s, l.trapLater fl.idx va)

/-! Addresses. -/

/-- The effective address of the memory format. -/
def Env.ea (e : Env) (f : MForm) : Word := e.g f.a + f.off.signExtend 64

/-- Where the scale of the granule at an address stands (R214). -/
def Env.sa (e : Env) (ea : Word) : Word := (ea >>> 4) + e.t.gsd

/-- Translation with the region check of R24 over all the bytes. -/
def State.place (s : State) (e : Env) (va : Word) (n : Nat) (k : AccKind) : Xlat × State :=
  match s.translate e.p e.t.ctx va k with
  | (.ok pa nc, s) => if (paRegion pa n).isNone then (.trap 8, s) else (.ok pa nc, s)
  | r => r

/-- The memory parts of a load: alignment, translation, region and verdict of each in order. -/
inductive PRes where
  | ok (parts : List Part)
  | trap (cause : Nat) (info : Word)
  | dead
  | wait

/-- A part of another site's memory that needs no answer from there: its verdict stands in the grant cache and a copy may serve
it (R184, R197). -/
def State.near (s : State) (t : TId) (ctx : Nat) (x : Part) : Bool :=
  paSite x.pa != t.p.site && s.granted t.p.site ctx x.pa x.n .read && (s.copyFor t x).isSome

def State.loadParts (s : State) (e : Env) (copies inv rc : Bool) : List (Word × Nat) → PRes × State
  | [] => (.ok [], s)
  | (va, n) :: t =>
    if va.toNat % n ≠ 0 then (.trap 7 va, s) else
    match s.place e va n .read with
    | (.trap c, s) => (.trap c va, s)
    | (.dead, s) => (.dead, s)
    | (.wait, s) => (.wait, s)
    | (.ok pa nc, s) =>
      let cached := copies && !nc && regionOf (paSite pa) (paLocal pa) == some .dram
      let x : Part := ⟨va, pa, n, cached, cached && inv, cached && rc, none, false⟩
      match (if s.near e.tid e.t.ctx x then (.pass, s) else s.verdict e.tid e.t.ctx pa n .read) with
      | (.fail, s) => (.trap 11 va, s)
      | (.wait, s) => (.wait, s)
      | (.pass, s) =>
        match s.loadParts e copies inv rc t with
        | (.ok ps, s) => (.ok (x :: ps), s)
        | r => r

/-- A store-queue entry before it is numbered. -/
def storeOf (va : Word) (pa : Nat) (data : List Byte) (kind : StoreKind) (rel : Option Nat) : Store :=
  ⟨0, ⟨⟨0, 0⟩, 0, 0⟩, 0, 0, va, pa, data, kind, 0, none, rel, false, false, false, []⟩

/-- The entries of a store: alignment, translation, the whole words of control space (R25). -/
inductive SRes where
  | ok (entries : List Store)
  | trap (cause : Nat) (info : Word)
  | dead
  | wait

def State.storeParts (s : State) (e : Env) (rel : Option Nat) : List (Word × List Byte) → SRes × State
  | [] => (.ok [], s)
  | (va, b) :: t =>
    if va.toNat % b.length ≠ 0 then (.trap 7 va, s) else
    match s.place e va b.length .write with
    | (.trap c, s) => (.trap c va, s)
    | (.dead, s) => (.dead, s)
    | (.wait, s) => (.wait, s)
    | (.ok pa _, s) =>
      if isControl pa && b.length % 8 != 0 then (.trap 7 va, s) else
      match s.storeParts e rel t with
      | (.ok es, s) => (.ok (storeOf va pa b .plain rel :: es), s)
      | r => r

/-- A deferred request before it is numbered. -/
def reqOf (sb : Option Nat) (kind : ReqKind) (parts : List Part) (resp : Option (List RegW)) : Req :=
  ⟨0, ⟨⟨0, 0⟩, 0, 0⟩, 0, 0, 0, sb, kind, parts, resp, none, none⟩

/-! LD (R214) and MLD (R183). -/

/-- A load of the parts an address gives. -/
def State.load (s : State) (f : MForm) (k : LoadKind) (parts : Env → List (Word × Nat)) : State :=
  s.runActs f.pn f.pr fun s e =>
    match s.loadParts e true f.inv f.rc (parts e) with
    | (.trap c i, s) => (.trap c i, s)
    | (.dead, s) => (.dead, s)
    | (.wait, s) => (.wait, s)
    | (.ok ps, s) => (.ok [.req (reqOf (some f.sb.toNat) (.load k f.acq) ps none)], s)

def State.loadScalar (s : State) (f : MForm) (n : Nat) (signed : Bool) : State :=
  s.load f (.scalar n signed f.dst.toNat) fun e => [(e.ea f, n)]

def execLdU8 (f : MForm) (s : State) : Out := .next (s.loadScalar f 1 false)
def execLdS8 (f : MForm) (s : State) : Out := .next (s.loadScalar f 1 true)
def execLdU16 (f : MForm) (s : State) : Out := .next (s.loadScalar f 2 false)
def execLdS16 (f : MForm) (s : State) : Out := .next (s.loadScalar f 2 true)
def execLdU32 (f : MForm) (s : State) : Out := .next (s.loadScalar f 4 false)
def execLdS32 (f : MForm) (s : State) : Out := .next (s.loadScalar f 4 true)
def execLd64 (f : MForm) (s : State) : Out := .next (s.loadScalar f 8 false)

/-- The granule forms: the element address is checked first (R214), the scale is loaded first (R208). -/
def State.loadGran (s : State) (f : MForm) : State :=
  s.runActs f.pn f.pr fun s e =>
    let ea := e.ea f
    match s.loadParts e true f.inv f.rc [(ea, 32), (e.sa ea, 2)] with
    | (.trap c i, s) => (.trap c i, s)
    | (.dead, s) => (.dead, s)
    | (.wait, s) => (.wait, s)
    | (.ok ps, s) => (.ok [.req (reqOf (some f.sb.toNat) (.load (.gran f.dst.toNat) f.acq) ps.reverse none)], s)

def execLdG (f : MForm) (s : State) : Out := .next (s.loadGran f)
def execLdGE (f : MForm) (s : State) : Out := .next (s.load f (.granE f.dst.toNat) fun e => [(e.ea f, 32)])

/-- LD.GS: the effective address is 32-byte aligned and not translated. -/
def execLdGS (f : MForm) (s : State) : Out :=
  .next (s.runActs f.pn f.pr fun s e =>
    let ea := e.ea f
    if ea.toNat % 32 ≠ 0 then (.trap 7 ea, s) else
    match s.loadParts e true f.inv f.rc [(e.sa ea, 2)] with
    | (.trap c i, s) => (.trap c i, s)
    | (.dead, s) => (.dead, s)
    | (.wait, s) => (.wait, s)
    | (.ok ps, s) => (.ok [.req (reqOf (some f.sb.toNat) (.load (.granS f.dst.toNat) f.acq) ps none)], s))

def execMld (f : MForm) (s : State) : Out := .next (s.load f (.moment f.dst.toNat) fun e => [(e.ea f, 8)])

/-! ST (R215) and MST (R183). -/

/-- A store of the parts an address and a source give. -/
def State.storeInstr (s : State) (f : MForm) (parts : Env → List (Word × List Byte)) : State :=
  s.runActs f.pn f.pr fun s e =>
    match s.storeParts e f.rel (parts e) with
    | (.trap c i, s) => (.trap c i, s)
    | (.dead, s) => (.dead, s)
    | (.wait, s) => (.wait, s)
    | (.ok es, s) => (.ok [.store es f.sbUse], s)

def State.storeScalar (s : State) (f : MForm) (n : Nat) : State :=
  s.storeInstr f fun e => [(e.ea f, toBytes n (e.g f.b).toNat)]

def execSt8 (f : MForm) (s : State) : Out := .next (s.storeScalar f 1)
def execSt16 (f : MForm) (s : State) : Out := .next (s.storeScalar f 2)
def execSt32 (f : MForm) (s : State) : Out := .next (s.storeScalar f 4)
def execSt64 (f : MForm) (s : State) : Out := .next (s.storeScalar f 8)

def Gran.payBytes (w : Gran) : List Byte := toBytes 32 w.pay.toNat
def Gran.scaleBytes (w : Gran) : List Byte := toBytes 2 w.scale.toNat

def execStG (f : MForm) (s : State) : Out :=
  .next (s.storeInstr f fun e => [(e.ea f, (e.w f.b).payBytes), (e.sa (e.ea f), (e.w f.b).scaleBytes)])
def execStGE (f : MForm) (s : State) : Out := .next (s.storeInstr f fun e => [(e.ea f, (e.w f.b).payBytes)])
def execStGS (f : MForm) (s : State) : Out :=
  .next (s.runActs f.pn f.pr fun s e =>
    let ea := e.ea f
    if ea.toNat % 32 ≠ 0 then (.trap 7 ea, s) else
    match s.storeParts e f.rel [(e.sa ea, (e.w f.b).scaleBytes)] with
    | (.trap c i, s) => (.trap c i, s)
    | (.dead, s) => (.dead, s)
    | (.wait, s) => (.wait, s)
    | (.ok es, s) => (.ok [.store es f.sbUse], s))
def execMst (f : MForm) (s : State) : Out := .next (s.storeInstr f fun e => [(e.ea f, toBytes 8 (e.m f.b).toNat)])

/-! STN (R216). -/

/-- The format of STN's DST field. -/
def stnFmt (dst : BitVec 6) : Fmt := match (dst.extractLsb' 4 2).toNat with | 0 => .f32 | 1 => .f16 | _ => .bf16

def execStn (f : MForm) (s : State) : Out :=
  .next (s.runLanes f.pn f.pr id fun s e =>
    let fmt := stnFmt f.dst
    let w := e.w f.b
    match firstBad fmt [(1, f.b, w)] with
    | some i => (.trap 13 i, s)
    | none => match s.storeParts e f.rel [(e.ea f, w.payBytes)] with
      | (.trap c i, s) => (.trap c i, s)
      | (.dead, s) => (.dead, s)
      | (.wait, s) => (.wait, s)
      | (.ok es, s) => (.ok fun s =>
          let s := s.enact e.tid (.store es f.sbUse)
          s.setNorm e.p.site (f.dst.toNat % 16) fun n =>
            (elemVals fmt w).foldl (fun n x => n.acc (BitVec.ofNat 36 (rnFp36 x).1)) n, s))

/-! ATOM, RED, CAS (R213, R217). -/

/-- The checks before commit; `loadClass` for ATOM and CAS. -/
def State.rmwPart (s : State) (e : Env) (va : Word) (n : Nat) (loadClass rel : Bool) : PRes × State :=
  if va.toNat % n ≠ 0 then (.trap 7 va, s) else
  match s.place e va n .rmw with
  | (.trap c, s) => (.trap c va, s)
  | (.dead, s) => (.dead, s)
  | (.wait, s) => (.wait, s)
  | (.ok pa _, s) =>
    if isControl pa then (.trap 8 va, s) else
    match (if loadClass then s.verdict e.tid e.t.ctx pa n .rmw else (.pass, s)) with
    | (.fail, s) => (.trap 11 va, s)
    | (.wait, s) => (.wait, s)
    | (.pass, s) => (.ok [⟨va, pa, n, false, false, rel, none, false⟩], s)

/-- ATOM and CAS: a deferred request that its home performs. -/
def State.atomic (s : State) (f : MForm) (k : Env → LoadKind) : State :=
  s.runLanes f.pn f.pr id fun s e =>
    match s.rmwPart e (e.g f.a) (if f.w32 then 4 else 8) true f.relWide with
    | (.trap c i, s) => (.trap c i, s)
    | (.dead, s) => (.dead, s)
    | (.wait, s) => (.wait, s)
    | (.ok ps, s) => (.ok fun s => s.enact e.tid (.req (reqOf (some f.sb.toNat) (.load (k e) f.acq) ps none)), s)

def execAtom (f : MForm) (s : State) : Out :=
  .next (s.atomic f fun e => .atom f.aop f.w32 (e.g f.b) f.dst.toNat)
def execCas (f : MForm) (s : State) : Out :=
  .next (s.atomic f fun e => .cas f.w32 (e.t.g f.dst.toNat) (e.g f.b) f.dst.toNat)

def execRed (f : MForm) (s : State) : Out :=
  .next (s.runLanes f.pn f.pr id fun s e =>
    let n := if f.w32 then 4 else 8
    match s.rmwPart e (e.g f.a) n false f.relWide with
    | (.trap c i, s) => (.trap c i, s)
    | (.dead, s) => (.dead, s)
    | (.wait, s) => (.wait, s)
    | (.ok ps, s) => (.ok fun s => s.enact e.tid (.store (ps.map fun p =>
        storeOf p.va p.pa (toBytes n (e.g f.b).toNat) (.red f.aop f.w32) f.rel) f.sbUse), s))

/-! FENCE (R206, R218). -/

/-- The hold of a fence. -/
def fenceHold (scope kind before : Nat) : Hold :=
  let acq := kind ≠ 2
  let wide := kind ≠ 1 ∧ 1 ≤ scope
  { Hold.empty with
    loads := acq
    drained := kind = 0
    acked := wide
    before := before
    report := wide
    sc := if acq then some scope else none }

def execFence (q : QForm) (scope : BitVec 2) (kind : BitVec 2) (s : State) : Out :=
  s.ending q.pn q.pr noCheck fun s e =>
    (s.modTh e.tid fun th => { th with hold := fenceHold scope.toNat kind.toNat (s.nextId + 1) }).settle e.tid

/-! PIN, UNPIN (R219). -/

/-- Lines of own cacheable DRAM in the pieces of a range. -/
def pinLines (e : Env) (ps : List (Nat × Nat × Bool)) : List Nat :=
  ((ps.filter fun x =>
    !x.2.2 && paSite x.1 == e.p.site && regionOf (paSite x.1) (paLocal x.1) == some .dram).flatMap fun x =>
      (List.range (lineOf (x.1 + x.2.1 - 1) + 1 - lineOf x.1)).map (· + lineOf x.1)).eraseDups

def State.pinOwner (s : State) (t : TId) : PinOwner :=
  match (s.th t).band with | some b => .band t.p b | none => .ctx (s.th t).ctx

/-- The range operand: a base and a length of 32 bits. -/
def Env.rangeLen (e : Env) (b : Src) : Nat := bitsOf (e.g b) 31 0

/-- Run an instruction on the pieces of its range, once they are translated. -/
def State.runRange (s : State) (q : QForm) (go : Env → List (Nat × Nat × Bool) → State → State) : State :=
  s.runLanes q.pn q.pr id fun s e =>
    match s.rangePieces e.p e.t.ctx (e.g q.a) (e.rangeLen q.b) with
    | (some ps, s) => (.ok (go e ps), s)
    | (none, s) => (.wait, s)

def execPin (q : QForm) (s : State) : Out :=
  .next (s.runRange q fun e ps s =>
    let o := s.pinOwner e.tid
    let r := (pinLines e ps).foldl (fun (r : List (PinOwner × Nat) × Nat) l =>
      if r.1.contains (o, l) then r
      else if (r.1.any (·.2 == l)) || decide ((r.1.map (·.2)).eraseDups.length < 2 ^ 21) then ((o, l) :: r.1, r.2 + 128)
      else r) ((s.site e.p.site).pins, 0)
    (s.modSite e.p.site fun x => { x with pins := r.1 }).enact e.tid
      (.req (reqOf q.sbUse (.value true) [] (some [.g q.dst.toNat (BitVec.ofNat 64 r.2)]))))

def execUnpin (q : QForm) (s : State) : Out :=
  .next (s.runRange q fun e ps s =>
    let o := s.pinOwner e.tid
    let lines := pinLines e ps
    s.modSite e.p.site fun x => { x with pins := x.pins.filter fun p => !(p.1 == o && lines.contains p.2) })

/-! CCLEAN, CINV (R220). -/

def State.rangeOp (s : State) (q : QForm) (inv : Bool) : State :=
  s.runRange q fun e ps s => s.enact e.tid (.req (reqOf q.sbUse (.range inv (ps.map fun x => (x.1, x.2.1))) [] none))

def execCclean (q : QForm) (s : State) : Out := .next (s.rangeOp q false)
def execCinv (q : QForm) (s : State) : Out := .next (s.rangeOp q true)

/-! PREF, PROBE (R221, R222). -/

def execPref (f : MForm) (s : State) : Out :=
  .next (s.runActs f.pn f.pr fun s e =>
    let va := e.ea f
    match s.place e va 1 .read with
    | (.ok pa nc, s) =>
      let own := paSite pa == e.p.site
      if !nc && regionOf (paSite pa) (paLocal pa) == some .dram && (own || f.rc) then
        match s.verdict e.tid e.t.ctx pa 1 .read with
        | (.pass, s) => (.ok [.pref va pa (!own)], s)
        | (.fail, s) => (.ok [], s)
        | (.wait, s) => (.wait, s)
      else (.ok [], s)
    | (.wait, s) => (.wait, s)
    | (_, s) => (.ok [], s))

/-- The answer of PROBE to what a walk for an address came to (R222). With FAIL set, MT and XWR are 0, and SIZE is 0 for a
non-canonical address (DESIGN CHOICE, log 31: the spec gives those fields no value there). -/
def probeWord (va : Word) : WalkRes → Word
  | .fail f => BitVec.ofNat 64 (2 ^ 63 + f.rdf * 2 ^ 9 + f.level * 2 ^ 5 + f.why)
  | .ok e lvl =>
    let pa := ptePa e + va.toNat % 2 ^ pageBits lvl
    BitVec.ofNat 64 (pa / 2 ^ 13 % 2 ^ 50 * 2 ^ 13 + pteMt e * 2 ^ 7 + (3 - lvl) * 2 ^ 5 +
      (boolN (pteX e) * 4 + boolN (pteW e) * 2 + boolN (pteR e)) * 4)
  | .wait _ => 0

def execProbe (f : MForm) (s : State) : Out :=
  .next (s.runActs f.pn f.pr fun s e =>
    let q := s.site e.p.site
    match q.liveCtx e.t.ctx with
    | none => (.dead, s)
    | some x =>
      match s.walkOn e.p e.t.ctx (q.ctx x).ptroot.toNat (e.ea f) with
      | (.wait _, s) => (.wait, s)
      | (r, s) =>
        (.ok [.req (reqOf (some f.sb.toNat) (.value true) [] (some [.g f.dst.toNat (probeWord (e.ea f) r)]))], s))

/-! BRED (R223). -/

def execBred (q : QForm) (fmt : Fmt) (part : BitVec 2) (s : State) : Out :=
  .next (s.runLanes q.pn q.pr id fun s e =>
    let va := e.g q.a
    let w := e.w q.b
    match firstBad fmt [(1, q.b, w)] with
    | some i => (.trap 13 i, s)
    | none =>
      if va.toNat % 128 ≠ 0 then (.trap 7 va, s) else
      match s.place e va 128 .rmw with
      | (.trap c, s) => (.trap c va, s)
      | (.dead, s) => (.dead, s)
      | (.wait, s) => (.wait, s)
      | (.ok pa _, s) =>
        if regionOf (paSite pa) (paLocal pa) ≠ some .poolSram then (.trap 8 va, s) else
        let n := fmt.count
        let pairs := (List.range n).map fun i => (part.toNat * n + i, rnF32 (elemVal fmt w i))
        (.ok fun s => s.enact e.tid (.store [storeOf va pa [] (.bfa pairs) none] q.sbUse), s))

end Sys2Proof.Machine
end

