-- ==== Sys2Proof/Machine/Float.lean ====
section
/-! DEFINITION. The scalar float instructions (R146 to R156). -/
namespace Sys2Proof.Machine

/-- An FP32 operand (R150). -/
def Env.fx (e : Env) (x : Src) : X := f32 (e.g x).toNat

/-- An FP32 result rounded from an exact value. -/
def Env.rndG (e : Env) (r : Rnd) (v : X × Fl) : Res Word :=
  let d := rndF32 (e.rm r) e.l.seed v.1
  .ok (BitVec.ofNat 64 d.code) (v.2 ||| d.fl) d.seed

/-- Product plus addend, product exact (R151). -/
def fmaX (rd : Bool) (a b c : X) : X × Fl :=
  let p := X.mul a b
  let r := X.add rd p.1 c
  (r.1, p.2 ||| r.2)

/-- Exact sum or difference of FP32 operands in a rounding mode. -/
def Env.addX (e : Env) (r : Rnd) (a b : X) : X × Fl := X.add (decide (e.rm r = .rd)) a b

def execFadd (b : BForm) (m : FltMod) (s : State) : Out :=
  .next (s.runG b fun e => e.rndG m.rnd (e.addX m.rnd (e.fx b.a) (e.fx b.b)))
def execFsub (b : BForm) (m : FltMod) (s : State) : Out :=
  .next (s.runG b fun e => e.rndG m.rnd (e.addX m.rnd (e.fx b.a) (e.fx b.b).negate))
def execFmul (b : BForm) (m : FltMod) (s : State) : Out :=
  .next (s.runG b fun e => e.rndG m.rnd (X.mul (e.fx b.a) (e.fx b.b)))
def execFfma (b : BForm) (m : FltMod) (s : State) : Out :=
  .next (s.runG b fun e => e.rndG m.rnd (fmaX (decide (e.rm m.rnd = .rd)) (e.fx b.a) (e.fx b.b) (e.fx b.c)))

/-- The FP32 code of an operand. -/
def Env.fc (e : Env) (x : Src) : Nat := (e.g x).toNat % 2 ^ 32

def execFmin (b : BForm) (_m : FltMod) (s : State) : Out :=
  .next (s.pureG b fun e => BitVec.ofNat 64 (minMax false (e.fc b.a) (e.fc b.b)))
def execFmax (b : BForm) (_m : FltMod) (s : State) : Out :=
  .next (s.pureG b fun e => BitVec.ofNat 64 (minMax true (e.fc b.a) (e.fc b.b)))
def execFabs (b : BForm) (_m : FltMod) (s : State) : Out :=
  .next (s.pureG b fun e => BitVec.ofNat 64 (if (e.fx b.a).isNan then NF.f32.nanCode else e.fc b.a % 2 ^ 31))
def execFneg (b : BForm) (_m : FltMod) (s : State) : Out :=
  .next (s.pureG b fun e => BitVec.ofNat 64 (if (e.fx b.a).isNan then NF.f32.nanCode else e.fc b.a ^^^ 2 ^ 31))
def execFcmp (b : BForm) (m : FltMod) (s : State) : Out :=
  .next (s.pureP b fun e => floatRel m.cond.toNat (e.fx b.a) (e.fx b.b))
def execFclass (b : BForm) (_m : FltMod) (s : State) : Out :=
  .next (s.pureG b fun e => BitVec.ofNat 64 (2 ^ floatClass (e.fc b.a)))

/-! R155. -/

/-- FRCP. -/
def frcpX : X → X × Fl
  | .nan => (.nan, 0)
  | x => X.div X.one x

/-- FRSQ. -/
def frsqX : X → X × Fl
  | .nan => (.nan, 0)
  | .inf n => if n then (.nan, flNV) else (X.zero false, 0)
  | .fin n m e _ =>
    if m = 0 then (.inf n, flDZ) else if n then (.nan, flNV)
    else let r := rsqrtMag m e; (.fin false r.1 r.2.1 r.2.2, 0)

/-- FSQRT. -/
def fsqrtX : X → X × Fl
  | .nan => (.nan, 0)
  | .inf n => if n then (.nan, flNV) else (.inf false, 0)
  | .fin n m e _ =>
    if m = 0 then (X.zero n, 0) else if n then (.nan, flNV)
    else let r := sqrtMag m e; (.fin false r.1 r.2.1 r.2.2, 0)

/-- FEX2. -/
def fex2X : X → X × Fl
  | .nan => (.nan, 0)
  | .inf n => (if n then X.zero false else .inf false, 0)
  | x => (exp2X x.dy, 0)

/-- FLG2. -/
def flg2X : X → X × Fl
  | .nan => (.nan, 0)
  | .inf n => if n then (.nan, flNV) else (.inf false, 0)
  | .fin n m e _ =>
    if m = 0 then (.inf true, flDZ) else if n then (.nan, flNV) else (log2X ⟨m, e⟩, 0)

def execFrcp (b : BForm) (m : FltMod) (s : State) : Out := .next (s.runG b fun e => e.rndG m.rnd (frcpX (e.fx b.a)))
def execFrsq (b : BForm) (m : FltMod) (s : State) : Out := .next (s.runG b fun e => e.rndG m.rnd (frsqX (e.fx b.a)))
def execFsqrt (b : BForm) (m : FltMod) (s : State) : Out := .next (s.runG b fun e => e.rndG m.rnd (fsqrtX (e.fx b.a)))
def execFex2 (b : BForm) (m : FltMod) (s : State) : Out := .next (s.runG b fun e => e.rndG m.rnd (fex2X (e.fx b.a)))
def execFlg2 (b : BForm) (m : FltMod) (s : State) : Out := .next (s.runG b fun e => e.rndG m.rnd (flg2X (e.fx b.a)))

/-! R156. -/

/-- FCVT. -/
def fcvtRes (m : FltMod) (mode : Rnd) (seed : Word) (a : Word) : Res Word :=
  let x := m.fmt.decode (a.toNat % 2 ^ m.fmt.bits)
  let r := rnd m.fmt2 mode m.ftz seed x
  .ok (BitVec.ofNat 64 r.code) r.fl r.seed

/-- ITOF. -/
def itofX (m : FltMod) (a : Word) : X :=
  X.ofInt (match m.w, m.u with
    | true, true => (a.setWidth 32).toNat
    | true, false => (a.setWidth 32).toInt
    | false, true => a.toNat
    | false, false => a.toInt)

/-- Bounds of the integer format of FTOI. -/
def ftoiLo (m : FltMod) : Int := if m.u then 0 else if m.w then -2 ^ 31 else -2 ^ 63
def ftoiHi (m : FltMod) : Int :=
  match m.w, m.u with
  | true, true => 2 ^ 32 - 1
  | true, false => 2 ^ 31 - 1
  | false, true => 2 ^ 64 - 1
  | false, false => 2 ^ 63 - 1

/-- FTOI. -/
def ftoiRes (m : FltMod) (mode : Rnd) (seed : Word) (x : X) : Res Word :=
  let r := withDraw mode seed x fun d =>
    let v := roundInt (ftoiLo m) (ftoiHi m) mode d x
    ((BitVec.ofInt 64 v.1).toNat, v.2)
  let v : Word := BitVec.ofNat 64 r.code
  .ok (if m.w then (v.setWidth 32).signExtend 64 else v) r.fl r.seed

def execFcvt (b : BForm) (m : FltMod) (s : State) : Out :=
  .next (s.runG b fun e => fcvtRes m (e.rm m.rnd) e.l.seed (e.g b.a))
def execItof (b : BForm) (m : FltMod) (s : State) : Out :=
  .next (s.runG b fun e => e.rndG m.rnd (itofX m (e.g b.a), 0))
def execFtoi (b : BForm) (m : FltMod) (s : State) : Out :=
  .next (s.runG b fun e => ftoiRes m (e.rm m.rnd) e.l.seed (e.fx b.a))

end Sys2Proof.Machine
end

