-- ==== Sys2Proof/Machine/Wide.lean ====
section
/-! DEFINITION. The wide instructions (R157 to R166). -/
namespace Sys2Proof.Machine

/-- A wide source as a checked operand: its number, its field and its value. -/
def Env.opnd (e : Env) (k : Nat) (x : Src) : Nat × Src × Gran := (k, x, e.w x)

/-- A packed result as a lane result. -/
def Packed.res (p : Packed) : Res Gran := .ok p.w p.fl p.seed

/-- Element arithmetic (R160): check, compute exactly, choose the scale, pack. -/
def Env.elementwise (e : Env) (m : WideMod) (ops : List (Nat × Src)) (f : List X → X × Fl) : Res Gran :=
  match firstBad m.fmt (ops.map fun o => e.opnd o.1 o.2) with
  | some i => .trap 13 i
  | none =>
    let r := tabulate m.fmt.count fun i => f (ops.map fun o => elemVal m.fmt (e.w o.2) i)
    let v := r.map (·.1)
    let fl := r.foldl (fun a x => a ||| x.2) 0
    let a := match ops with | o :: _ => (e.w o.2).scale | [] => 0
    let sc := if m.sc then chooseScale m.fmt m.p2 v else a
    (pack m.fmt sc (e.rm m.rnd) m.ftz v fl e.l.seed).res

/-- A function of two values. -/
def two (f : X → X → X × Fl) : List X → X × Fl
  | a :: b :: _ => f a b
  | _ => (.nan, 0)

def Env.wide2 (e : Env) (b : BForm) (m : WideMod) (f : X → X → X × Fl) : Res Gran :=
  e.elementwise m [(0, b.a), (1, b.b)] (two f)

def execWadd (b : BForm) (m : WideMod) (s : State) : Out :=
  .next (s.runW b fun e => e.wide2 b m fun x y => e.addX m.rnd x y)
def execWsub (b : BForm) (m : WideMod) (s : State) : Out :=
  .next (s.runW b fun e => e.wide2 b m fun x y => e.addX m.rnd x y.negate)
def execWmul (b : BForm) (m : WideMod) (s : State) : Out := .next (s.runW b fun e => e.wide2 b m X.mul)
def execWfma (b : BForm) (m : WideMod) (s : State) : Out :=
  .next (s.runW b fun e => e.elementwise m [(0, b.a), (1, b.b), (2, b.c)] fun
    | x :: y :: z :: _ => fmaX (decide (e.rm m.rnd = .rd)) x y z
    | _ => (.nan, 0))
def execWmin (b : BForm) (m : WideMod) (s : State) : Out :=
  .next (s.runW b fun e => e.wide2 b m fun x y => (minMaxX false x y, 0))
def execWmax (b : BForm) (m : WideMod) (s : State) : Out :=
  .next (s.runW b fun e => e.wide2 b m fun x y => (minMaxX true x y, 0))

/-- The functions of R161. DESIGN CHOICE (log 18): GELU, SILU and TANH of −0 give −0. The rule gives the sign of a zero result for
relu alone and calls the others exact real values. -/
def actX (fn : Nat) (x : X) : X :=
  match x with
  | .nan => .nan
  | .inf n =>
    match fn with
    | 0 | 3 => if n then X.zero false else .inf false
    | 4 => .fin n 1 0 false
    | _ => if n then X.zero true else .inf false
  | .fin n m _ _ =>
    match fn with
    | 0 => if n then X.zero false else x
    | 1 => if m = 0 then x else geluX x.dy
    | 2 => if m = 0 then x else siluX x.dy
    | 3 => expX x.dy
    | _ => if m = 0 then x else tanhX x.dy

/-- WACT (R161). RELU never rounds; into a format of 16 bits or less under RS the model still draws once for each finite
element (DESIGN CHOICE, log 18: the spec leaves open whether a value that needs no rounding takes a draw). -/
def execWact (b : BForm) (m : WideMod) (s : State) : Out :=
  .next (s.runW b fun e =>
    match firstBad m.fmt [e.opnd 0 b.a] with
    | some i => .trap 13 i
    | none =>
      let v := (elemVals m.fmt (e.w b.a)).map (actX m.fn.toNat)
      (pack m.fmt (e.w b.a).scale (e.rm m.rnd) m.ftz v 0 e.l.seed).res)

/-! Reductions (R162). -/

/-- An exact sum: NaN for a NaN, infinities of both signs are invalid whatever the rest is, zero signs by R78. -/
def sumX (rd : Bool) (v : List X) : X × Fl :=
  if v.any X.isNan then
    (.nan, if v.any (fun x => x.isInf && x.neg?) && v.any (fun x => x.isInf && !x.neg?) then flNV else 0)
  else v.tail.foldl (fun a x => let r := X.add rd a.1 x; (r.1, a.2 ||| r.2)) (v.headD (X.zero false), 0)

/-- The largest or smallest of the values; a NaN gives NaN. -/
def extremeX (max : Bool) (v : List X) : X :=
  if v.any X.isNan then .nan else v.tail.foldl (minMaxX max) (v.headD .nan)

/-- Squares and products with their conditions. -/
def mulsX (ps : List (X × X)) : List X × Fl :=
  let r := ps.map fun p => X.mul p.1 p.2
  (r.map (·.1), r.foldl (fun a x => a ||| x.2) 0)

/-- The value before rounding of WRSUM: `c` and the elements. -/
def rsumX (fn : Nat) (rd : Bool) (c : X) (x : List X) : X × Fl :=
  match fn with
  | 0 => sumX rd (c :: x)
  | 1 => let p := mulsX (x.map fun a => (a, a)); let r := sumX rd (c :: p.1); (r.1, p.2 ||| r.2)
  | 2 => (extremeX true (c.abs :: x.map X.abs), 0)
  | 3 => (extremeX true (c :: x), 0)
  | _ => (extremeX false (c :: x), 0)

def execWrsum (b : BForm) (m : WideMod) (s : State) : Out :=
  .next (s.runG b fun e =>
    match firstBad m.fmt [e.opnd 0 b.a] with
    | some i => .trap 13 i
    | none => e.rndG m.rnd
        (rsumX m.fn.toNat (decide (e.rm m.rnd = .rd)) (e.fx b.c) (elemVals m.fmt (e.w b.a))))

/-- A product of a NaN raises nothing; 0 × ∞, and infinities of both signs in the sum, do whatever the rest is. -/
def dotX (rd : Bool) (c : X) (x y : List X) : X × Fl :=
  let p := mulsX (x.zip y)
  let r := sumX rd (c :: p.1)
  (r.1, p.2 ||| r.2)

def execWdot (b : BForm) (m : WideMod) (s : State) : Out :=
  .next (s.runG b fun e =>
    match firstBad m.fmt [e.opnd 0 b.a, e.opnd 1 b.b] with
    | some i => .trap 13 i
    | none => e.rndG m.rnd (dotX (decide (e.rm m.rnd = .rd)) (e.fx b.c) (elemVals m.fmt (e.w b.a))
        (elemVals m.fmt (e.w b.b))))

/-! Conversions (R163). -/

/-- The sources of a conversion: one register, or the group from a named one. -/
def convGroup (m : WideMod) (x : Src) : List Src :=
  let k := m.fmt2.count / m.fmt.count
  match x with
  | .reg n => if k ≤ 1 then [x] else (List.range k).map fun i => .reg (n + BitVec.ofNat 6 i)
  | _ => [x]

/-- The values of a conversion. -/
def Env.convVals (e : Env) (m : WideMod) (x : Src) : List X :=
  let all := (convGroup m x).flatMap fun y => elemVals m.fmt (e.w y)
  (all.drop (m.idx.toNat * m.fmt2.count)).take m.fmt2.count

def Env.convert (e : Env) (m : WideMod) (x : Src) (scale : List X → BitVec 16) : Res Gran :=
  match firstBad m.fmt ((convGroup m x).map fun y => e.opnd 0 y) with
  | some i => .trap 13 i
  | none =>
    let v := e.convVals m x
    (pack m.fmt2 (scale v) (e.rm m.rnd) m.ftz v 0 e.l.seed).res

def execWcvt (b : BForm) (m : WideMod) (s : State) : Out :=
  .next (s.runW b fun e => e.convert m b.a fun _ => 0x7F00)
def execWqnt (b : BForm) (m : WideMod) (s : State) : Out :=
  .next (s.runW b fun e => e.convert m b.a fun v => if m.sc then (e.w b.b).scale else chooseScale m.fmt2 m.p2 v)
def execWdq (b : BForm) (m : WideMod) (s : State) : Out :=
  .next (s.runW b fun e => e.convert m b.a fun _ => 0x7F00)

/-! Scales (R164). -/

/-- The scale WSCL sets. -/
def wsclScale (fn : Nat) (g : Word) : BitVec 16 :=
  match fn with
  | 1 => g.extractLsb' 0 16
  | 2 => mxfpScale (g.toNat % 256)
  | _ => mxintScale (g.toNat % 256)

def execWscl (b : BForm) (m : WideMod) (s : State) : Out :=
  if m.fn = 0 then .next (s.pureG b fun e => (e.w b.a).scale.setWidth 64)
  else .next (s.runW b fun e => e.pure ⟨wsclScale m.fn.toNat (e.g b.b), (e.w b.a).pay⟩)

/-! Element moves (R165). -/

/-- A result of moved element codes under a scale. -/
def Env.moved (e : Env) (f : Fmt) (sc : BitVec 16) (g : Nat → Nat) : Res Gran :=
  e.pure ⟨sc, payOf f (tabulate f.count g)⟩

def execWprm (b : BForm) (m : WideMod) (s : State) : Out :=
  .next (s.runW b fun e =>
    let a := e.w b.a
    let n := m.fmt.count
    e.moved m.fmt a.scale fun i => elemCode m.fmt a.pay (match m.fn.toNat with
      | 0 => ((e.w b.b).pay.extractLsb' (8 * i) 8).toNat % n
      | 1 => (i + m.idx.toNat) % n
      | 2 => i ^^^ m.idx.toNat
      | _ => n - 1 - i))
def execWbc (b : BForm) (m : WideMod) (s : State) : Out :=
  .next (s.runW b fun e =>
    if m.fn = 0 then e.moved m.fmt (e.w b.a).scale fun _ => elemCode m.fmt (e.w b.a).pay m.idx.toNat
    else e.moved m.fmt 0x7F00 fun _ => (e.g b.b).toNat % 2 ^ m.fmt.bits)
def execWcmp (b : BForm) (m : WideMod) (s : State) : Out :=
  .next (s.runG b fun e =>
    match firstBad m.fmt [e.opnd 0 b.a, e.opnd 1 b.b] with
    | some i => .trap 13 i
    | none => e.pure (BitVec.ofNat 64 ((List.range m.fmt.count).foldl (fun a i =>
        a + boolN (floatRel m.fn.toNat (elemVal m.fmt (e.w b.a) i) (elemVal m.fmt (e.w b.b) i)) * 2 ^ i) 0)))
def execWsel (b : BForm) (m : WideMod) (s : State) : Out :=
  .next (s.runW b fun e =>
    e.moved m.fmt (e.w b.a).scale fun i =>
      elemCode m.fmt (if (e.g b.c).getLsbD i then (e.w b.a).pay else (e.w b.b).pay) i)
def execWins (b : BForm) (m : WideMod) (s : State) : Out :=
  .next (s.runW b fun e =>
    e.moved m.fmt (e.w b.a).scale fun i =>
      if i = m.idx.toNat then (e.g b.b).toNat % 2 ^ m.fmt.bits else elemCode m.fmt (e.w b.a).pay i)
def execWext (b : BForm) (m : WideMod) (s : State) : Out :=
  .next (s.pureG b fun e => BitVec.ofNat 64 (elemCode m.fmt (e.w b.a).pay m.idx.toNat))

end Sys2Proof.Machine
end

