-- ==== Sys2Proof/Machine/Moment.lean ====
section
/-! DEFINITION. The moment instructions (R73, R167 to R181). Results are formed exactly as `p + q √c` with one `c` per
instruction; CLP travels in bit 7 of a lane's conditions until commit (R170). -/
namespace Sys2Proof.Machine

/-- The parts of a moment (R73). -/
def momMean (m : Word) : X := f32 m.toNat
def momVar (m : Word) : X := f32 (m.toNat / 2 ^ 32)
def momVarCode (m : Word) : Nat := m.toNat / 2 ^ 32
def momOf (mean var : Nat) : Word := BitVec.ofNat 64 (var % 2 ^ 32 * 2 ^ 32 + mean % 2 ^ 32)

/-- A variance is negative when its sign is set and its value is neither zero nor NaN (R73). -/
def negVar (v : X) : Bool := !v.isNan && v.neg? && !v.isZero

/-- %ti of the negative-variance fault (R171). -/
def varInfo (src code : Nat) : Word := BitVec.ofNat 64 (code % 2 ^ 32 * 2 ^ 32 + src)

/-- The operand check of R171 over moment sources in order. -/
def firstNeg : List (Nat × Word) → Option Word
  | [] => none
  | (k, m) :: t => if negVar (momVar m) then some (varInfo k (momVarCode m)) else firstNeg t

/-! Values `p + q √c` and the extended reals. -/

inductive V where
  | fin (p q : Dy) (zeroNeg : Bool)
  | inf (neg : Bool)
  | nan
  deriving DecidableEq, Repr

/-- Sign of `p + q √c`: -1, 0 or 1. -/
def qsgn (p q c : Dy) : Int :=
  let q2 := (q.mul q).mul c
  let r : Int := if q2.isZero then 0 else if q.m < 0 then -1 else 1
  let s : Int := if p.m < 0 then -1 else if p.m = 0 then 0 else 1
  if r = 0 then s else if s = 0 ∨ s = r then r
  else
    let p2 := p.mul p
    if p2.lt q2 then r else if q2.lt p2 then s else 0

def V.sgn (c : Dy) : V → Int
  | .fin p q _ => qsgn p q c
  | .inf n => if n then -1 else 1
  | .nan => 0

def V.isNan : V → Bool | .nan => true | _ => false

/-- Whether the value counts as negative for sign rules: its sign, or the sign of its zero. -/
def V.negS (c : Dy) : V → Bool
  | .fin p q z => let s := qsgn p q c; if s = 0 then z else decide (s < 0)
  | .inf n => n
  | .nan => false

def V.ofX : X → V
  | .nan => .nan
  | .inf n => .inf n
  | .fin n m e _ => .fin (X.dy (.fin n m e false)) Dy.zero n

def V.add (rd : Bool) (c : Dy) (a b : V) : V × Fl :=
  match a, b with
  | .nan, _ | _, .nan => (.nan, 0)
  | .inf x, .inf y => if x = y then (.inf x, 0) else (.nan, flNV)
  | .inf x, _ => (.inf x, 0)
  | _, .inf y => (.inf y, 0)
  | .fin p q z, .fin p' q' z' =>
    (.fin (p.add p') (q.add q') (if qsgn p q c = 0 && qsgn p' q' c = 0 && z == z' then z else rd), 0)

def V.mul (c : Dy) (a b : V) : V × Fl :=
  match a, b with
  | .nan, _ | _, .nan => (.nan, 0)
  | .inf x, y => if y.sgn c = 0 then (.nan, flNV) else (.inf (x != y.negS c), 0)
  | x, .inf y => if x.sgn c = 0 then (.nan, flNV) else (.inf (x.negS c != y), 0)
  | .fin p q z, .fin p' q' z' =>
    (.fin ((p.mul p').add ((q.mul q').mul c)) ((p.mul q').add (q.mul p'))
      (V.negS c (.fin p q z) != V.negS c (.fin p' q' z')), 0)

def V.negate : V → V
  | .fin p q z => .fin p.neg q.neg (!z)
  | .inf n => .inf !n
  | .nan => .nan

/-- A value to round: a zero keeps its sign. -/
def V.toX (c : Dy) : V → X
  | .nan => .nan
  | .inf n => .inf n
  | .fin p q z => if qsgn p q c = 0 then X.zero z else if q.m = 0 then p.toX else algX p q c ⟨1, 0⟩

/-- A computation that collects conditions. -/
structure VF where
  v : V
  fl : Fl

def VF.ofX (x : X) : VF := ⟨V.ofX x, 0⟩
def VF.add (rd : Bool) (c : Dy) (a b : VF) : VF := let r := V.add rd c a.v b.v; ⟨r.1, a.fl ||| b.fl ||| r.2⟩
def VF.mul (c : Dy) (a b : VF) : VF := let r := V.mul c a.v b.v; ⟨r.1, a.fl ||| b.fl ||| r.2⟩
def VF.neg (a : VF) : VF := ⟨a.v.negate, a.fl⟩

/-- A part whose formula reads a NaN is NaN and raises nothing (R170). -/
def VF.reading (r : VF) (inputs : List X) : VF := if inputs.any X.isNan then ⟨.nan, 0⟩ else r

/-! Covariance (R169). -/

/-- The mode of a covariance term. -/
def cvMode (cm : BitVec 2) (mcov : Word) : Nat := if cm != 0 then cm.toNat - 1 else bitsOf mcov 1 0

/-- `cv(a, b)` with the values it reads. DESIGN CHOICE (log 17): where a variance is zero and ρ is not, the covariance is a zero whose
sign is that of ρ, the root being +0 also for a variance of −0. R169 gives the exact real value 0, which has no sign, and the sign
decides that of a mean of MMUL or MFMA that is an exact zero. -/
def cvOf (mode : Nat) (rho : X) (av bv : X) : VF × List X :=
  let zero : VF := ⟨.fin Dy.zero Dy.zero false, 0⟩
  if mode = 0 then (zero, [])
  else
    let r := if mode = 2 then X.one else rho
    if r.isZero then (zero, [])
    else
      let root : VF := match X.mul av bv with
        | (.nan, fl) => ⟨.nan, fl⟩
        | (.inf n, fl) => if n then ⟨.nan, fl ||| flNV⟩ else ⟨.inf false, fl⟩
        | (_, fl) => ⟨.fin Dy.zero ⟨1, 0⟩ false, fl⟩
      ((⟨V.ofX r, 0⟩ : VF).mul (av.dy.mul bv.dy) root, [av, bv])

/-! Results (R170, R171). -/

/-- The outcome of a moment computation in a lane: mean then variance rounded, or the computed check's fault. `vars` are
the variances of the moment sources. A negative variance that R171 replaces by +0 still takes the variance part's draw under
RS, and raises no inexact condition (DESIGN CHOICE, log 18: the spec leaves both open). -/
def Env.moment (e : Env) (r : Rnd) (c : Dy) (mean var : VF) (vars : List X) : Res Word :=
  let mode := e.rm r
  let t : Dy := (vars.foldl (fun a x => a.add x.dy) Dy.zero).mul ⟨1, -22⟩
  let negative := decide (var.v.sgn c < 0)
  let small := match var.v with
    | .fin p _ _ => !(t.lt p.abs)
    | _ => false
  if negative && !small then .trap 14 (varInfo 3 (rnF32 (var.v.toX c)))
  else
    let m := rndF32 mode e.l.seed (mean.v.toX c)
    let vx := if negative then X.zero false else var.v.toX c
    let v := rndF32 mode m.seed vx
    let code := if v.code = 2 ^ 31 then 0 else v.code
    .ok (momOf m.code code) (mean.fl ||| var.fl ||| m.fl ||| v.fl ||| (if negative then 128 else 0)) v.seed

/-- A result whose parts are already values. -/
def Env.momentX (e : Env) (r : Rnd) (p : X × X) (fl : Fl) : Res Word :=
  let mode := e.rm r
  let m := rndF32 mode e.l.seed p.1
  let v := rndF32 mode m.seed p.2
  .ok (momOf m.code (if v.code = 2 ^ 31 then 0 else v.code)) (fl ||| m.fl ||| v.fl) v.seed

/-- Run a moment formula after the operand check of its moment sources. -/
def Env.checked {α : Type} (e : Env) (srcs : List (Nat × Src)) (f : Res α) : Res α :=
  match firstNeg (srcs.map fun o => (o.1, e.m o.2)) with
  | some i => .trap 14 i
  | none => f

def Env.down (e : Env) (r : Rnd) : Bool := decide (e.rm r = .rd)

/-- MADD and MSUB (R176). -/
def Env.maddsub (e : Env) (b : BForm) (m : MomMod) (sub : Bool) : Res Word :=
  e.checked [(0, b.a), (1, b.b)] <|
    let x := e.m b.a
    let y := e.m b.b
    let av := momVar x
    let bv := momVar y
    let c := av.dy.mul bv.dy
    let rd := e.down m.rnd
    let cv := cvOf (cvMode m.cm e.t.mcov) (f32 e.t.mrho.toNat) av bv
    let bm := if sub then (momMean y).negate else momMean y
    let mean := ((VF.ofX (momMean x)).add rd c (VF.ofX bm)).reading [momMean x, momMean y]
    let k2 := (VF.ofX (X.ofInt (if sub then -2 else 2))).mul c cv.1
    let sum := (VF.ofX av).add rd c (VF.ofX bv)
    let var := (if cvMode m.cm e.t.mcov = 0 then sum else sum.add rd c k2).reading (av :: bv :: cv.2)
    e.moment m.rnd c mean var [av, bv]

/-- MADDC (R176). -/
def Env.maddc (e : Env) (b : BForm) (m : MomMod) : Res Word :=
  e.checked [(0, b.a), (1, b.b)] <|
    let x := e.m b.a
    let y := e.m b.b
    let av := momVar x
    let bv := momVar y
    let rd := e.down m.rnd
    let g := e.fx b.c
    let bm := if m.n then (momMean y).negate else momMean y
    let mean := ((VF.ofX (momMean x)).add rd Dy.zero (VF.ofX bm)).reading [momMean x, momMean y]
    let k2 := (VF.ofX (X.ofInt (if m.n then -2 else 2))).mul Dy.zero (VF.ofX g)
    let var := (((VF.ofX av).add rd Dy.zero (VF.ofX bv)).add rd Dy.zero k2).reading [av, bv, g]
    e.moment m.rnd Dy.zero mean var [av, bv]

/-- The exact product of R177: mean, variance and what each reads. Under IND the covariance k is 0, and its terms are evaluated
like the others (DEDUCED, log 17). -/
def prodOf (rd : Bool) (c : Dy) (am av bm bv : X) (cv : VF × List X) : (VF × List X) × (VF × List X) :=
  let k := cv.1
  let w (x : X) : VF := VF.ofX x
  let mul2 (a b : VF) : VF := VF.mul c a b
  let add2 (a b : VF) : VF := VF.add rd c a b
  let mean := add2 (mul2 (w am) (w bm)) k
  let t1 := mul2 (mul2 (w am) (w am)) (w bv)
  let t2 := mul2 (mul2 (w bm) (w bm)) (w av)
  let t3 := mul2 (w av) (w bv)
  let base := add2 (add2 t1 t2) t3
  let var := add2 (add2 base (mul2 (mul2 (mul2 (w (X.ofInt 2)) (w am)) (w bm)) k)) (mul2 k k)
  ((mean, am :: bm :: cv.2), (var, [am, bm, av, bv]))

/-- MMUL (R177). -/
def Env.mmul (e : Env) (b : BForm) (m : MomMod) : Res Word :=
  e.checked [(0, b.a), (1, b.b)] <|
    let x := e.m b.a
    let y := e.m b.b
    let c := (momVar x).dy.mul (momVar y).dy
    let mode := cvMode m.cm e.t.mcov
    let cv := cvOf mode (f32 e.t.mrho.toNat) (momVar x) (momVar y)
    let r := prodOf (e.down m.rnd) c (momMean x) (momVar x) (momMean y) (momVar y) cv
    e.moment m.rnd c (r.1.1.reading r.1.2) (r.2.1.reading r.2.2) [momVar x, momVar y]

/-- MFMA (R177). -/
def Env.mfma (e : Env) (b : BForm) (m : MomMod) : Res Word :=
  e.checked [(0, b.a), (1, b.b), (2, b.c)] <|
    let x := e.m b.a
    let y := e.m b.b
    let z := e.m b.c
    let rd := e.down m.rnd
    let c := (momVar x).dy.mul (momVar y).dy
    let mode := cvMode m.cm e.t.mcov
    let cv := cvOf mode (f32 e.t.mrho.toNat) (momVar x) (momVar y)
    let r := prodOf rd c (momMean x) (momVar x) (momMean y) (momVar y) cv
    e.moment m.rnd c ((r.1.1.add rd c (VF.ofX (momMean z))).reading (momMean z :: r.1.2))
      ((r.2.1.add rd c (VF.ofX (momVar z))).reading (momVar z :: r.2.2)) [momVar x, momVar y, momVar z]

/-- MSCL (R178). -/
def Env.mscl (e : Env) (b : BForm) (m : MomMod) : Res Word :=
  e.checked [(0, b.a)] <|
    let x := e.m b.a
    let g := e.fx b.b
    let h := e.fx b.c
    let rd := e.down m.rnd
    let mean := (((VF.ofX g).mul Dy.zero (VF.ofX (momMean x))).add rd Dy.zero (VF.ofX h)).reading [g, h, momMean x]
    let var := (((VF.ofX g).mul Dy.zero (VF.ofX g)).mul Dy.zero (VF.ofX (momVar x))).reading [g, momVar x]
    e.moment m.rnd Dy.zero mean var [momVar x]

/-! R179. -/

def reluX (x : X) : X := if x.neg? then X.zero false else x

/-- MREL, MSIG and MEXP of a mean and a variance that is not negative: the parts and the conditions. A variance of −0 takes
the row of +0 (DESIGN CHOICE, log 18: R179's table has no row for it). -/
def nonlin (fn : Nat) (mu v : X) : (X × X) × Fl :=
  match mu, v with
  | .nan, _ | _, .nan => ((.nan, .nan), 0)
  | .inf _, .inf _ => ((.nan, .nan), flNV)
  | .inf n, v =>
    (if n then (X.zero false, X.zero false)
     else match fn with
      | 0 => (.inf false, v)
      | 1 => (X.one, X.zero false)
      | _ => (.inf false, .inf false), 0)
  | _, .inf _ =>
    (match fn with
      | 1 => (.fin false 1 (-1) false, .fin false 1 (-2) false)
      | _ => (.inf false, .inf false), 0)
  | mu, v =>
    (if v.isZero then
      (match fn with
        | 0 => reluX mu
        | 1 => sigX mu.dy
        | _ => expX mu.dy, X.zero false)
     else match fn with
      | 0 => mrelX mu.dy v.dy
      | 1 => msigX mu.dy v.dy
      | _ => mexpX mu.dy v.dy, 0)

def Env.mnonlin (e : Env) (b : BForm) (m : MomMod) (fn : Nat) : Res Word :=
  e.checked [(0, b.a)] <|
    let r := nonlin fn (momMean (e.m b.a)) (momVar (e.m b.a))
    e.momentX m.rnd r.1 r.2

/-! MCOL (R180). -/

/-- `μ + k √v` over the extended reals. The root of −0 is −0 (DESIGN CHOICE, log 18: R180 leaves its sign open). -/
def lineX (rd : Bool) (mu k v : X) : VF :=
  let c := v.dy
  let root : VF := match v with
    | .inf _ => ⟨.inf false, 0⟩
    | .nan => ⟨.nan, 0⟩
    | _ => ⟨.fin Dy.zero ⟨1, 0⟩ v.neg?, 0⟩
  ((VF.ofX mu).add rd c ((VF.ofX k).mul c root)).reading [mu, k, v]

/-- SAMPLE before rounding, for draw `u`. -/
def mcolSample (mu v : X) (u : Nat) : X × Fl :=
  match mu, v with
  | .nan, _ | _, .nan => (.nan, 0)
  | .inf n, .inf _ => if n = decide (u < 2 ^ 23) then (.inf n, 0) else (.nan, flNV)
  | .inf n, _ => (.inf n, 0)
  | _, .inf _ => (.inf (decide (u < 2 ^ 23)), 0)
  | mu, v => if v.isZero then (mu, 0) else (sampleX mu.dy v.dy u, 0)

def Env.mcol (e : Env) (b : BForm) (m : MomMod) : Res Word :=
  e.checked [(0, b.a)] <|
    let x := e.m b.a
    let v := momVar x
    let rd := e.down m.rnd
    match m.fn.toNat with
    | 0 => e.pure (BitVec.ofNat 64 (x.toNat % 2 ^ 32))
    | 1 => e.pure (BitVec.ofNat 64 (momVarCode x))
    | 2 => e.rndG m.rnd (match v with
        | .inf _ => (.inf false, 0)
        | .nan => (.nan, 0)
        | v => (if v.isZero then v else sqrtX v.dy, 0))
    | 3 => let r := lineX rd (momMean x) (e.fx b.b).negate v; e.rndG m.rnd (r.v.toX v.dy, r.fl)
    | 4 => let r := lineX rd (momMean x) (e.fx b.b) v; e.rndG m.rnd (r.v.toX v.dy, r.fl)
    | _ =>
      let d := nextDraw e.l.seed
      let r := mcolSample (momMean x) v d.1
      let q := rndF32 (e.rm m.rnd) d.2 r.1
      .ok (BitVec.ofNat 64 q.code) (r.2 ||| q.fl) q.seed

/-! The instructions. -/

def execMset (b : BForm) (_m : MomMod) (s : State) : Out :=
  .next (s.runM b fun e =>
    if negVar (e.fx b.b) then .trap 14 (varInfo 1 (e.fc b.b)) else e.pure (momOf (e.fc b.a) (e.fc b.b)))
def execMcol (b : BForm) (m : MomMod) (s : State) : Out := .next (s.runG b fun e => e.mcol b m)
def execMmov (b : BForm) (m : MomMod) (s : State) : Out :=
  match m.fn.toNat with
  | 0 => .next (s.runM b fun e => e.pure (e.m b.a))
  | 1 => .next (s.pureG b fun e => e.m b.a)
  | _ => .next (s.runM b fun e => e.pure (e.g b.a))
def execMadd (b : BForm) (m : MomMod) (s : State) : Out := .next (s.runM b fun e => e.maddsub b m false)
def execMsub (b : BForm) (m : MomMod) (s : State) : Out := .next (s.runM b fun e => e.maddsub b m true)
def execMmul (b : BForm) (m : MomMod) (s : State) : Out := .next (s.runM b fun e => e.mmul b m)
def execMscl (b : BForm) (m : MomMod) (s : State) : Out := .next (s.runM b fun e => e.mscl b m)
def execMaddc (b : BForm) (m : MomMod) (s : State) : Out := .next (s.runM b fun e => e.maddc b m)
def execMfma (b : BForm) (m : MomMod) (s : State) : Out := .next (s.runM b fun e => e.mfma b m)
def execMrel (b : BForm) (m : MomMod) (s : State) : Out := .next (s.runM b fun e => e.mnonlin b m 0)
def execMsig (b : BForm) (m : MomMod) (s : State) : Out := .next (s.runM b fun e => e.mnonlin b m 1)
def execMexp (b : BForm) (m : MomMod) (s : State) : Out := .next (s.runM b fun e => e.mnonlin b m 2)

/-- Whether both parts are finite and the variance is not negative (R181). -/
def momGood (m : Word) : Bool := (momMean m).isFin && (momVar m).isFin && !negVar (momVar m)

/-- MCHK (R181): FN 0 a predicate, FN 1 a check that leaves b0 empty. -/
def execMchk (b : BForm) (m : MomMod) (s : State) : Out :=
  if m.fn = 0 then .next (s.pureP b fun e => momGood (e.m b.a))
  else .next (s.mapLanes fun f l =>
    if !l.active then l
    else
      let x := Env.m ⟨s, f, l⟩ b.a
      if l.guard b.pn b.pr && negVar (momVar x) then l.trap f.idx 14 (varInfo 0 (momVarCode x))
      else l.shift none)

end Sys2Proof.Machine
end

