-- ==== Sys2Proof/Machine/Engine.lean ====
section
/-! DEFINITION. The engines behind bulk reads, copies and the optimiser update (R225 to R246): walks, engine operations,
the engine fault queue, bursts and their handlers, copy units, tiles, and the events of these. -/
namespace Sys2Proof.Machine

/-! Walks (R227 to R230). -/

/-- Whether a descriptor is refused (R228). -/
def walkBad (l : List Byte) : Bool :=
  let w := Walk.parse l
  decide (1 < fieldAt l 9 1) || !zeroAt l 10 16 || !zeroAt l 24 32 || !zeroAt l 176 192 ||
  ((List.range 6).any fun k => !zeroAt l (44 + 24 * k) (48 + 24 * k)) || decide (4 < w.unit) ||
  (w.ctrs.any fun c => c.n == 0 || decide (65536 < c.n)) || decide (2 ^ 32 < w.points)

/-- The coordinates of a sequence number. -/
def coordsOf : List Ctr → Nat → List Nat
  | [], _ => []
  | c :: t, seq => seq % c.n :: coordsOf t (seq / c.n)

/-- The address of coordinates. -/
def Walk.addr (w : Walk) (cs : List Nat) : Word :=
  w.base + BitVec.ofInt 64 ((w.ctrs.zip cs).foldl (fun a x => a + (x.1.org + x.2) * x.1.stride) 0)

/-- Whether coordinates lie inside. -/
def Walk.inside (w : Walk) (cs : List Nat) : Bool :=
  !w.bound || (w.ctrs.zip cs).all fun x => decide (0 ≤ x.1.org + x.2) && decide (x.1.org + x.2 < x.1.ext)

/-- Point `seq` (R229). -/
def Walk.point (w : Walk) (seq : Nat) : List Nat × Word × Bool :=
  let cs := coordsOf w.ctrs seq
  (cs, w.addr cs, w.inside cs)

/-- Bytes per unit of a copy. -/
def Walk.unitBytes (w : Walk) : Nat := 16 * 2 ^ w.unit

/-- The address of point 0, when the walk is misaligned for unit size `z` (R230). -/
def Walk.misaligned (w : Walk) (z : Nat) : Option Word :=
  let a := w.addr (coordsOf w.ctrs 0)
  if a.toNat % z ≠ 0 ∨ (w.ctrs.any fun c => decide (1 < c.n) && c.stride % z != 0) then some a else none

/-- The FILL pattern over `n` bytes. -/
def Walk.fillBytes (w : Walk) (n : Nat) : List Byte :=
  (List.range (n / 8)).flatMap fun _ => toBytes 8 w.fill.toNat

/-! Operations (R231 to R233). -/

/-- Start an engine operation at commit: its number, its place in the engine table, and the deferred status. -/
def State.issueOp (s : State) (t : TId) (tl : Option Nat) (scope : Nat) (kind : OpKind) (bar : Option Nat) (sb : Option Nat)
    (dst : Nat) : State :=
  let th := s.th t
  let r := match tl with
    | some k => s.takeNumber t.p th.ctx k
    | none => (0, s)
  let (id, s) := r.2.fresh
  let o : Op :=
    { id := id, t := t, gen := th.gen, ctx := th.ctx, entry := th.entry, band := th.band, tl := tl, num := r.1
      scope := scope, kind := kind, next := 0, failed := 0, err := false, cancel := false, hcode := 0, bursts := []
      held := [], again := [], written := [], handlers := [], gens := [], kids := []
      bar := bar.bind fun b => th.band.map fun x => (x, b), stopped := false, paused := false, out := false }
  let ops := match th.handler with
    | some h => s.ops.map fun x => if x.id = h.op then { x with kids := id :: x.kids } else x
    | none => s.ops
  ({ s with ops := ops ++ [o] } : State).enact t (.req (reqOf sb (.engine id dst) [] none))

def State.op (s : State) (id : Nat) : Option Op := s.ops.find? (·.id == id)
def State.setOp (s : State) (o : Op) : State := { s with ops := s.ops.map fun x => if x.id = o.id then o else x }

/-- What the issue of an operation, a release at its scope, carries has come about (R203, R209). -/
def State.opCarried (s : State) (o : Op) : Bool := s.carriedAt o.t.p o.gen o.id o.scope

/-- The status word (R233). A BUPD sets ERR too where a cancel alone left elements unapplied (DESIGN CHOICE, log 31: R225 has ERR
for an element that failed and counts both kinds in FAILED). -/
def Op.status (o : Op) : Word :=
  BitVec.ofNat 64 (2 ^ 63 + boolN (o.failed != 0 || o.err) * 2 ^ 62 + boolN o.cancel * 2 ^ 61 + o.hcode % 256 * 2 ^ 40 +
    o.failed % 2 ^ 32)

/-- Complete an operation with a status: its timeline, the status on its way to gD, and the cancels that waited for it. -/
def State.finishOp (s : State) (o : Op) (status : Word) : State :=
  let s : State := { s with ops := s.ops.filter (·.id != o.id) }
  let s := match o.tl with
    | some k => s.timelineDone o.t.p o.ctx k o.num status
    | none => s
  { s with reqs := s.reqs.map fun r =>
      match r.kind with
      | .engine id dst => if id = o.id then { r with resp := some [.g dst status] } else r
      | .cancel ids => if ids.all fun i => !(s.ops.any (·.id == i)) then { r with resp := some [] } else r
      | _ => r }

/-! The engine fault queue (R239). -/

/-- Free the records of the queue that hold no unit any more. -/
def State.trimQueue (s : State) (p : PId) : State :=
  s.modProc p fun r => { r with efq := r.efq.filter fun f => s.ops.any fun o => o.t.p == p && o.held.any (·.2 == f.1) }

/-- The record that holds the page of an address for an engine. -/
def Proc.heldPage (r : Proc) (copyEng : Bool) (ctx : Nat) (va : Word) : Option Nat :=
  (r.efq.find? fun f => f.2.copyEng == copyEng && f.2.ctx == ctx &&
    f.2.va.toNat / 2 ^ f.2.bits == va.toNat / 2 ^ f.2.bits).map (·.1)

/-- log2 of the page in which an address faulted (R190, R239): that of the leaf found, and 8 KiB where the walk met none
(DESIGN CHOICE, log 31). -/
def Proc.faultBits (r : Proc) (ctx : Nat) (va : Word) : Nat :=
  match r.tlb.find? (·.hits ctx va) with
  | some e => pageBits e.level
  | none => 13

/-- Hold a unit on a faulting page: with the page's record, or a new one and its event; nothing when all eight stand. -/
def State.holdUnit (s : State) (o : Op) (seq : Nat) (va : Word) (cause : Nat) (copyEng : Bool) : Option State :=
  let p := o.t.p
  let r := s.proc p
  match r.heldPage copyEng o.ctx va with
  | some k => some (s.setOp { o with held := o.held ++ [(seq, k)] })
  | none =>
    match (List.range 8).find? fun k => (r.efq.find k).isNone with
    | none => none
    | some k =>
      let f : FaultRec := ⟨o.num, cause == 10, copyEng, o.tl.getD 0, o.ctx, va, if cause = 10 then r.faultBits o.ctx va else 13⟩
      some (((s.setProc p { r with efq := r.efq.put k f }).setOp { o with held := o.held ++ [(seq, k)] }).raise p.site 3
        p.core o.t.lane (o.t.slot % 16) o.ctx k)

/-- What an engine finds at an address: the bytes' place, a page fault that holds the unit, a failure, or nothing yet, a table entry
being on its way. -/
inductive EngAddr where
  | ok (pa : Nat)
  | hold (cause : Nat)
  | fail
  | wait
  deriving DecidableEq, Repr

/-- Poison met by an engine is logged at the home (R210). -/
def State.logPoison (s : State) (o : Op) (pa kind : Nat) : State :=
  s.logErr (paSite pa) kind 1 o.ctx o.t.p.core o.t.lane (o.t.slot % 16) (o.t.p.site % 64) (BitVec.ofNat 64 (paLocal pa)) 1 0

/-- A walk that read a poisoned table entry for an engine is logged at that entry's home (R240, R243). -/
def State.logWalk (s : State) (o : Op) (va : Word) : State :=
  let q := s.site o.t.p.site
  match q.liveCtx o.ctx with
  | none => s
  | some x => match walk s o.t.p o.ctx (q.ctx x).ptroot.toNat va with
    | .fail f => if f.rdf = 1 then s.logPoison o f.entry 2 else s
    | _ => s

/-- Translate for an engine (R239, R240, R243); the entry a failed walk read is logged as the walk met it. -/
def State.engineAddr (s : State) (o : Op) (copyEng : Bool) (va : Word) (n : Nat) (k : AccKind) : EngAddr × State :=
  match (s.proc o.t.p).heldPage copyEng o.ctx va with
  | some _ => (.hold 9, s)
  | none =>
    let logged := s.logWalk o va
    match s.translate o.t.p o.ctx va k with
    | (.ok pa _, s) => (if (paRegion pa n).isSome then .ok pa else .fail, s)
    | (.trap c, s) =>
      if c = 9 ∨ c = 10 then (.hold c, s) else (.fail, if c = 12 then (logged.translate o.t.p o.ctx va k).2 else s)
    | (.dead, s) => (.fail, s)
    | (.wait, s) => (.wait, s)

/-- The way of an engine's access to the bytes at `pa`, its request being sent where it was not yet (R235). -/
def State.opWay (s : State) (o : Op) (pa : Nat) : Way × State := s.askWay o.t.p o.ctx o.gen (.access o.id pa) pa

/-- An engine's access at its bytes, or discarded on its way, is done with. -/
def State.opDone (s : State) (o : Op) (pa : Nat) (data : List Byte) : State := s.endWay o.t.p o.ctx o.id pa data

/-- Stores of the processor on their way to bytes that an engine is about to touch. -/
def State.underway (s : State) (p : PId) (pa n : Nat) : Bool :=
  s.stores.any fun x => x.t.p == p && !x.done && x.targets.any fun a => decide (a < pa + n) && decide (pa < a + x.size)

/-! The burst engine (R235 to R240). -/

/-- A cancelled bulk read sends nothing more; what is not in flight is counted in FAILED (R240). -/
def State.settleBread (s : State) (o : Op) : State × Op :=
  if !o.cancel then (s, o)
  else
    let landed := (o.bursts.filter fun b => b.data.isSome).length
    let o := { o with
      failed := o.failed + (o.kind.total - o.next) + o.held.length + o.again.length + landed
      next := o.kind.total, held := [], again := []
      bursts := o.bursts.filter fun b => b.data.isNone }
    ((s.setOp o).trimQueue o.t.p, o)

/-- Ask for the burst of point `seq`: `fresh` when the point is new. -/
def State.askBurst (s : State) (o : Op) (w : Walk) (z seq : Nat) (fresh : Bool) : State :=
  let (cs, va, inb) := w.point seq
  let o := if fresh then { o with next := o.next + 1 } else { o with again := o.again.drop 1 }
  if !inb then
    let (id, s) := s.fresh
    s.setOp { o with bursts := o.bursts ++ [⟨seq, cs, true, va, 0, some (w.fillBytes z), id, false⟩] }
  else
    match s.engineAddr o false va z .read with
    | (.ok pa, s) => (s.setOp { o with bursts := o.bursts ++ [⟨seq, cs, false, va, pa, none, 0, false⟩] }).opWay o pa |>.2
    | (.hold c, s) => (s.holdUnit o seq va c false).getD s
    | (.fail, s) => s.setOp { o with failed := o.failed + 1 }
    | (.wait, s) => s

/-- BURST_REQUEST: the issue of the bulk read is a release (R203), so what it carries comes first. -/
def execBurstRequest (op : Nat) (s : State) : Out :=
  match s.op op with
  | none => .next s
  | some o =>
    match o.kind with
    | .bread w z _ _ _ _ _ _ =>
      if o.cancel then .next (s.settleBread o).1
      else if o.stopped ∨ (o.next = 0 ∧ !s.opCarried o) then .next s
      else match o.again with
        | seq :: _ => .next (s.askBurst o w z seq false)
        | [] =>
          if o.kind.total ≤ o.next then .next s
          else if s.bufferUse o.t.p + z ≤ 65536 then .next (s.askBurst o w z o.next true)
          else .next (s.claimEngines o.t.p o.entry)
    | _ => .next s

/-- Drop the lines of a range from the copies an issuer's loads could meet. -/
def State.dropRange (s : State) (p : PId) (pa n : Nat) : State :=
  (List.range (lineOf (pa + n - 1) + 1 - lineOf pa)).foldl (fun s k => s.dropCopies p (lineOf pa + k)) s

/-- BURST_ARRIVAL: the burst's request has come to its bytes, which go back to their reserved space, or the burst is counted in
FAILED. Older copies of the bytes leave the processor's caches, so that its handler reads nothing older (R209). -/
def execBurstArrival (op seq : Nat) (s : State) : Out :=
  match s.op op with
  | none => .next s
  | some o =>
    match o.kind, o.bursts.find? fun b => b.seq == seq && b.data.isNone with
    | .bread _ z _ _ _ _ _ _, some b =>
      let gone := { o with bursts := o.bursts.filter (·.seq != seq), failed := o.failed + 1 }
      match s.opWay o b.pa with
      | (.coming, s) | (.unasked, s) => .next s
      | (_, s) =>
        if o.cancel then
          let r := (s.opDone o b.pa []).settleBread o
          .next (r.1.setOp { r.2 with bursts := r.2.bursts.filter (·.seq != seq), failed := r.2.failed + 1 })
        else if !s.loadOk o.t.p o.ctx o.id b.pa z .read then .next ((s.opDone o b.pa []).setOp gone)
        else if s.poisoned b.pa z then .next (((s.opDone o b.pa []).setOp gone).logPoison o b.pa 2)
        else if s.underway o.t.p b.pa z then .next s
        else
          let data := s.homeBytes b.pa z
          let (id, s) := s.fresh
          .next (((s.opDone o b.pa data).dropRange o.t.p b.pa z).setOp { o with bursts := o.bursts.map fun x =>
            if x.seq = seq then { x with data := some data, arrival := id } else x })
    | _, _ => .next s

/-- Handler threads of a bulk read in any state but FREE. -/
def State.handlersOf (s : State) (o : Op) : Nat :=
  ((s.liveThreads o.t.p).filter fun x => match x.2.handler with | some h => h.op == o.id | none => false).length

/-- The answer to access `id` at `pa` is still on its way. -/
def State.answeringAt (s : State) (id pa : Nat) : Bool := s.packets.any fun k => k.kind == .answer id pa

/-- The landed bursts of a core, first arrived first: their bytes have come. -/
def State.landed (s : State) (p : PId) : List (Op × Burst) :=
  let l := s.ops.flatMap fun o =>
    if o.t.p = p ∧ !o.stopped ∧ !o.out ∧ !o.cancel then
      (o.bursts.filter fun b => b.data.isSome && (b.outside || !s.answeringAt o.id b.pa)).map fun b => (o, b)
    else []
  sortBy (fun a b => decide (a.2.arrival ≤ b.2.arrival)) l

/-- The first and fourth conditions of R236, for a burst of this bulk read. -/
def State.mayAdmit (s : State) (o : Op) : Bool :=
  match o.kind with
  | .bread _ _ _ _ _ budget _ jb =>
    decide (s.handlersOf o < budget) && (match jb with
      | some b => match (s.proc o.t.p).band b with | some x => decide (x.members.length < 512) | none => false
      | none => true)
  | _ => false

/-- A burst whose band has ended (R237). -/
def State.bandGone (s : State) (o : Op) : Bool :=
  match o.kind with
  | .bread _ _ _ _ _ _ _ (some b) => ((s.proc o.t.p).band b).isNone
  | _ => false

/-- The slot the next handler takes: lanes round-robin, the lowest free slot at or above HLO. -/
def State.handlerSlot (s : State) (p : PId) : Option TId :=
  let r := s.proc p
  (List.range (lanesOf p)).findSome? fun k =>
    let lane := (r.hlane + 1 + k) % lanesOf p
    ((List.range (slotsOf p)).find? fun row => decide (r.hlo ≤ row) && (s.th ⟨p, lane, row⟩).st == .free).map
      fun row => ⟨p, lane, row⟩

/-- The wide registers of a burst (R237). -/
def burstRegs (data : List Byte) : Vector Gran 16 :=
  Vector.ofFn fun k : Fin 16 =>
    if k.val < 8 then ⟨0x7F00, BitVec.ofNat 256 (ofBytes ((data.drop (32 * k.val)).take 32))⟩ else ⟨0, 0⟩

/-- Create the handler of a burst (R237). -/
def State.admitBurst (s : State) (o : Op) (b : Burst) (t : TId) : State :=
  match o.kind with
  | .bread _ _ pc args g17 _ gsd jb =>
    let bid : Word := BitVec.ofNat 64 (o.tl.getD 0 * 2 ^ 32 + o.num % 2 ^ 32)
    let s := s.create t o.ctx o.entry pc fun th =>
      { th with
        gr := Vector.ofFn fun k : Fin 32 =>
          if 1 ≤ k.val ∧ k.val ≤ 7 then g17[k.val - 1]?.getD 0
          else if 8 ≤ k.val ∧ k.val ≤ 11 then args[k.val - 8]?.getD 0
          else if k.val = 12 then BitVec.ofNat 64 (boolN b.outside) else 0
        wr := burstRegs (b.data.getD [])
        gsd := gsd
        handler := some ⟨o.id, b.bc, b.seq, bid⟩ }
    let s := s.acquire t o.scope
    let s := match jb with | some br => s.joinBand t br | none => s
    let s := s.setOp { o with
      bursts := o.bursts.filter (·.seq != b.seq), handlers := t :: o.handlers, gens := (s.th t).gen :: o.gens }
    (s.modProc t.p fun r => { r with hlane := t.lane }).perfAdd t.p o.ctx 9 1
  | _ => s

/-- HANDLER_ADMIT: bursts of ended bands are counted, then the first burst that R236 lets in becomes a handler. -/
def execHandlerAdmit (p : PId) (s : State) : Out :=
  let s := ((s.landed p).filter fun x => s.bandGone x.1).foldl (fun s x =>
    match s.op x.1.id with
    | some o => s.setOp { o with bursts := o.bursts.filter (·.seq != x.2.seq), failed := o.failed + 1 }
    | none => s) s
  match (s.landed p).find? fun x => s.mayAdmit x.1 with
  | none => .next s
  | some (o, b) =>
    if (s.proc p).hmax ≤ s.hlive p then .next s
    else match s.handlerSlot p with
      | none => .next s
      | some t => .next (s.admitBurst o b t)

/-- The accesses of a bulk read's handlers are done (R209, R238): their loads and atomics performed, their stores out of their
queues and, at RET scope or wider, acknowledged, with those of the processor that their loads have read (R204). -/
def State.handlerStoresDone (s : State) (o : Op) : Bool :=
  !(s.reqs.any fun r => o.gens.contains r.gen && r.waiting) &&
  !((s.proc o.t.p).queues.any fun q => q.2.any fun x => o.gens.contains x.gen) &&
    (o.scope == 0 || !((s.stores.any fun x => x.t.p == o.t.p && (o.gens.contains x.gen || x.readers.any o.gens.contains)) ||
      (s.proc o.t.p).queues.any fun q => q.2.any fun x => x.readers.any o.gens.contains))

/-- LAST_BURST (R238). -/
def execLastBurst (op : Nat) (s : State) : Out :=
  match s.op op with
  | none => .next s
  | some o =>
    match o.kind with
    | .bread _ _ _ _ _ _ _ _ =>
      let r := s.settleBread o
      let s := r.1
      let o := r.2
      if o.next = o.kind.total ∧ o.bursts.isEmpty ∧ o.held.isEmpty ∧ o.again.isEmpty ∧ o.handlers.isEmpty ∧
          s.handlerStoresDone o ∧ !s.abroad o.id ∧ !(s.ops.any fun x => o.kids.contains x.id) then .next (s.finishOp o o.status)
      else .next s
    | _ => .next s

/-! Tiles (R244 to R246). -/

/-- Take a writer or reader off a tile. -/
def Tile.less (t : Tile) : Tile :=
  if t.cnt ≤ 1 then (if t.ending then Tile.empty else { t with st := .ready, cnt := 0, acc := false })
  else { t with cnt := t.cnt - 1 }

def State.setTile (s : State) (p : PId) (k : Nat) (t : Tile) : State :=
  s.modProc p fun r => { r with tiles := if t = Tile.empty then r.tiles.drop k else r.tiles.put k t }

/-- Tile `k` stands in the table as one of band `b`'s. -/
def Proc.tileIn (r : Proc) (k : Nat) (b : Option BandRef) : Bool := (r.tile k).st != .empty && b == some (r.tile k).band

/-- Tile `k` of band `b`, scanned out (R345). -/
def Proc.tileOut (r : Proc) (k : Nat) (b : Option BandRef) : Option ((Nat × Nat) × Tile × List Byte) :=
  r.stiles.find? fun x => x.1.2 == k && b == some x.2.1.band

/-- A scrub, a copy, an add or a drain of a band on its tile ends, wherever the tile stands; that of a band whose tile is gone
touches nothing. -/
def State.tileEnd (s : State) (p : PId) (k : Nat) (b : Option BandRef) : State :=
  if (s.proc p).tileIn k b then s.setTile p k ((s.proc p).tile k).less
  else match (s.proc p).tileOut k b with
    | some x => s.modProc p fun r => { r with stiles := r.stiles.put x.1 (x.2.1.less, x.2.2) }
    | none => s

/-- Store bytes in a band's tile, wherever it stands. -/
def State.tileWrite (s : State) (p : PId) (k : Nat) (b : Option BandRef) (off : Nat) (d : List Byte) : State :=
  if (s.proc p).tileIn k b then s.modProc p fun r => { r with tstore := Memory.write r.tstore ((r.tile k).base + off) d }
  else match (s.proc p).tileOut k b with
    | some x => s.modProc p fun r =>
        { r with stiles := r.stiles.put x.1 (x.2.1, x.2.2.take off ++ d ++ x.2.2.drop (off + d.length)) }
    | none => s

/-- Bytes of a band's tile, wherever it stands. -/
def State.tileRead (s : State) (p : PId) (k : Nat) (b : Option BandRef) (off n : Nat) : List Byte :=
  if (s.proc p).tileIn k b then Memory.read (s.proc p).tstore (((s.proc p).tile k).base + off) n
  else match (s.proc p).tileOut k b with
    | some x => (x.2.2.drop off).take n
    | none => List.replicate n 0

/-- TILE_SCRUB_END (R253): every byte of the tile reads zero. -/
def execTileScrubEnd (p : PId) (tile : Nat) (s : State) : Out :=
  let t := (s.proc p).tile tile
  if t.st = .empty ∨ !t.scrub then .next s
  else
    let s := s.modProc p fun r => { r with tstore := r.tstore.filter fun c =>
      !(decide (t.base ≤ c.1) && decide (c.1 < t.base + 512 * t.size)) }
    .next ((s.setTile p tile { t with scrub := false }).tileEnd p tile (some t.band))

/-! The copy engine (R242, R243). -/

/-- A unit counted in FAILED. -/
def State.failUnit (s : State) (o : Op) : State := (s.setOp { o with failed := o.failed + 1 }).post o o.kind.unitBytes

/-- A cancelled copy at a 4 KiB boundary: the rest is counted in FAILED. -/
def State.settleCopy (s : State) (o : Op) : State :=
  let n := (o.kind.total - o.next) + o.held.length + o.again.length
  ((s.setOp { o with failed := o.failed + n, next := o.kind.total, held := [], again := [] }).trimQueue o.t.p).postUnits o n

/-- The bytes of a unit that no later unit already written covers (R242): offset and byte. -/
def keepBytes (done : List Burst) (seq z pa : Nat) (data : List Byte) : List (Nat × Byte) :=
  (data.zipIdx pa).filterMap fun x =>
    if done.any fun d => decide (seq < d.seq) && decide (d.pa ≤ x.2) && decide (x.2 < d.pa + z) then none else some (x.2, x.1)

/-- Bytes read for a unit, each as it stood before any later unit wrote it (R242): the first write of a later unit on a byte
remembers that. -/
def unwritten (done : List Burst) (seq z pa : Nat) (data : List Byte) : List Byte :=
  (data.zipIdx pa).map fun x =>
    match done.find? fun d => decide (seq < d.seq) && decide (d.pa ≤ x.2) && decide (x.2 < d.pa + z) with
    | some d => ((d.data.getD [])[x.2 - d.pa]?).getD x.1
    | none => x.1

/-- Where a unit goes. -/
inductive Dest where
  | mem (pa : Nat)
  | tile (k off : Nat)
  | none
  deriving DecidableEq, Repr

/-- What a unit reads: memory, or bytes at hand with whether they are poisoned. -/
inductive Source where
  | mem (pa : Nat)
  | bytes (b : List Byte) (bad : Bool)
  deriving DecidableEq, Repr

/-- Maximal runs of adjacent bytes. -/
def runsOf : List (Nat × Byte) → List (Nat × List Byte)
  | [] => []
  | (a, b) :: t => match runsOf t with
    | (a', l) :: r => if a + 1 = a' then (a, b :: l) :: r else (a, [b]) :: (a', l) :: r
    | [] => [(a, [b])]

/-- Write a unit to memory: the kept bytes, with their poison; the copies of the processor go. One access, one event of a
watch (R342). -/
def State.unitToMem (s : State) (o : Op) (pa : Nat) (kept : List (Nat × Byte)) (whole : List Byte) (poison : Bool) : State :=
  let s := s.dropCopies o.t.p (lineOf pa)
  let s := s.dropCopies o.t.p (lineOf (pa + whole.length - 1))
  if isControl pa then s.ctlStore (paSite pa) (paLocal pa) (some o.t.p) whole (whole.length / 8)
  else if kept.length = whole.length then s.writeMem pa whole poison
  else ((runsOf kept).foldl (fun s x => s.writeBytes x.1 x.2 poison) s).watchHit pa whole.length

/-- A unit has been written at `pa`, over bytes `old`. -/
def Op.wrote (o : Op) (seq pa : Nat) (old : List Byte) : Op :=
  { o with written := o.written ++ [⟨seq, [], false, 0, pa, some old, 0, false⟩] }

/-- Move one unit whose addresses are known and whose requests stand at the bytes they name. -/
def State.moveUnit (s : State) (o : Op) (seq z : Nat) (src : Source) (dst : Dest) : State :=
  let p := o.t.p
  let srcOk := match src with | .mem a => s.loadOk p o.ctx o.id a z .read | .bytes _ _ => true
  let dstOk := match dst with | .mem a => s.loadOk p o.ctx o.id a z .write | _ => true
  let ok := srcOk && dstOk
  let bad := match src with | .mem a => s.poisoned a z | .bytes _ bad => bad
  let data := match src with | .mem a => unwritten o.written seq z a (s.homeBytes a z) | .bytes b _ => b
  let s := match src with | .mem a => s.opDone o a (if ok then data else []) | .bytes _ _ => s
  let s := match dst with | .mem a => s.opDone o a [] | _ => s
  if !ok then s.failUnit o else
  let s := match src with | .mem a => if bad then s.logPoison o a 2 else s | .bytes _ _ => s
  match dst with
  | .none => s.post o z |>.setOp o
  | .tile k off =>
    if bad then s.failUnit o else
    let kept := keepBytes o.written seq z off data
    let o' := o.wrote seq off (s.tileRead p k o.band off z)
    let s := kept.foldl (fun s x => s.tileWrite p k o.band x.1 [x.2]) s
    (s.setOp o').post o' z
  | .mem a =>
    if bad && isControl a then s.failUnit o else
    let o' := o.wrote seq a (s.homeBytes a z)
    let s := s.unitToMem o a (keepBytes o.written seq z a data) data bad
    if bad then s.failUnit o' else (s.setOp o').post o' z

/-- Written units are remembered only while an earlier unit may still come after them. -/
def Op.forget (o : Op) : Op := if o.held.isEmpty && o.again.isEmpty then { o with written := [] } else o

/-- The requests of a unit for memory it reads and writes: they are all at their bytes, or discarded. -/
def State.unitWays (s : State) (o : Op) : List Nat → Bool × State
  | [] => (true, s)
  | a :: t =>
    let r := s.opWay o a
    let q := r.2.unitWays o t
    (q.1 && (match r.1 with | .here | .lost => true | .coming | .unasked => false), q.2)

/-- The unit of sequence number `seq`: its points, their pages, the requests for its bytes, then the move. A source whose destination
is outside is not read (DESIGN CHOICE, log 31: R242 says that nothing is written there, and leaves the read open). -/
def State.copyStep (s : State) (o : Op) (seq : Nat) (fresh : Bool) : State :=
  let o1 := if fresh then { o.forget with next := o.next + 1 } else { o with again := o.again.drop 1 }
  let z := o.kind.unitBytes
  -- a page fault holds the unit, pauses the engine, or after a cancellation counts the unit
  let stop (s : State) (va : Word) (c : Nat) : State :=
    if o.cancel then s.failUnit o1 else (s.holdUnit o1 seq va c true).getD s
  let side (s : State) (w : Walk) (k : AccKind) : EngAddr × Word × Bool × State :=
    let x := w.point seq
    if !x.2.2 then (.fail, x.2.1, false, s)
    else let r := s.engineAddr o true x.2.1 z k; (r.1, x.2.1, true, r.2)
  -- the requests first, and stores of the processor on their way to the bytes
  let go (s : State) (l : List Nat) (src : Source) (dst : Dest) : State :=
    let r := s.unitWays o l
    if r.1 && !(l.any fun a => s.underway o.t.p a z) then r.2.moveUnit o1 seq z src dst else r.2
  match o.kind with
  | .copy src dst =>
    let d := side s dst .write
    if !d.2.2.1 then (s.setOp o1).post o1 z
    else
      let r := side d.2.2.2 src .read
      let s := r.2.2.2
      match (if r.2.2.1 then r.1 else .ok 0), d.1 with
      | .wait, _ | _, .wait => s
      | .hold c, _ => stop s r.2.1 c
      | _, .hold c => stop s d.2.1 c
      | .ok a, .ok b =>
        if r.2.2.1 then go s [a, b] (.mem a) (.mem b) else go s [b] (.bytes (src.fillBytes z) false) (.mem b)
      | _, _ => s.failUnit o1
  | .copyIn src tile toff =>
    let r := side s src .read
    let into := Dest.tile tile (toff + seq * z)
    if !r.2.2.1 then s.moveUnit o1 seq z (.bytes (src.fillBytes z) false) into
    else match r.1 with
      | .wait => r.2.2.2
      | .hold c => stop r.2.2.2 r.2.1 c
      | .ok a => go r.2.2.2 [a] (.mem a) into
      | .fail => r.2.2.2.failUnit o1
  | .copyOut dst tile toff =>
    let d := side s dst .write
    let from_ := Source.bytes (s.tileRead o.t.p tile o.band (toff + seq * z) z) false
    if !d.2.2.1 then s.moveUnit o1 seq z from_ .none
    else match d.1 with
      | .wait => d.2.2.2
      | .hold c => stop d.2.2.2 d.2.1 c
      | .ok b => go d.2.2.2 [b] from_ (.mem b)
      | .fail => d.2.2.2.failUnit o1
  | _ => s

/-- Read a unit into the staging buffer, the writes it feeds being made later (R243); as in a unit moved at once, a source whose
destination is outside is not read (log 31). -/
def State.stageUnit (s : State) (o : Op) (seq : Nat) : State :=
  let o1 := { o with next := o.next + 1 }
  let z := o.kind.unitBytes
  let stage (s : State) (b : List Byte) (bad : Bool) : State :=
    s.setOp { o1 with bursts := o1.bursts ++ [⟨seq, [], false, 0, 0, some b, 0, bad⟩] }
  let load (w : Walk) : State :=
    let x := w.point seq
    if !x.2.2 then stage s (w.fillBytes z) false
    else match s.engineAddr o true x.2.1 z .read with
      | (.wait, s) => s
      | (.hold c, s) => (s.holdUnit o1 seq x.2.1 c true).getD (s.setOp { o with paused := true })
      | (.fail, s) => s.failUnit o1
      | (.ok a, s) =>
        let r := s.unitWays o [a]
        let s := r.2
        if !r.1 || s.underway o.t.p a z then s
        else if !s.loadOk o.t.p o.ctx o.id a z .read then (s.opDone o a []).failUnit o1
        else
          let bad := s.poisoned a z
          let data := unwritten o.written seq z a (s.homeBytes a z)
          let s := s.opDone o a data
          stage (if bad then s.logPoison o a 2 else s) data bad
  match o.kind with
  | .copy src dst => if (dst.point seq).2.2 then load src else (s.setOp o1).post o1 z
  | .copyIn src _ _ => load src
  | .copyOut _ tile toff => stage s (s.tileRead o.t.p tile o.band (toff + seq * z) z) false
  | _ => s

/-- Write a unit that stands staged (R243). -/
def State.writeStaged (s : State) (o : Op) (b : Burst) (data : List Byte) : State :=
  let o1 := { o with bursts := o.bursts.filter (·.seq != b.seq) }
  let z := o.kind.unitBytes
  let src := Source.bytes data b.bad
  let send (w : Walk) : State :=
    let x := w.point b.seq
    if !x.2.2 then s.moveUnit o1 b.seq z src .none
    else match s.engineAddr o true x.2.1 z .write with
      | (.wait, s) => s
      | (.hold c, s) => if o.cancel then s.failUnit o1 else (s.holdUnit o1 b.seq x.2.1 c true).getD s
      | (.fail, s) => s.failUnit o1
      | (.ok a, s) =>
        let r := s.unitWays o [a]
        if r.1 && !r.2.underway o.t.p a z then r.2.moveUnit o1 b.seq z src (.mem a) else r.2
  match o.kind with
  | .copy _ dst | .copyOut dst _ _ => send dst
  | .copyIn _ tile toff => s.moveUnit o1 b.seq z src (.tile tile (toff + b.seq * z))
  | _ => s

/-- The first unit that stands staged. -/
def Op.staged (o : Op) : Option (Burst × List Byte) := o.bursts.findSome? fun b => b.data.map fun d => (b, d)

/-- COPY_UNIT: the writes of staged units come first; under a stop the reads of the current 4 KiB are finished (R243). -/
def execCopyUnit (op : Nat) (s : State) : Out :=
  match s.op op with
  | none => .next s
  | some o =>
    if !o.kind.isCopy || o.out || (o.next == 0 && !s.opCarried o) then .next s
    else if o.stopped then .next (if o.atBoundary then s else s.stageUnit o o.next)
    else match o.staged with
    | some (b, d) => .next (s.writeStaged o b d)
    | none =>
    if o.cancel ∧ o.next * o.kind.unitBytes % 4096 = 0 then .next (s.settleCopy o)
    else match o.again with
      | seq :: _ => .next (s.copyStep o seq false)
      | [] =>
        if o.next < o.kind.total then .next (s.copyStep o o.next true)
        else if o.cancel then .next (s.settleCopy o) else .next s

/-- The new bytes of an add (R252). -/
def addBytes (float : Bool) (old new : List Byte) : List Byte :=
  (List.range (old.length / 4)).flatMap fun i =>
    let a := fieldAt old (4 * i) 4
    let b := fieldAt new (4 * i) 4
    toBytes 4 (if float then f32Add a b else a + b)

/-- TILE_ADD_LAND. -/
def execTileAddLand (op : Nat) (s : State) : Out :=
  match s.op op with
  | none => .next s
  | some o =>
    match o.kind with
    | .tileAdd float tile toff vals =>
      if o.stopped ∨ o.next ≠ 0 ∨ !s.opCarried o then .next s
      else
        let n := 32 * vals.length
        if o.cancel then .next ((s.setOp { o with next := 1, failed := vals.length }).post o n)
        else
          let s := s.tileWrite o.t.p tile o.band toff (addBytes float (s.tileRead o.t.p tile o.band toff n)
            (vals.flatMap fun v => toBytes 32 v.toNat))
          .next ((s.setOp { o with next := 1 }).post o n)
    | _ => .next s

/-- COPY_COMPLETE. -/
def execCopyComplete (op : Nat) (s : State) : Out :=
  match s.op op with
  | none => .next s
  | some o =>
    let mine := o.kind.isCopy || (match o.kind with | .tileAdd _ _ _ _ => true | _ => false)
    if mine ∧ !o.stopped ∧ o.staged.isNone ∧ o.next = o.kind.total ∧ o.held.isEmpty ∧ o.again.isEmpty ∧ !s.abroad o.id then
      let s := match o.kind.tile with | some k => s.tileEnd o.t.p k o.band | none => s
      .next (s.finishOp o o.status)
    else .next s

/-! BUPD (R224, R225). -/

/-- `W - LR·u` with `u = m·C1 / (√y + E) + D·W`, over the extended reals: `num = m·C1`, `z = D·W`. -/
def updateW (w lr num y eps z : X) : X :=
  if y.isNan || eps.isNan || (y.neg? && !y.isZero) then .nan else
  let ed := eps.dy
  let yd := y.dy
  let wide := y.isInf || eps.isInf
  let sg := qsgn ed ⟨1, 0⟩ yd
  -- the denominator as far as signs and zeros go
  let den : X := if wide then (X.add false (if y.isInf then .inf false else X.zero false) eps).1
    else if sg = 0 then X.zero (y.isZero && y.neg? && eps.neg?) else X.ofInt sg
  if wide || den.isZero || !num.isFin || num.isZero then
    let t := (X.div num den).1
    let u := (X.add false t z).1
    (X.add false w (X.mul lr u).1.negate).1
  else
    -- a nonzero quotient: the sign of u is that of num + z (E + √y) over the denominator
    let su : Int := sg * qsgn (num.dy.add (z.dy.mul ed)) z.dy yd
    let u : X := if z.isFin then (if su = 0 then X.zero false else X.ofInt su) else z
    if !z.isFin || !lr.isFin || !w.isFin || lr.isZero then (X.add false w (X.mul lr u).1.negate).1
    else
      let a := w.dy.sub (lr.dy.mul z.dy)
      let b := lr.dy.mul num.dy
      let d := yd.sub (ed.mul ed)
      if d.isZero then
        -- E = √y: the denominator is 2E
        algX ((a.mul ed).mul ⟨2, 0⟩ |>.sub b) Dy.zero Dy.zero (ed.mul ⟨2, 0⟩)
      else
        let p := (a.mul d).add (b.mul ed)
        let q := b.neg
        if 0 < d.m then algX p q yd d else algX p.neg q.neg yd d.neg

/-- One element of the update: the new W, M and V. -/
def updateElem (desc : List Byte) (w m v : Nat) (g : X) : Nat × Nat × Nat :=
  let f (off : Nat) : X := f32 (fieldAt desc off 4)
  let mul (a b : X) : X := (X.mul a b).1
  let add (a b : X) : X := (X.add false a b).1
  let one (b : X) : X := add X.one b.negate
  let g := mul (f 68) g
  let m' := add (mul (f 44) (f32 m)) (mul (one (f 44)) g)
  let v' := add (mul (f 48) (f32 v)) (mul (one (f 48)) (mul g g))
  let w' := updateW (f32 w) (f 40) (mul m' (f 60)) (mul v' (f 64)) (f 52) (mul (f 56) (f32 w))
  (rnF32 w', rnF32 m', rnF32 v')

/-- The gradient's format. -/
def gradFmt (desc : List Byte) : Fmt := match fieldAt desc 36 1 with | 0 => .f32 | 1 => .f16 | _ => .bf16

/-- Complete element `i` in the done count and the list of those done above it. -/
def Op.doneElem (o : Op) (i : Nat) : Op :=
  let a := advance (o.again.length + 1) o.next ((i + 1) :: o.again)
  { o with next := a.1, again := a.2 }

/-- BUPD_ELEMENT: element `i` at its bank, in any order; the last completes the operation, and a cancelled operation
completes at the element boundary. DESIGN CHOICE (log 31): a poisoned element is logged under the address of its W word,
and one that fails its window check is counted in FAILED with no entry in the log. -/
def execBupdElement (op i : Nat) (s : State) : Out :=
  match s.op op with
  | none => .next s
  | some o =>
    match o.kind with
    | .bupd desc w m v g =>
      let n := o.kind.total
      if o.cancel then
        let o := { o with failed := o.failed + (n - o.next - o.again.length) }
        .next ((s.dropWays o.t.p o.ctx fun k => match k with | .access x _ => x == o.id | _ => false).finishOp o o.status)
      else if o.next = n then .next (if s.abroad o.id then s else s.finishOp o o.status)
      else if n ≤ i ∨ i < o.next ∨ o.again.contains (i + 1) ∨ !s.opCarried o then .next s
      else
      match s.opWay o (w + 4 * i) with
      | (.coming, s) | (.unasked, s) => .next s
      | (_, s) =>
        let fmt := gradFmt desc
        let gb := fmt.bits / 8
        let at4 (a : Nat) : Nat := a + 4 * i
        let ga := g + gb * i
        let words := [at4 w, at4 m, at4 v]
        let seen := s.loadOk o.t.p o.ctx o.id (at4 w) 4 .rmw && words.all (fun a => s.windowFor o.t.p o.ctx a 4 .rmw) &&
          s.windowFor o.t.p o.ctx ga gb .read
        let bad := words.any (fun a => s.poisoned a 4) || s.poisoned ga gb
        let r := o.doneElem i
        let out : Op × State :=
          if !seen then ({ r with failed := r.failed + 1 }, s)
          else if bad then ({ r with failed := r.failed + 1 }, s.logPoison o (at4 w) 8)
          else
            let rd (a : Nat) : Nat := ofBytes (Memory.read s.mem a 4)
            let x := updateElem desc (rd (at4 w)) (rd (at4 m)) (rd (at4 v)) (fmt.decode (ofBytes (Memory.read s.mem ga gb)))
            (r, ((s.writeMem (at4 w) (toBytes 4 x.1) false).writeMem (at4 m) (toBytes 4 x.2.1) false).writeMem (at4 v)
              (toBytes 4 x.2.2) false)
        let s := (out.2.opDone o (at4 w) []).setOp out.1
        .next (if out.1.next = n ∧ !s.abroad o.id then s.finishOp out.1 out.1.status else s)
    | _ => .next s

end Sys2Proof.Machine
end

