-- ==== Sys2Proof/Machine/Bulk.lean ====
section
/-! DEFINITION. Bulk reads, copies, tiles and timelines as instructions (R224, R225, R247 to R254). -/
namespace Sys2Proof.Machine

/-! Checks before commit. -/

/-- %ti of the descriptor fault for a walk slot (R335). -/
def slotInfo (reason slot : Nat) : Word := 0xFFFFFFFFFFFFFF00 ||| BitVec.ofNat 64 (reason * 16 + slot)

/-- The walk of a slot. -/
def Env.walk (e : Env) (k : BitVec 2) : Option Walk := (e.t.walks[k.toNat]?).getD none

/-- %ti of the tile-state fault (R335). -/
def Tile.info (t : Tile) (k : Nat) : Word := BitVec.ofNat 64 (t.st.code * 256 + k)

/-- A check that may answer with a fault. -/
abbrev Chk := Option (Nat × Word)

def Chk.or (a b : Chk) : Chk := match a with | some x => some x | none => b

/-- The thread must be in a band. -/
def bandChk (s : State) (e : Env) : Chk := if (s.th e.tid).band.isNone then some (15, allOnes) else none

/-- The tile must be one of the thread's band (R247). -/
def tileChk (s : State) (e : Env) (k : Nat) : Chk :=
  match (s.th e.tid).band with
  | none => some (15, allOnes)
  | some b =>
    let t := (s.proc e.p).tile k
    if t.st = .empty ∨ t.band ≠ b then some (19, t.info k) else none

/-- The tile an operand names. -/
def Env.tileOf (_e : Env) (x : Src) : Nat := match x with | .reg n => n.toNat % 64 | .latch _ => 0

/-- The tile after a copy or an add commits (R246), when the table gives the transition. -/
def Tile.enter (t : Tile) (mode : Nat) : Option Tile :=
  match mode, t.st with
  | 0, .ready => some { t with st := .filling, cnt := 1, acc := false }
  | 1, .ready => some { t with st := .draining, cnt := 1 }
  | 1, .draining => if t.cnt < 255 then some { t with cnt := t.cnt + 1 } else none
  | 2, .ready => some { t with st := .filling, cnt := 1, acc := true }
  | 2, .filling => if t.acc && decide (t.cnt < 255) then some { t with cnt := t.cnt + 1 } else none
  | _, _ => none

/-! WKSET (R249). -/

def execWkset (q : QForm) (wk : BitVec 2) (s : State) : Out :=
  .next (s.runLanes q.pn q.pr id fun s e =>
    let va := e.g q.a
    if va.toNat % 64 ≠ 0 then (.trap 7 va, s) else
    match s.readVirt e.tid e.t.ctx e.l.queued va 192 with
    | (.trap c i, s) => (.trap c i, s)
    | (.dead, s) => (.dead, s)
    | (.wait, s) => (.wait, s)
    | (.ok b poison, s) =>
      if poison then (.later va, s)
      else if walkBad b then (.trap 20 va, s)
      else (.ok fun s => s.modTh e.tid fun th =>
        { th with walks := th.walks.setIfInBounds wk.toNat (some (Walk.parse b)) }, s))

/-! BREAD, HEXIT (R250, R251). -/

def execBread (q : QForm) (tl : BitVec 4) (bs : BitVec 2) (wk : BitVec 2) (scp : BitVec 2) (jb : Bool) (s : State) : Out :=
  .next (s.runLanes q.pn q.pr id fun s e =>
    let pc := e.g q.a
    let z := 64 * 2 ^ bs.toNat
    if pc.toNat % 8 ≠ 0 then (.trap 1 pc, s) else
    match e.walk wk with
    | none => (.trap 20 (slotInfo 0 wk.toNat), s)
    | some w =>
      match w.misaligned z with
      | some a => (.trap 7 a, s)
      | none =>
        match (if jb then bandChk s e else none) with
        | some x => (.trap x.1 x.2, s)
        | none =>
          let b := (e.g q.c).toNat
          let first := match q.b with | .reg n => n.toNat | .latch _ => 0
          let args := (List.range 4).map fun k => e.t.g (first + k)
          let g17 := (List.range 7).map fun k => e.t.g (k + 1)
          (.ok fun s => s.issueOp e.tid (some tl.toNat) scp.toNat
            (.bread w z pc args g17 (if b = 0 ∨ 512 < b then 512 else b) e.t.gsd (if jb then (s.th e.tid).band else none))
            none q.sbUse q.dst.toNat, s))

def execHexit (q : QForm) (err : Bool) (s : State) : Out :=
  s.ending q.pn q.pr noCheck fun s e => s.retire e.tid err (if err then (e.g q.a).toNat % 256 else 0)

/-! ACOPY, ACOPYT (R252). -/

/-- The alignment of a walk for its own unit. -/
def alignChk (w : Walk) : Chk := (w.misaligned w.unitBytes).map fun a => (7, a)

def execAcopy (q : QForm) (tl : BitVec 4) (ws : BitVec 2) (wd : BitVec 2) (scp : BitVec 2) (be : Bool) (bar : BitVec 4)
    (s : State) : Out :=
  .next (s.runLanes q.pn q.pr id fun s e =>
    match e.walk ws, e.walk wd with
    | none, _ => (.trap 20 (slotInfo 0 ws.toNat), s)
    | _, none => (.trap 20 (slotInfo 0 wd.toNat), s)
    | some a, some b =>
      let c : Chk := if a.unit ≠ b.unit then some (20, slotInfo 1 wd.toNat)
        else if a.points ≠ b.points then some (20, slotInfo 2 wd.toNat) else none
      match ((c.or (alignChk a)).or (alignChk b)).or (if be then bandChk s e else none) with
      | some x => (.trap x.1 x.2, s)
      | none => (.ok fun s => s.issueOp e.tid (some tl.toNat) scp.toNat (.copy a b) (if be then some bar.toNat else none)
          q.sbUse q.dst.toNat, s))

/-- Take the tile's transition and start the operation; against a tile without one the commit waits (R246). -/
def State.startTile (s : State) (q : QForm) (e : Env) (tl scp mode k toff len z : Nat) (be : Option Nat) (kind : OpKind) :
    LRes × State :=
  match (if be.isSome then bandChk s e else none : Chk).or (tileChk s e k) with
  | some x => (.trap x.1 x.2, s)
  | none =>
    let t := (s.proc e.p).tile k
    if toff % z ≠ 0 ∨ 512 * t.size < toff + len then (.trap 7 (BitVec.ofNat 64 toff), s)
    else match t.enter mode with
      | none => (.wait, s)
      | some t' => (.ok fun s => (s.setTile e.p k t').issueOp e.tid (some tl) scp kind be q.sbUse q.dst.toNat, s)

/-- The first register of a group whose scale R157 refuses. -/
def groupBad (e : Env) (first n : Nat) : Chk :=
  ((List.range n).find? fun k => badScale .f32 (e.t.w (first + k))).map fun k => (13, scaleInfo 1 (first + k))

def execAcopyt (q : QForm) (tl : BitVec 4) (mode : BitVec 3) (wk : BitVec 2) (scp : BitVec 2) (be : Bool) (bar : BitVec 4)
    (s : State) : Out :=
  .next (s.runLanes q.pn q.pr id fun s e =>
    let k := e.tileOf q.c
    let toff := (e.g q.a).toNat
    let b := if be then some bar.toNat else none
    -- the band is checked first (R247)
    match bandChk s e with
    | some x => (.trap x.1 x.2, s)
    | none =>
    if mode.toNat < 2 then
      match e.walk wk with
      | none => (.trap 20 (slotInfo 0 wk.toNat), s)
      | some w =>
        match alignChk w with
        | some x => (.trap x.1 x.2, s)
        | none => s.startTile q e tl.toNat scp.toNat mode.toNat k toff (w.points * w.unitBytes) w.unitBytes b
            (if mode.toNat = 0 then .copyIn w k toff else .copyOut w k toff)
    else
      let n := 2 * 2 ^ wk.toNat
      let first := match q.b with | .reg r => r.toNat | .latch _ => 0
      match (if mode.toNat = 2 then groupBad e first n else none) with
      | some x => (.trap x.1 x.2, s)
      | none => s.startTile q e tl.toNat scp.toNat 2 k toff (32 * n) 64 b
          (.tileAdd (mode.toNat == 2) k toff ((List.range n).map fun i => (e.t.w (first + i)).pay)))

/-! TALLOC, TFREE, TSTAT (R253). -/

/-- The allocation of a tile. -/
def State.talloc (s : State) (e : Env) (k span n : Nat) : Word × State :=
  if n = 0 ∨ 2 ^ 19 < n then (0x8000000000000001, s) else
  let b := (n + 511) / 512
  let s := s.claimRun e.p e.t.entry b (List.range 64)
  match (s.proc e.p).findRun b with
  | none => (0x8000000000000002, s)
  | some run =>
    match (s.th e.tid).band with
    | none => (0x8000000000000002, s)
    | some br =>
      (BitVec.ofNat 64 (512 * run), s.setTile e.p k ⟨.filling, span, 1, false, br, b, 512 * run, false, true⟩)

def execTalloc (q : QForm) (span : BitVec 3) (s : State) : Out :=
  .next (s.runLanes q.pn q.pr id fun s e =>
    let k := e.tileOf q.c
    match bandChk s e with
    | some x => (.trap x.1 x.2, s)
    | none =>
      let s := s.claimTile e.p e.t.entry k
      let t := (s.proc e.p).tile k
      if t.st ≠ .empty then
        -- an entry that a stopped entry still holds is awaited
        if ((s.proc e.p).stoppedOwner t.band e.t.entry).isSome then (.wait, s) else (.trap 19 (t.info k), s)
      else (.ok fun s => let r := s.talloc e k span.toNat (e.g q.a).toNat; r.2.putG e.tid q.dst r.1, s))

def execTfree (q : QForm) (s : State) : Out :=
  .next (s.runLanes q.pn q.pr id fun s e =>
    let k := e.tileOf q.c
    match tileChk s e k with
    | some x => (.trap x.1 x.2, s)
    | none =>
      if ((s.proc e.p).tile k).st ≠ .ready then (.wait, s)
      else (.ok fun s => s.setTile e.p k Tile.empty, s))

/-- A deferred result known at once. -/
def valueReq (q : QForm) (v : Word) : ARes := .ok [.req (reqOf q.sbUse (.value false) [] (some [.g q.dst.toNat v]))]

/-- TSTAT (R253): deferred, never held. Against a tile of another band it raises the tile-state fault, as R247 has it for an
instruction that names a tile; R246's exception is about states (log 31). DESIGN CHOICE (log 31): of an entry that is EMPTY every
field reads zero, also after TFREE or the end of its band; R253 says 'the entry's word', STATE 0, and not what its other fields keep. -/
def execTstat (q : QForm) (s : State) : Out :=
  .next (s.runActs q.pn q.pr fun s e =>
    let k := e.tileOf q.c
    let t := (s.proc e.p).tile k
    match (if t.st = .empty then bandChk s e else tileChk s e k) with
    | some x => (.trap x.1 x.2, s)
    | none => (valueReq q (if t.st = .empty then 0 else t.word), s))

/-! TLWAIT, TLREAD, CSTAT, CCANCEL (R254). -/

/-- The thread's timeline. -/
def State.tlOf (s : State) (e : Env) (k : Nat) : Timeline :=
  match (s.site e.p.site).ctxIdx e.t.ctx with
  | some x => (s.proc e.p).timeline x k
  | none => ⟨0, 0, [], []⟩

def execTlwait (q : QForm) (tl : BitVec 4) (s : State) : Out :=
  s.ending q.pn q.pr noCheck fun s e =>
    let n := (e.g q.a).toNat
    let s := (s.modTh e.tid fun th =>
      { th with hold := { Hold.empty with acked := true, before := s.nextId + 1, report := true } }).settle e.tid
    if n ≤ (s.tlOf e tl.toNat).dn then s.acquire e.tid 3 else s.park e.tid (.timeline tl.toNat n)

def execTlread (q : QForm) (tl : BitVec 4) (iss : Bool) (s : State) : Out :=
  .next (s.runActs q.pn q.pr fun s e =>
    let t := s.tlOf e tl.toNat
    (valueReq q (BitVec.ofNat 64 (if iss then t.issued else t.dn)), s))

/-- The answer of CSTAT. -/
def Timeline.query (t : Timeline) (n : Nat) : Word :=
  match (if n = 0 ∨ t.issued < n then none else t.ended.find? (·.1 == n)) with
  | some x => x.2
  | none => if n = 0 ∨ t.issued < n ∨ n ≤ t.dn ∨ t.above.contains n then 0x40000000FFFFFFFF else 0

def execCstat (q : QForm) (tl : BitVec 4) (s : State) : Out :=
  .next (s.runActs q.pn q.pr fun s e => (valueReq q ((s.tlOf e tl.toNat).query (e.g q.a).toNat), s))

def execCcancel (q : QForm) (tl : BitVec 4) (all : Bool) (s : State) : Out :=
  s.ending q.pn q.pr noCheck fun s e =>
    let n := (e.g q.a).toNat
    let hit (o : Op) : Bool := o.t.p == e.p && o.ctx == e.t.ctx && o.tl == some tl.toNat &&
      (if all then decide (o.num ≤ n) else o.num == n)
    let ids := (s.ops.filter hit).map (·.id)
    let s := s.cancelOps hit
    if q.sbe then s.enact e.tid (.req (reqOf q.sbUse (.cancel ids) [] (if ids.isEmpty then some [] else none))) else s

/-! BUPD (R224, R225). -/

/-- Translate an array, which lies within one page, in pool SRAM; else the descriptor fault. An answer that is no address is what
the lane comes to. -/
def State.arrayAt (s : State) (e : Env) (desc va : Word) (n : Nat) (k : AccKind) : Except LRes Nat × State :=
  match s.translate e.p e.t.ctx va k with
  | (.trap c, s) => (.error (.trap c va), s)
  | (.dead, s) => (.error .dead, s)
  | (.wait, s) => (.error .wait, s)
  | (.ok pa _, s) =>
    let page := match (s.proc e.p).tlb.find? (·.hits e.t.ctx va) with | some x => 2 ^ pageBits x.level | none => 8192
    let last := va.toNat + n - 1
    if va.toNat / page ≠ last / page ∨ paRegion pa n ≠ some .poolSram then (.error (.trap 20 desc), s) else (.ok pa, s)

/-- The fields of the descriptor that are checked alone. -/
def bupdBad (d : List Byte) : Bool :=
  let g := fieldAt d 36 1
  let c := fieldAt d 32 4
  let gb := if g = 0 then 4 else 2
  !zeroAt d 37 40 || !zeroAt d 72 128 || decide (2 < g) || c == 0 || decide (2 ^ 24 < c) ||
  fieldAt d 0 8 % 4 != 0 || fieldAt d 8 8 % 4 != 0 || fieldAt d 16 8 % 4 != 0 || fieldAt d 24 8 % gb != 0

/-- Translate the arrays in order: address, bytes, kind. -/
def State.arrays (s : State) (e : Env) (desc : Word) : List (Word × Nat × AccKind) → Except LRes (List Nat) × State
  | [] => (.ok [], s)
  | (va, n, k) :: t =>
    match s.arrayAt e desc va n k with
    | (.error r, s) => (.error r, s)
    | (.ok pa, s) => match s.arrays e desc t with
      | (.ok l, s) => (.ok (pa :: l), s)
      | r => r

/-- BUPD (R225). DESIGN CHOICE (log 31): of several faults before commit the descriptor's own fields come first, then its arrays
W, M, V and G one by one, then the check that they lie on one reticle; the spec states no order. -/
def execBupd (q : QForm) (tl : BitVec 4) (s : State) : Out :=
  .next (s.runLanes q.pn q.pr id fun s e =>
    let va := e.g q.a
    if va.toNat % 128 ≠ 0 then (.trap 7 va, s) else
    match s.readVirt e.tid e.t.ctx e.l.queued va 128 with
    | (.trap c i, s) => (.trap c i, s)
    | (.dead, s) => (.dead, s)
    | (.wait, s) => (.wait, s)
    | (.ok d poison, s) =>
      if poison then (.later va, s)
      else if bupdBad d then (.trap 20 va, s)
      else
        let n := fieldAt d 32 4
        let gb := (gradFmt d).bits / 8
        let a (off : Nat) : Word := BitVec.ofNat 64 (fieldAt d off 8)
        match s.arrays e va [(a 0, 4 * n, .rmw), (a 8, 4 * n, .rmw), (a 16, 4 * n, .rmw), (a 24, gb * n, .read)] with
        | (.error r, s) => (r, s)
        | (.ok [w, m, v, g], s) =>
          if [m, v, g].any fun x => paSite x != paSite w then (.trap 20 va, s)
          else (.ok fun s => s.issueOp e.tid (some tl.toNat) 2 (.bupd d w m v g) none q.sbUse q.dst.toNat, s)
        | (.ok _, s) => (.dead, s))

end Sys2Proof.Machine
end

