-- ==== Sys2Proof/Machine/Fabric.lean ====
section
/-! DEFINITION. The instructions of cores that reach other sites (R305 to R309) and the events of links (R284 to R286). What
carries their packets is in Machine/Link.lean and Machine/Port.lean. -/
namespace Sys2Proof.Machine

/-! RPUT, RGET, RATOM, RPUTM (R305 to R309). -/

/-- The number of a group's first register. -/
def firstOf (x : Src) : Nat := match x with | .reg n => n.toNat | .latch _ => 0

/-- The payloads of `n` bytes of wide registers from `k` on. -/
def Env.groupBytes (e : Env) (k n : Nat) : List Byte := (List.range (n / 32)).flatMap fun i => (e.t.w (k + i)).payBytes

/-- The bytes of a SIZE code. -/
def sizeOf2 (c : Nat) : Nat := 64 * 2 ^ (c % 4)

def execRput (f : MForm) (s : State) : Out :=
  .next (s.runLanes f.pn f.pr id fun s e =>
    let n := sizeOf2 f.dst.toNat
    match s.storeParts e f.rel [(e.ea f, e.groupBytes (firstOf f.b) n)] with
    | (.trap c i, s) => (.trap c i, s)
    | (.dead, s) => (.dead, s)
    | (.wait, s) => (.wait, s)
    | (.ok es, s) =>
      (.ok fun s => s.enact e.tid (.store (es.map fun x => { x with kind := .put (f.dst.getLsbD 2) }) f.sbUse), s))

/-- RGET: served at its home; copies do not serve it. -/
def execRget (f : MForm) (s : State) : Out :=
  .next (s.runLanes f.pn f.pr id fun s e =>
    match s.loadParts e false false false [(e.ea f, sizeOf2 (firstOf f.b))] with
    | (.trap c i, s) => (.trap c i, s)
    | (.dead, s) => (.dead, s)
    | (.wait, s) => (.wait, s)
    | (.ok ps, s) =>
      (.ok fun s => s.enact e.tid (.req (reqOf (some f.sb.toNat) (.load (.get f.dst.toNat) f.acq) ps none)), s))

/-- The operation word of RATOM. -/
def vecAop (f : MForm) : Nat := (f.off.extractLsb' 0 3).toNat
def vecTy (f : MForm) : Nat := (f.off.extractLsb' 3 2).toNat

def execRatom (f : MForm) (s : State) : Out :=
  .next (s.runLanes f.pn f.pr id fun s e =>
    let nr := f.off.getLsbD 5
    match s.rmwPart e (e.g f.a) 32 (!nr) f.relWide with
    | (.trap c i, s) => (.trap c i, s)
    | (.dead, s) => (.dead, s)
    | (.wait, s) => (.wait, s)
    | (.ok ps, s) =>
      let v := (e.w f.b).pay
      (.ok fun s =>
        if nr then s.enact e.tid (.store (ps.map fun p =>
          storeOf p.va p.pa (toBytes 32 v.toNat) (.vec (vecAop f) (vecTy f)) f.rel) f.sbUse)
        else s.enact e.tid (.req (reqOf (some f.sb.toNat) (.load (.vec (vecAop f) (vecTy f) v f.dst.toNat) f.acq) ps none)), s))

/-- Word `w` of a multicast set. -/
def Site.setWord (q : Site) (k w : Nat) : Word := q.mcsets.get 0 (16 * k + w)

/-- The destinations of a set at a local address: the own wafer's entry enters at its own sites. -/
def Site.setDests (q : Site) (k loc : Nat) : List (Nat × Nat) :=
  (List.range 7).flatMap fun j =>
    let mask := q.setWord k (2 + 2 * j)
    let w := q.setWord k (3 + 2 * j)
    if w.getLsbD 31 then
      let base := 64 * bitsOf w 16 0
      ((List.range 64).filter fun i => mask.getLsbD i).map fun i => (mkPa (base + i) loc, base + bitsOf w 22 17)
    else []

def execRputm (q : QForm) (size : BitVec 2) (rel : Bool) (scp : BitVec 2) (s : State) : Out :=
  .next (s.runLanes q.pn q.pr id fun s e =>
    let n := sizeOf2 size.toNat
    let k := e.g q.a
    let x := s.site e.p.site
    let lbase := bitsOf (x.setWord k.toNat 0) 39 0
    let ctx := bitsOf (x.setWord k.toNat 1) 15 0
    let valid := (x.setWord k.toNat 1).getLsbD 16
    let loc := lbase + bitsOf (e.g q.c) 39 0
    if k = 0 ∨ 255 < k.toNat ∨ !valid ∨ ctx ≠ e.t.ctx ∨ (lbase + (e.g q.c).toNat) % n ≠ 0 ∨ 2 ^ 40 ≤ loc then (.trap 20 k, s)
    else
      let (d, s) := s.draw
      let st := storeOf (Config.freeWord d) 0 (e.groupBytes (firstOf q.b) n) (.multi (x.setDests k.toNat loc))
        (if rel then some scp.toNat else none)
      (.ok fun s => s.enact e.tid (.store [st] q.sbUse), s))

/-- MULTICAST_REPLICATE (R309): the copies of a multicast put reach their destinations. -/
def execMulticastReplicate (id : Nat) (s : State) : Out :=
  match s.store id with
  | none => .next s
  | some x => match x.kind with
    | .multi _ => if s.storeReady x then .next (s.perform x) else .next s
    | _ => .next s

/-! Links (R284 to R286). -/

/-- The mask of a half of a link, or of all its lanes. -/
def halfMask (gs port : Nat) (upper : Bool) : BitVec 16 :=
  let h := laneCount gs port / 2
  BitVec.ofNat 16 ((2 ^ h - 1) * (if upper then 2 ^ h else 1))
def fullMask (gs port : Nat) : BitVec 16 := BitVec.ofNat 16 (2 ^ laneCount gs port - 1)

def covers (a m : BitVec 16) : Bool := a &&& m == m

/-- The lowest half all of whose lanes lie in a set. -/
def lowHalf (gs port : Nat) (a : BitVec 16) : Option (BitVec 16) :=
  if covers a (halfMask gs port false) then some (halfMask gs port false)
  else if covers a (halfMask gs port true) then some (halfMask gs port true) else none

def execLinkPartnerDetect (site port link : Nat) (upper : Bool) (s : State) : Out :=
  if !linkPresent site port link then .next s else
  let l := s.link site port link
  let s := s.setLink site port link { l with partner := l.partner ||| halfMask site port upper }
  match l.st with
  | .down | .failed => .next (s.trainLink site port link)
  | _ => .next s

/-- LINK_TRAIN_RESULT: the lanes that passed decide (R285). -/
def execLinkTrainResult (site port link : Nat) (passed : BitVec 16) (s : State) : Out :=
  if !linkPresent site port link then .next s else
  let l := s.link site port link
  let n := laneCount site port
  let good := passed &&& fullMask site port
  match l.st with
  | .train =>
    if covers passed (fullMask site port) then .next (s.linkTo site port link .up n fun l => { l with good := good, bad := 0 })
    else match lowHalf site port passed with
      | some _ => .next (s.linkTo site port link .half (n / 2) fun l => { l with good := good, bad := 0 })
      | none => .next (s.setLink site port link { l with good := good })
  | .degrade =>
    match lowHalf site port (passed &&& ~~~l.bad) with
    | some _ => .next (s.linkTo site port link .half (n / 2) fun l => { l with good := good &&& ~~~l.bad })
    | none => .next (s.linkTo site port link .failed 0 fun l => { l with good := good &&& ~~~l.bad })
  | _ => .next s

def execLinkStateTimeout (site port link : Nat) (s : State) : Out :=
  let l := s.link site port link
  match l.st with
  | .train | .degrade =>
    if 100000 ≤ nanoSpan l.since s.tick then .next (s.linkTo site port link .failed 0 id) else .next s
  | _ => .next s

/-- A lane loses lock (R285). -/
def State.laneFail (s : State) (site port link lane : Nat) : State :=
  if !linkPresent site port link ∨ laneCount site port ≤ lane then s else
  let l := s.link site port link
  let bit : BitVec 16 := 1#16 <<< lane
  match l.st with
  | .up => s.leaveUp site port link .degrade fun l => { l with bad := bit }
  | .degrade => s.setLink site port link { l with bad := l.bad ||| bit }
  | .half =>
    let active := (lowHalf site port l.good).getD 0
    if active.getLsbD lane then s.leaveUp site port link .failed id else s
  | _ => s

def execLinkLaneFail (site port link lane : Nat) (s : State) : Out := .next (s.laneFail site port link lane)

/-- FLIT_CRC_RETRY (R286): the flit and every later one are resent from the retry buffer, which keeps them in order; the
retry is logged, and the sixteenth failure in a row takes an UP link to DEGRADE (R285). -/
def execFlitCrcRetry (site port link : Nat) (seq : BitVec 16) (s : State) : Out :=
  let l := s.link site port link
  if !l.st.isUp then .next s else
  let s := s.logErr site 3 0 0 127 0 0 (site % 64) (BitVec.ofNat 64 (port * 4 + link)) 1 seq.toNat
  let s := s.setLink site port link { l with crc := l.crc + 1 }
  if 16 ≤ l.crc + 1 ∧ l.st = .up then .next (s.leaveUp site port link .degrade fun l => { l with bad := 0 }) else .next s

end Sys2Proof.Machine
end

