-- ==== Sys2Proof/Machine/Port.lean ====
section
/-! DEFINITION. Packets on their way and at their destinations (R286, R288 to R298), channels and buffers (R298, R313), the
collectives (R299 to R304, R310), the topology drain (R311), and the instructions of port processors (R312 to R316). -/
namespace Sys2Proof.Machine

/-! Answers. -/

/-- The status word of PSEND (R312). -/
def psendStatus (nack acc : Nat) (fb : Bool) : Word :=
  BitVec.ofNat 64 (2 ^ 63 + boolN (nack != 0) * 2 ^ 62 + nack * 2 ^ 56 + boolN fb * 2 ^ 55 + acc)

/-- Answer a deferred instruction that waits. -/
def State.answerReq (s : State) (id : Nat) (v : Word) : State :=
  { s with reqs := s.reqs.map fun r =>
      if r.id = id ∧ r.resp.isNone then
        match r.kind with
        | .psend dst | .precv dst | .coll dst _ _ => { r with resp := some [.g dst v] }
        | _ => r
      else r }

/-- The status of a collective that its port processor completes itself, and of a kill. -/
def collError (bits : Nat) : Word := BitVec.ofNat 64 (2 ^ 63 + 2 ^ 62 + bits)

/-- A refusal counts for the drains that wait for the packet, and for later ones (R311). -/
def State.countRefusal (s : State) (k : Packet) : State :=
  let s := s.modSite k.src.site fun q => { q with refused := q.refused.put k.ver.toNat (q.refused.get 0 k.ver.toNat + 1) }
  { s with reqs := s.reqs.map fun r => match r.kind with
      | .drain v dst ids n => if ids.contains k.id then { r with kind := .drain v dst ids (n + 1) } else r
      | _ => r }

/-- The bits a port processor sets for a descriptor (R310). -/
def descBad (d : List Byte) : Bool :=
  let f := fieldAt d
  let kind := f 0 1
  let fl := f 4 2
  decide (4 < kind) || decide (15 < f 1 1) || decide (2 < f 2 1) ||
  (if kind < 2 then f 3 1 == 0 || decide (3 < f 3 1) else f 3 1 != 0) || decide (64 ≤ fl) ||
  f 8 4 == 0 || decide (2 ^ 28 < f 8 4) || f 12 2 == 0 || decide (4096 < f 12 2) || decide (f 12 2 ≤ f 14 2) ||
  (fl.testBit 2 && (decide (f 56 1 < 3) || decide (5 < f 56 1))) || decide (4 < f 57 1) ||
  (fl.testBit 3 != (f 58 1 != 0)) || decide (63 < f 58 1) || !zeroAt d 59 64

def State.descBits (s : State) (pp : PId) (d : List Byte) (stale : Bool) : Nat :=
  let q := s.site pp.site
  boolN (descBad d) * 2 ^ 57 + boolN (!(s.proc pp).fw.contains (fieldAt d 1 1)) * 2 ^ 58 +
    boolN (stale || fieldAt d 6 2 != q.active.toNat) * 2 ^ 59

/-- The scope of a descriptor (R300). -/
def descScope (d : List Byte) : Nat := fieldAt d 4 1 / 16 % 4

/-- Complete a collective with a status: its arrival is an acquire at the descriptor's scope (R304). -/
def State.endColl (s : State) (id : Nat) (status : Word) : State :=
  match s.req id with
  | none => s
  | some r =>
    let s := s.answerReq id status
    match s.locate r.t r.gen, r.kind with
    | some t, .coll _ _ d => s.acquire t (descScope d)
    | _, _ => s

/-- Whether a packet was redirected (R301), which the statuses of both sides report. -/
def Packet.isRedirected (k : Packet) : Bool := match k.kind with | .redirected _ => true | _ => false

/-- The source of a discarded request has still to learn it (R290): the request stands there as lost. -/
def State.losePacket (s : State) (k : Packet) : State :=
  { s with packets := s.packets ++ [{ k with
      lost := true, hop := k.src.site, wire := none, crossing := false, xport := none, via := none, waitAt := some s.tick }] }

/-- Targets of a store or of a multicast are lost (R290). -/
def State.loseTargets (s : State) (id : Nat) (l : List Nat) : State :=
  l.foldl (fun s a => match s.store id with | some x => s.loseStore x a | none => s) s

/-- A packet leaves the fabric, accepted or with a negative acknowledgement, and its source is told (R290, R295, R312). -/
def State.settlePacket (s : State) (k : Packet) (nack : Nat) : State :=
  let s := s.dropPacket k.id
  let s := if nack = 1 ∨ nack = 2 then s.countRefusal k else s
  match k.kind, k.req with
  | .access id pa, _ => match s.store id, s.req id with
    | some _, _ => s.loseTargets id [pa]
    | none, some r => if r.isLoad then s.loseReq r else s.losePacket k
    | none, none => s.losePacket k
  | .walk _ _, _ | .fetch _ _, _ => s.losePacket k
  | .answer _ _, _ => s
  | .multi id l, _ => s.loseTargets id l
  | .spread id, _ => match (s.store id).map Store.kind with
    | some (.multi d) =>
      s.loseTargets id ((d.filter fun a => a.2 == k.dst.site && siteWaf (paSite a.1) != siteWaf k.src.site).map (·.1))
    | _ => s
  | .desc _, some id => if nack = 0 then s else s.endColl id (collError (s.descBits k.dst k.data true))
  | .done _ _, _ => s
  | _, some id =>
    let s := s.answerReq id (psendStatus nack (if nack = 0 then k.data.length else 0) k.isRedirected)
    -- the status travels back, but for the link-failure response, which the source has at once
    if nack = 5 then s else s.reply k id 0 []
  | _, none => s

/-- How a packet's version stands to a site's ACTIVE (R295): 0 equal, 1 older, 2 newer. -/
def verOrder (ver active : BitVec 16) : Nat :=
  let d := (ver - active).toNat
  if d = 0 then 0 else if 2 ^ 15 ≤ d then 1 else 2

/-! Channels (R298, R313, R316). -/

def Proc.chan (r : Proc) (c : Nat) : Chan := r.chans.get ⟨[], [], 0⟩ c
def State.setChan (s : State) (p : PId) (c : Nat) (x : Chan) : State :=
  s.modProc p fun r => { r with chans := r.chans.put c x }

/-- The condition of PWAIT.CH. -/
def Chan.ready (x : Chan) (seen : Nat) : Bool := !x.pkts.isEmpty || decide (seen < x.count)

/-- Wake the threads whose wait for a channel is over. -/
def State.wakeChan (s : State) (p : PId) (c : Nat) : State :=
  let x := (s.proc p).chan c
  let who := (s.liveThreads p).filter fun e => e.2.isParked && e.2.wait == .chan c && x.ready (e.2.seen.get 0 c)
  who.foldl (fun s e => (s.wake e.1).modTh e.1 fun th => { th with seen := th.seen.put c x.count }) s

/-- Wake the threads of a reticle that wait for its active version. -/
def State.wakeVersion (s : State) (gs : Nat) : State :=
  let v := (s.site gs).active.toNat
  let who := s.threads.filter fun e => e.1.p.site == gs && e.2.isParked && e.2.wait == .version v
  who.foldl (fun s e => s.wake e.1) s

/-- Bytes in the ingress buffer of a port processor. -/
def Proc.ingress (r : Proc) : Nat := r.chans.foldl (fun a c => c.2.pkts.foldl (fun a k => a + k.data.length) a) 0

/-- The status word of PRECV (R313). -/
def recvStatus (k : ChanPkt) (cap : Nat) : Word :=
  BitVec.ofNat 64 (2 ^ 63 + boolN (decide (cap < k.data.length)) * 2 ^ 62 + boolN k.fb * 2 ^ 61 + k.kind * 2 ^ 59 +
    k.red * 2 ^ 56 + boolN k.miss * 2 ^ 55 + k.data.length % 2 ^ 20 * 2 ^ 32 + k.tag % 2 ^ 32)

/-! What the engine of a port processor touches: each place is asked for, and waited for, where it is another site's. -/

/-- What an engine finds at its places: all may be touched, some may not, or some access is still on its way. -/
inductive Reach where
  | may | fails | waits
  deriving DecidableEq, Repr

def Reach.and : Reach → Reach → Reach
  | .waits, _ | _, .waits => .waits
  | .fails, _ | _, .fails => .fails
  | .may, .may => .may

/-- Control space takes whole words (R25). -/
def wholeWords (pa n : Nat) : Bool := !isControl pa || (pa % 8 == 0 && n % 8 == 0)

/-- How access `id` of an engine stands to its places: the fabric carries it (R290), the windows pass it (R197), what is read is not
poisoned (R233), control words are written whole (R25). -/
def State.engineReach (s : State) (p : PId) (ctx gen id : Nat) (k : AccKind) : List (Nat × Nat) → Reach × State
  | [] => (.may, s)
  | (pa, n) :: t =>
    let w := s.askWay p ctx gen (.access id pa) pa
    let here : Reach := match w.1 with
      | .coming | .unasked => .waits
      | .lost => .fails
      | .here =>
        if w.2.windowFor p ctx pa n k && (k != .read || !w.2.poisoned pa n) && (k == .read || wholeWords pa n) then .may else .fails
    let r := w.2.engineReach p ctx gen id k t
    (here.and r.1, r.2)

/-- The accesses of an engine to its places are done with, their answers on the way. -/
def State.endPlaces (s : State) (p : PId) (ctx id : Nat) (l : List (Nat × Nat)) : State :=
  l.foldl (fun s x => s.endWay p ctx id x.1 []) s

/-- Pieces of a virtual range in physical memory: `some` of nothing when a page does not translate, nothing while a table entry is on
its way. -/
def State.pieces (s : State) (p : PId) (ctx : Nat) (k : AccKind) : List (Word × Nat) → Option (Option (List (Nat × Nat))) × State
  | [] => (some (some []), s)
  | (va, n) :: t =>
    match s.translate p ctx va k with
    | (.wait, s) => (none, s)
    | (.ok pa _, s) =>
      if (paRegion pa n).isNone then (some none, s)
      else let r := s.pieces p ctx k t; (r.1.map (·.map ((pa, n) :: ·)), r.2)
    | (_, s) => (some none, s)

/-- Write bytes of an engine at a place: control space by words, memory with the copies of the processor dropped. -/
def State.engineWrite (s : State) (p : PId) (pa : Nat) (b : List Byte) : State :=
  if isControl pa then s.ctlStore (paSite pa) (paLocal pa) (some p) b (b.length / 8)
  else if b.isEmpty then s
  else
    let s := (List.range (lineOf (pa + b.length - 1) + 1 - lineOf pa)).foldl (fun s k => s.dropCopies p (lineOf pa + k)) s
    s.writeMem pa b false

/-- Write bytes over pieces. -/
def State.writePieces (s : State) (p : PId) : List (Nat × Nat) → List Byte → State
  | [], _ => s
  | (pa, n) :: t, b => (s.engineWrite p pa (b.take n)).writePieces p t (b.drop n)

/-- What becomes of filling a posted buffer: done, its writes fail at their target, or they are on their way. -/
inductive Fill where
  | done (s : State)
  | fails (s : State)
  | waits (s : State)

/-- A packet's bytes stand in a posted buffer: its status, the completion, the acquire. -/
def State.filled (s : State) (p : PId) (c : Nat) (buf : RecvBuf) (r : Req) (k : ChanPkt) : State :=
  let s := (s.answerReq r.id (recvStatus k buf.cap)).modProc p fun x =>
    let ch := x.chan c
    { x with chans := x.chans.put c { ch with count := ch.count + 1 } }
  let s := match s.locate r.t r.gen with
    | some t => s.acquire t k.scope
    | none => s
  s.wakeChan p c

/-- Fill a posted buffer with a packet. -/
def State.fillBuffer (s : State) (p : PId) (c : Nat) (buf : RecvBuf) (k : ChanPkt) : Fill :=
  match s.req buf.req with
  | none => .fails s
  | some r =>
    let n := min k.data.length buf.cap
    match s.pieces p r.ctx .write (pagePieces (n / 8192 + 2) buf.va n) with
    | (none, s) => .waits s
    | (some none, s) => .fails s
    | (some (some ps), s) =>
      match s.engineReach p r.ctx r.gen r.id .write ps with
      | (.waits, s) => .waits s
      | (.fails, s) => .fails (s.endPlaces p r.ctx r.id ps)
      | (.may, s) => .done (((s.writePieces p ps k.data).endPlaces p r.ctx r.id ps).filled p c buf r k)

/-- Posted buffers whose thread is gone are taken off a channel. -/
def State.trimBufs (s : State) (p : PId) (c : Nat) : State :=
  let x := (s.proc p).chan c
  let live := x.bufs.filter fun b => match s.req b.req with
    | some r => (s.locate r.t r.gen).isSome
    | none => false
  if live.length = x.bufs.length then s else s.setChan p c { x with bufs := live }

/-- How a packet stands on a channel. -/
def Packet.onChan (k : Packet) : ChanPkt :=
  match k.kind with
  | .data t => ⟨k.data, 0, 0, false, false, t, k.scope⟩
  | .redirected t => ⟨k.data, 1, 1, true, false, t, k.scope⟩
  | .chunk c m => ⟨k.data, 0, 0, false, m, c, k.scope⟩
  | .desc t => ⟨k.data, 2, 0, false, false, t, k.scope⟩
  | .abort t => ⟨k.data, 3, 0, false, false, t, k.scope⟩
  | _ => ⟨k.data, 0, 0, false, false, 0, k.scope⟩

/-- The port processor a destination word names (R312). -/
def ppOf (w : Nat) : PId := ⟨w % 2 ^ 17 * 64 + w / 2 ^ 17 % 64, 97 + w / 2 ^ 23 % 8⟩

/-- Where a secured REDUCE goes from its target (R301): a port processor of that wafer, and a channel of it. -/
def redirectTo (pa fallback : Nat) : PId × Nat :=
  (ppOf (fallback % 2 ^ 32 / 2 ^ 17 * 2 ^ 17 + siteWaf (paSite pa)), fallback / 2 ^ 26 % 64)

/-- The channel a packet is for, a secured REDUCE being redirected to it. -/
def Packet.channel (k : Packet) : Option (PId × Nat) :=
  match k.kind with
  | .data _ | .redirected _ | .chunk _ _ | .desc _ | .abort _ => some (k.dst, k.chan)
  | .reduce true pa fb => some (redirectTo pa fb)
  | .reduce false _ _ | .done _ _ | .access _ _ | .walk _ _ | .fetch _ _ | .answer _ _ | .multi _ _ | .spread _ => none

/-- An earlier packet of the same sender for the same channel is still on its way (R298). -/
def State.chanBehind (s : State) (k : Packet) : Bool :=
  s.packets.any fun x => decide (x.id < k.id) && x.src == k.src && x.channel == some (k.dst, k.chan)

/-- The oldest posted buffer of a channel is taken off it. -/
def State.takeBuf (s : State) (p : PId) (c : Nat) : State :=
  let x := (s.proc p).chan c
  s.setChan p c { x with bufs := x.bufs.drop 1 }

/-- Packets that waited on a channel go to the buffers posted, the oldest to the oldest; one whose writes fail is lost there, its
sender has been answered. -/
def State.matchChan (s : State) (p : PId) (c : Nat) : Nat → State
  | 0 => s
  | f + 1 =>
    let x := (s.proc p).chan c
    match x.bufs, x.pkts with
    | b :: _, k :: rest =>
      let pop (s : State) : State := s.setChan p c { (s.proc p).chan c with pkts := rest }
      match s.fillBuffer p c b k with
      | .done s => (pop (s.takeBuf p c)).matchChan p c f
      | .fails s => (pop s).matchChan p c f
      | .waits s => s
    | _, _ => s

/-- A packet enters its channel: into the oldest posted buffer, or the ingress buffer. It stays where it is, in its class's
buffers (R288), when that is full, and behind the earlier packets of its sender. -/
def State.enterChan (s : State) (k : Packet) : State :=
  if s.chanBehind k then s else
  let p := k.dst
  let s := s.trimBufs p k.chan
  let x := (s.proc p).chan k.chan
  match x.bufs, x.pkts with
  | b :: _, [] =>
    match s.fillBuffer p k.chan b k.onChan with
    | .done s => (s.takeBuf p k.chan).settlePacket k 0
    | .fails s => (s.takeBuf p k.chan).settlePacket k 3
    | .waits s => s
  | _, _ =>
    if (s.proc p).ingress + k.data.length ≤ 262144 then
      ((s.setChan p k.chan { x with pkts := x.pkts ++ [k.onChan] }).settlePacket k 0).wakeChan p k.chan
    else s

/-! Acceptance (R295, R301, R310, R312). -/

/-- The pairs of one BFA add of 32 FP32 values. -/
def bfaPairs (b : List Byte) : List (Nat × Nat) := (List.range 32).map fun i => (i, ofBytes ((b.drop (4 * i)).take 4))

/-- The adds of a REDUCE packet, block by block; a poisoned block is left and logged. -/
def State.reduceBlocks (s : State) (k : Packet) : Nat → Nat → List Byte → State × Bool
  | 0, _, _ => (s, false)
  | n + 1, pa, b =>
    let r : State × Bool :=
      if s.poisoned pa 128 then
        (s.logErr (paSite pa) 2 1 k.ctx k.src.core 0 0 (k.src.site % 64) (BitVec.ofNat 64 (paLocal pa)) 1 0, true)
      else (s.writeMem pa ((Bfa.of (Memory.read s.mem pa 128)).add (bfaPairs (b.take 128))).bytes false, false)
    let q := r.1.reduceBlocks k n (pa + 128) (b.drop 128)
    (q.1, r.2 || q.2)

/-- A REDUCE packet at its bank: a secured one is redirected, any other adds. -/
def State.acceptReduce (s : State) (k : Packet) (sec : Bool) (pa fallback : Nat) : State :=
  if sec then
    s.setPacket { k with
      kind := .redirected (k.src.site % 64 + (k.src.core - 97) * 64), dst := (redirectTo pa fallback).1
      chan := (redirectTo pa fallback).2, wire := none, heldAt := none }
  else
    let n := k.data.length
    if n = 0 then s.settlePacket k 0
    else if paRegion pa n ≠ some .poolSram ∨ !s.windowOk k.src.site (siteWaf k.src.site) k.ctx pa n .rmw then
      s.settlePacket k 3
    else
      let r := s.reduceBlocks k (n / 128) pa k.data
      r.1.settlePacket k (if r.2 then 4 else 0)

/-- A descriptor at its port processor (R310). -/
def State.acceptDesc (s : State) (k : Packet) : State :=
  let bits := s.descBits k.dst k.data false
  if bits = 0 then s.enterChan k
  else match k.req with
    | some id => (s.settlePacket k 0).endColl id (collError bits)
    | none => s.settlePacket k 0

/-- A packet whose version is accepted. -/
def State.acceptPacket (s : State) (k : Packet) : State :=
  match k.kind with
  | .reduce sec pa fb => s.acceptReduce k sec pa fb
  | .desc _ => s.acceptDesc k
  | _ => s.enterChan k

/-- Copies of a multicast put for the bytes at some addresses, those for one site as an access. -/
def Packet.copyFor (k : Packet) (id : Nat) : List Nat → Packet
  | [a] => { k with kind := .access id a, dst := ⟨paSite a, 127⟩, xport := none }
  | l => { k with kind := .multi id l, dst := ⟨paSite (l.headD 0), 127⟩, xport := none }

/-- The copy of a multicast put has come to its ingress site, which replicates it on its wafer's mesh as forward-class packets
(R309). -/
def State.replicate (s : State) (k : Packet) (id : Nat) : State :=
  match (s.store id).map Store.kind with
  | some (.multi d) =>
    let l := (d.filter fun a => a.2 == k.hop && siteWaf (paSite a.1) == siteWaf k.hop).map (·.1)
    (s.sendCopies k (if l.isEmpty then [] else [{ k.copyFor id l with wire := none, fwd := true }])).dropPacket k.id
  | _ => s.dropPacket k.id

/-- Destinations gathered by a first hop: the ports that serve all of a group, and the group. -/
def gather (g : List (List Nat × List Nat)) (a : Nat) (ports : List Nat) : List (List Nat × List Nat) :=
  match g with
  | [] => [(ports, [a])]
  | (q, l) :: t =>
    let both := q.filter ports.contains
    if both.isEmpty then (q, l) :: gather t a ports else (both, l ++ [a]) :: t

/-- The ports by which the mesh carries a copy from a site toward an address. -/
def State.copyPorts (s : State) (k : Packet) (a : Nat) : List Nat :=
  let e := s.route k.hop (some k.ver) (paSite a)
  if isCompute k.hop && 2 ≤ bitsOf e 7 6 then [] else (s.candidates k.hop e).filter (· != sillPort k.hop)

/-- The groups in which the copy of a multicast put goes on from where it stands (R309): a copy is made only where its destinations
need different output ports. DESIGN CHOICE (log 30): destinations join the first group with which they share a candidate port; one that
no mesh port serves goes on by itself. -/
def State.fanOut (s : State) (k : Packet) (l : List Nat) : List (List Nat × List Nat) :=
  let far := l.filter (paSite · != k.hop)
  ((far.filter fun a => !(s.copyPorts k a).isEmpty).foldl (fun g a => gather g a (s.copyPorts k a)) []) ++
    (l.filter fun a => paSite a = k.hop || (s.copyPorts k a).isEmpty).map fun a => ([], [a])

/-- What a sender released before its packet has come about (R203, R205): a packet of a port processor, a descriptor or a status
leaves its sender only then, and once its sender's buffer has been read (R312). -/
def State.cleared (s : State) (k : Packet) : Bool :=
  k.hop != k.src.site || k.wire.isSome || (match k.kind with
    | .access _ _ | .walk _ _ | .fetch _ _ | .answer _ _ | .multi _ _ | .spread _ => true
    | _ => s.carriedAt k.src k.gen k.id k.scope && !s.answering k.id)

/-- What the engine of a PSEND comes to when it reads its buffer (R312). -/
inductive Load where
  | ok (k : Packet) (s : State)
  | nack (code : Nat) (s : State)
  | waits (s : State)

/-- The engine of a PSEND reads its buffer, where no earlier store of its processor is on its way: the packet with its bytes, or a
negative acknowledgement. -/
def State.loadPacket (s : State) (k : Packet) : Load :=
  if k.load.isEmpty then .ok k s
  else if k.load.any fun x => s.underway k.src x.1 x.2 then .waits s
  else
    let places := k.load
    let ended (s : State) : State := s.endPlaces k.src k.ctx k.id places
    match s.engineReach k.src k.ctx k.gen k.id .read places with
    | (.waits, s) => .waits s
    | (.fails, s) => .nack (if places.all fun x => s.loadOk k.src k.ctx k.id x.1 x.2 .read then 4 else 3) (ended s)
    | (.may, s) =>
      let k := { k with data := places.flatMap fun x => s.homeBytes x.1 x.2, load := [] }
      let s := (ended s).setPacket k
      if s.answering k.id then .waits s else .ok k s

/-- Whom an access is for still waits for it: a store, a request, an engine operation, a packet, a copy of a context, or a thread
before its commit. -/
def State.awaits (s : State) (id : Nat) : Bool :=
  (s.store id).isSome || (s.req id).isSome || (s.op id).isSome || (s.packet id).isSome ||
    (s.procs.any fun r => match r.2.move with | some m => m.id == id | none => false) ||
    s.threads.any fun t => t.2.gen == id && t.2.st != .free

/-- A packet is one that its sender may never come for: a fetch, a walk's read, or an access before its clause's commit. -/
def State.idle (s : State) (k : Packet) : Bool :=
  match k.kind with
  | .walk _ _ | .fetch _ _ => true
  | .access id _ => (s.store id).isNone && (s.req id).isNone && (s.op id).isNone && (s.packet id).isNone
  | _ => false

/-- A request stands at its bytes, out of the buffers that brought it there. -/
def State.standHome (s : State) (k : Packet) : State :=
  if k.wire.isNone && k.waitAt.isSome then s
  else s.setPacket { k with wire := none, xport := none, waitAt := if s.idle k then some s.tick else none }

/-- A packet at its destination, with its bytes: refused, held or accepted by its version (R295). One that was held is accepted
when a swap has made the versions equal. -/
def State.meet (s : State) (k : Packet) : State :=
  match k.kind with
  | .access id _ => if s.awaits id then s.standHome k else s.dropPacket k.id
  | .walk _ _ | .fetch _ _ => s.standHome k
  | .answer _ _ => s.dropPacket k.id
  | .multi id l => (s.sendCopies k ((s.fanOut k l).map fun g => k.copyFor id g.2)).dropPacket k.id
  | .spread id => s.replicate k id
  | .done _ _ => s
  | .abort _ => s.enterChan k
  | _ =>
    match verOrder k.ver (s.site k.dst.site).active with
    | 0 => s.acceptPacket k
    | 1 => if k.heldAt.isSome then s else s.settlePacket k 1
    | _ => if k.heldAt.isSome then s else s.setPacket { k with heldAt := some s.tick }

/-- A packet that is at its destination, which lives. -/
def State.arrive (s : State) (k : Packet) : State :=
  if k.hop ≠ k.dst.site ∨ k.crossing ∨ k.lost ∨ s.dead k.hop ∨ !s.cleared k then s else
  match s.loadPacket k with
  | .nack c s => s.settlePacket k c
  | .waits s => s
  | .ok k s => s.meet k

/-- PP_PACKET_ARRIVAL. -/
def execPpPacketArrival (id : Nat) (s : State) : Out :=
  match s.packet id with
  | none => .next s
  | some k => .next (s.arrive k)

/-- COLL_ACCEPT: the arrival of a descriptor. -/
def execCollAccept (id : Nat) (s : State) : Out :=
  match s.packet id with
  | none => .next s
  | some k => match k.kind with
    | .desc _ => .next (s.arrive k)
    | _ => .next s

/-- VERSION_HOLD_TIMEOUT: 100 µs of holding are over. -/
def execVersionHoldTimeout (id : Nat) (s : State) : Out :=
  match s.packet id with
  | none => .next s
  | some k => match k.heldAt with
    | some t =>
      if verOrder k.ver (s.site k.dst.site).active ≠ 0 ∧ 100000 ≤ nanoSpan t s.tick then .next (s.settlePacket k 2)
      else .next s
    | none => .next s

/-! Hops (R286, R291, R294, R296). -/

/-- A packet that finds no port waits. -/
def State.waitPort (s : State) (k : Packet) : State :=
  s.setPacket (if k.waitAt.isSome then k else { k with waitAt := some s.tick })

/-- A packet goes out over the external plane (R26, R292): through the site's own endpoint to that of its destination, or over
the mesh to the fallback site that is the egress. -/
def State.hopOut (s : State) (k : Packet) : State :=
  match s.egressOf k.hop with
  | none => s.waitPort k
  | some g =>
    if g ≠ k.hop then s.setPacket { k with via := some g, waitAt := none }
    else if s.sillUp k.dst.site then s.hopTo { k with via := none } (sillPort k.hop)
    else s.waitPort k

/-- The plane of a packet at its compute reticle: an ordered flow keeps that of its packets in flight (R291). -/
def State.planeOf (s : State) (k : Packet) : Plane2 :=
  let peer := s.packets.find? fun x => x.flow.isSome && x.flow == k.flow && x.gen == k.gen && x.dst.site == k.dst.site &&
    x.ext.isSome
  match k.flow.bind fun _ => peer.bind (·.ext) with
  | some true => .external
  | some false => match s.leastPort k.hop (s.candidates k.hop (s.route k.hop (some k.ver) k.dst.site)) with
    | some p => .mesh p
    | none => .none
  | none => s.selectPlane k.hop k.dst.site (some k.ver)

/-- A packet at a pool reticle: the crossbar puts it into the buffers of the lowest-occupancy candidate port that is up, if its class
has room there, and the port onto a link (R288, R291). -/
def State.crossTo (s : State) (k : Packet) (ports : List Nat) : State :=
  match k.xport with
  | some port => if s.portUp k.hop port then s.hopTo k port else s.setPacket { k with xport := none }
  | none => match s.leastPort k.hop ports with
    | some port => if s.crossRoom k port then s.setPacket { k with wire := none, xport := some port, waitAt := none } else s
    | none => s.waitPort k

/-- A packet that stands at a site takes its next hop toward a site of this wafer over the mesh. -/
def State.meshHop (s : State) (k : Packet) (ports : List Nat) : State :=
  if isCompute k.hop then
    match s.leastPort k.hop ports with
    | some port => s.hopTo k port
    | none => s.waitPort k
  else s.crossTo k ports

/-- The copy of a multicast put goes on: as one packet where one port serves all its destinations, else split (R309). -/
def State.forwardMulti (s : State) (k : Packet) (id : Nat) (l : List Nat) : State :=
  match s.fanOut k l with
  | [(ports, g)] => if ports.isEmpty then s.setPacket (k.copyFor id g) else s.meshHop k ports
  | gs => (s.sendCopies k (gs.map fun g => k.copyFor id g.2)).dropPacket k.id

/-- A packet that stands at a site takes its next hop, routed by the copy of the table that its version selects (R291, R294).
DESIGN CHOICE (log 23): a written table may bring a packet to a compute reticle that is not its destination; R11 puts all switching
in pool crossbars and gives no case for it, and the packet goes on from there as one of that reticle's own. -/
def State.forward (s : State) (k : Packet) : State :=
  let goal := match k.via with | some g => g | none => k.dst.site
  match k.kind with
  | .multi id l => s.forwardMulti k id l
  | _ =>
    if goal = k.hop ∨ siteWaf goal ≠ siteWaf k.hop then s.hopOut { k with via := none, ext := some true }
    else if isCompute k.hop ∧ k.via.isNone then
      match s.planeOf k with
      | .mesh port => s.hopTo { k with ext := some false } port
      | .external => s.hopOut { k with ext := some true }
      | .none => s.waitPort k
    else s.meshHop k (s.candidates k.hop (s.route k.hop (some k.ver) goal))

/-- A packet on a link: where its far end lives and has room for it, it lands there. -/
def State.crossLink (s : State) (k : Packet) : State :=
  match s.farEnd k with
  | some (g, _) => if s.dead g then s.waitPort k else s.landHop k
  | none => if s.sillUp k.dst.site then s else s.waitPort k

/-- PACKET_HOP: a packet on a link reaches its other end; one that stands at a site, once what its sender released has left the
queues (R203, R205), takes its next hop. At a site that died it is lost (R377, R383). -/
def execPacketHop (id : Nat) (s : State) : Out :=
  match s.packet id with
  | none => .next s
  | some k =>
    if k.lost then .next s
    else if s.dead k.hop then .next (s.settlePacket k 5)
    else if k.crossing then .next (s.crossLink k)
    else if k.hop = k.dst.site ∨ !s.cleared k then .next s
    else match s.loadPacket k with
      | .nack c s => .next (s.settlePacket k c)
      | .waits s => .next s
      | .ok k s => .next (s.forward k)

/-- PORT_WAIT_TIMEOUT (R286, R290): 10 ms without a port. DESIGN CHOICE (log 30): a request that its sender has not come for in that
time, at its bytes or as lost, is forgotten. -/
def execPortWaitTimeout (id : Nat) (s : State) : Out :=
  match s.packet id with
  | none => .next s
  | some k => match k.waitAt with
    | some t =>
      if 10000000 ≤ nanoSpan t s.tick then
        .next (if k.lost ∨ (k.hop = k.dst.site ∧ !k.crossing) then s.dropPacket k.id else s.settlePacket k 5)
      else .next s
    | none => .next s

/-- DELIVERY_GIVE_UP (R296): the external plane gives up on a packet that it carries and has not delivered. -/
def execDeliveryGiveUp (id : Nat) (s : State) : Out :=
  match s.packet id with
  | none => .next s
  | some k =>
    if !k.lost ∧ k.hop ≠ k.dst.site ∧ (k.ext = some true ∨ siteWaf k.src.site ≠ siteWaf k.dst.site) then .next (s.settlePacket k 5)
    else .next s

/-! COLL (R300, R310) and its end (R304). -/

/-- The completion tag of a COLL. -/
def collTag (t : TId) (sb dst seq : Nat) : Nat :=
  t.p.core % 128 + t.lane % 32 * 2 ^ 7 + t.slot % 16 * 2 ^ 12 + sb % 8 * 2 ^ 16 + dst % 32 * 2 ^ 19 + seq % 256 * 2 ^ 24

/-- The tag of a COLL in flight. -/
def Req.tag (r : Req) : Option Nat :=
  match r.kind with
  | .coll dst seq _ => some (collTag r.t (r.sb.getD 0) dst seq)
  | _ => none

/-- A sequence number that no COLL in flight at the site bears. -/
def State.collSeq (s : State) (gs : Nat) : Nat :=
  ((List.range 256).map fun k => (s.nextId + k) % 256).find? (fun n => !(s.reqs.any fun r =>
    r.t.p.site == gs && match r.kind with | .coll _ q _ => q == n | _ => false)) |>.getD (s.nextId % 256)

/-- The effect of COLL: the deferred status, and the descriptor with its tag on channel 0 of its port processor. -/
def State.postColl (s : State) (t : TId) (q : QForm) (d : List Byte) : State :=
  let seq := s.collSeq t.p.site
  let dst := q.dst.toNat
  let th := s.th t
  let s := s.enact t (.req (reqOf q.sbUse (.coll dst seq d) [] none))
  let id := s.nextId
  let pp : PId := ⟨t.p.site, 97 + fieldAt d 57 1⟩
  s.sendPacket (packetOf (.desc (collTag t q.sb.toNat dst seq)) th.ctx t.p th.gen pp 0 d (some id) (descScope d))

def execColl (q : QForm) (s : State) : Out :=
  .next (s.runRead q.pn q.pr 128
    (fun e => let va := e.g q.a; if va.toNat % 128 ≠ 0 then .error (7, va) else .ok va)
    fun _ e d => .ok fun s => s.postColl e.tid q d)

/-- Bytes of one page at a virtual address of a context that may be dying, read for no thread: `some none` where its tables do not
give them, nothing while a read is on its way. Its packets stay until `dropReads`. -/
def State.dyingBytes (s : State) (p : PId) (ctx : Nat) (va : Word) (n : Nat) : Option (Option (List Byte)) × State :=
  let q := s.site p.site
  match q.ctxIdx ctx with
  | none => (some none, s)
  | some x => match walk s p ctx (q.ctx x).ptroot.toNat va with
    | .wait a => (none, (s.askWay p ctx 0 (.walk (pageOf va) a) a).2)
    | .fail _ => (some none, s)
    | .ok e lvl =>
      let pa := ptePa e + va.toNat % 2 ^ pageBits lvl
      if !((paRegion pa n).isSome && pteR e && !isControl pa) then (some none, s) else
      match s.askWay p ctx 0 (.fetch va pa) pa with
      | (.coming, s) | (.unasked, s) => (none, s)
      | (.lost, s) => (some none, s)
      | (.here, s) => (some (some (Memory.read s.mem pa n)), s)

/-- The packets of such reads are done with. -/
def State.dropReads (s : State) (p : PId) (ctx : Nat) : State :=
  s.dropWays p ctx fun k => match k with | .walk _ _ | .fetch _ _ => true | _ => false

/-- The port processors of a rank table (R300), from entry `k` on; an entry that cannot be read names none. -/
def State.ranksFrom (s : State) (p : PId) (ctx : Nat) (d : List Byte) : Nat → Nat → Option (List PId) × State
  | 0, _ => (some [], s)
  | n + 1, k =>
    match s.dyingBytes p ctx (BitVec.ofNat 64 (fieldAt d 40 8 + 8 * k)) 8 with
    | (none, s) => (none, s)
    | (some b, s) => let r := s.ranksFrom p ctx d n (k + 1); (r.1.map (b.toList.map (fun x => ppOf (ofBytes x)) ++ ·), r.2)

def State.ranks (s : State) (p : PId) (ctx : Nat) (d : List Byte) : Option (List PId) × State :=
  s.ranksFrom p ctx d (fieldAt d 12 2) 0

/-- COLL_ABORT (R304): the thread of a collective is gone; its port processor sends an abort packet to every rank. What a
receiver reads as the TAG of an abort is open (log 2). DESIGN CHOICE (log 22): a collective whose descriptor has not been accepted is
dropped with it, and no rank is told; R304 has the abort sent by a port processor that runs the collective. -/
def execCollAbort (id : Nat) (s : State) : Out :=
  match s.req id with
  | none => .next s
  | some r => match r.kind with
    | .coll _ _ d =>
      if r.resp.isSome || (s.locate r.t r.gen).isSome then .next s
      else
        let pp : PId := ⟨r.t.p.site, 97 + fieldAt d 57 1⟩
        let freed (s : State) : State := { s with reqs := s.reqs.filter (·.id != id) }
        if (s.packets.any fun k => k.req == some id) ∨ descBad d then
          .next (freed ((s.packets.filter fun k => k.req == some id).foldl (fun s k => s.dropPacket k.id) s))
        else match s.ranks r.t.p r.ctx d with
          | (none, s) => .next s
          | (some l, s) =>
            let (n, s) := (freed (s.dropReads r.t.p r.ctx)).draw
            .next (l.foldl (fun s dst =>
              s.sendPacket (packetOf (.abort ((Config.freeWord n).toNat % 2 ^ 32)) r.ctx pp 0 dst 0 [] none 0)) s)
    | _ => .next s

/-- DONE_DELIVERY (R312): once the firmware's release has come about, the status goes to the register the tag names, if its COLL
still waits; DONE's own status tells. -/
def execDoneDelivery (id : Nat) (s : State) : Out :=
  match s.packet id with
  | none => .next s
  | some k => match k.kind with
    | .done tag v =>
      if k.crossing ∨ k.hop ≠ k.dst.site ∨ !s.cleared k then .next s else
      let hit := s.reqs.find? fun r => r.t.p.site == k.dst.site && r.tag == some tag && r.resp.isNone &&
        (s.locate r.t r.gen).isSome
      let s := s.dropPacket id
      let s := match hit with | some r => s.endColl r.id v | none => s
      match k.req with
      | some q => .next (s.answerReq q (psendStatus 0 (if hit.isSome then 8 else 0) false))
      | none => .next s
    | _ => .next s

/-- CHUNK_SEND (R303, R346): the tile of a BOUND launch, read when its band has ended, goes out as a chunk packet, or as missing.
A context being killed still has its descriptor read: its entry stays until then. -/
def execChunkSend (p : PId) (k : Nat) (s : State) : Out :=
  let r := s.proc p
  match r.closing.find? fun c => c.num == k && c.chunk with
  | none => .next s
  | some c =>
    match recordBound c.record with
    | none => .next s
    | some (tile, nbx, nby) =>
      let br : BandRef := ⟨c.num, c.epoch⟩
      let t := r.tile tile
      let mine := t.st != .empty && t.band == br && !c.killed
      -- the read waits for writers of the tile, as a drain does
      if mine ∧ t.st = .filling then .next s else
      let x := fun i => ((c.coord.extractLsb' (16 * i) 16).toNat)
      let num := x 0 + nbx * (x 1 + nby * x 2)
      match s.dyingBytes p c.ctx (BitVec.ofNat 64 (fieldAt c.record 88 8)) 128 with
      | (none, s) => .next s
      | (some d, s) =>
      let s := (s.dropReads p c.ctx).modProc p fun r => { r with closing := r.closing.map fun y => if y = c then { y with chunk := false } else y }
      let bytes (d : List Byte) : List Byte :=
        s.tileRead p tile (some br) 0 (min (fieldAt d 8 4 * (if fieldAt d 2 1 = 0 then 4 else 2)) (512 * t.size))
      let s := match d with
        | none => s
        | some d => s.sendPacket (packetOf (.chunk (num % 2 ^ 32) (!mine)) c.ctx p 0 ⟨p.site, 97 + fieldAt d 57 1⟩ (fieldAt d 58 1 % 64)
            (if mine then bytes d else []) none (descScope d))
      .next (if mine then s.setTile p tile (if t.cnt = 0 then Tile.empty else { t with ending := true }) else s)

/-! TOPOV (R311). -/

/-- A packet has been delivered, or its loss has come back to its source. -/
def Packet.delivered (k : Packet) : Bool :=
  k.lost || (k.hop == k.dst.site && !k.crossing && match k.kind with
    | .access _ _ | .walk _ _ | .fetch _ _ | .answer _ _ => true
    | _ => false)

/-- The packets a reticle sent, the answers of its home agent among them, that are still under way with another version than `v`. -/
def State.drainSet (s : State) (gs : Nat) (v : BitVec 16) : List Nat :=
  (s.packets.filter fun k => k.src.site == gs && k.src.core != 127 && k.ver != v && !k.delivered).map (·.id)

/-- Packets of other versions refused so far. -/
def Site.refusals (q : Site) (v : Nat) : Nat := q.refused.foldl (fun a x => if x.1 = v then a else a + x.2) 0

def execTopov (q : QForm) (d : Bool) (s : State) : Out :=
  .next (s.runLanes q.pn q.pr id fun s e => (.ok fun s =>
    let x := s.site e.p.site
    if !d then s.enact e.tid (.req (reqOf q.sbUse (.value false) [] (some [.g q.dst.toNat x.verWord])))
    else
      let v := (e.g q.a).setWidth 16
      s.enact e.tid (.req (reqOf q.sbUse (.drain v.toNat q.dst.toNat (s.drainSet e.p.site v) (x.refusals v.toNat)) [] none)), s))

/-- Drains that have nothing left to wait for answer. -/
def State.settleDrains (s : State) : State :=
  let here (i : Nat) : Bool := s.packets.any fun k => k.id == i && !k.delivered
  { s with reqs := s.reqs.map fun r => match r.kind, r.resp with
      | .drain _ dst ids n, none =>
        if ids.any here then r else { r with resp := some [.g dst (BitVec.ofNat 64 (min n (2 ^ 32 - 1)))] }
      | _, _ => r }

/-! PSEND, PRECV (R312, R313). -/

/-- The pages of a range, translated before commit: the pieces with their addresses, or the first fault. -/
def State.span (s : State) (e : Env) (k : AccKind) : List (Word × Nat) → PRes × State
  | [] => (.ok [], s)
  | (va, n) :: t =>
    match s.place e va n k with
    | (.trap c, s) => (.trap c va, s)
    | (.dead, s) => (.dead, s)
    | (.wait, s) => (.wait, s)
    | (.ok pa _, s) =>
      match s.span e k t with
      | (.ok ps, s) => (.ok (⟨va, pa, n, false, false, false, none, false⟩ :: ps), s)
      | r => r

/-- The pages of `n` bytes at a virtual address. -/
def State.spanOf (s : State) (e : Env) (k : AccKind) (va : Word) (n : Nat) : PRes × State :=
  s.span e k (pagePieces (n / 8192 + 2) va (max n 1))

/-- A destination word that R312 refuses. -/
def badDest (w : Nat) : Bool :=
  w / 2 ^ 26 % 64 == 0 || decide (4 < w / 2 ^ 23 % 8) || !isCompute (w / 2 ^ 17 % 64) || decide (2 ^ 32 ≤ w)

/-- The packet of a PSEND, whose engine reads the `n` bytes of its buffer once the release has come about (R312). -/
def State.psendGo (s : State) (e : Env) (q : QForm) (ps : List Part) (n : Nat) (mk : Option Nat → Packet) : State :=
  let s := s.enact e.tid (.req (reqOf q.sbUse (.psend q.dst.toNat) [] none))
  s.sendPacket { mk (some s.nextId) with gen := e.t.gen, load := if n = 0 then [] else ps.map fun x => (x.pa, x.n) }

def execPsendData (q : QForm) (scp : BitVec 2) (s : State) : Out :=
  .next (s.runLanes q.pn q.pr id fun s e =>
    let a := e.g q.a
    let w := e.g q.b
    let c := e.g q.c
    let n := bitsOf c 19 0
    if n < 32 ∨ 65536 < n ∨ n % 32 ≠ 0 then (.trap 20 c, s)
    else if a.toNat % 32 ≠ 0 then (.trap 20 a, s)
    else if badDest w.toNat then (.trap 20 w, s)
    else match s.spanOf e .read a n with
      | (.trap k i, s) => (.trap k i, s)
      | (.dead, s) => (.dead, s)
      | (.wait, s) => (.wait, s)
      | (.ok ps, s) => (.ok fun s => s.psendGo e q ps n fun r =>
          packetOf (.data (bitsOf c 63 32)) e.t.ctx e.p 0 (ppOf w.toNat) (bitsOf w 31 26) [] r scp.toNat, s))

def execPsendReduce (q : QForm) (sec : Bool) (scp : BitVec 2) (s : State) : Out :=
  .next (s.runLanes q.pn q.pr id fun s e =>
    let a := e.g q.a
    let w := e.g q.b
    let c := e.g q.c
    let n := bitsOf c 19 0
    if n % 128 ≠ 0 then (.trap 20 c, s)
    else if a.toNat % 128 ≠ 0 then (.trap 20 a, s)
    else if w.toNat % 128 ≠ 0 then (.trap 20 w, s)
    else if badDest (bitsOf c 63 32) then (.trap 20 c, s)
    else match s.spanOf e .read a n with
      | (.trap k i, s) => (.trap k i, s)
      | (.dead, s) => (.dead, s)
      | (.wait, s) => (.wait, s)
      | (.ok ps, s) => (.ok fun s => s.psendGo e q ps n fun r =>
          packetOf (.reduce sec w.toNat (bitsOf c 63 32)) e.t.ctx e.p 0 ⟨paSite w.toNat, 127⟩ 0 [] r scp.toNat, s))

def execPsendDone (q : QForm) (scp : BitVec 2) (s : State) : Out :=
  .next (s.runLanes q.pn q.pr id fun s e => (.ok fun s =>
    let s := s.enact e.tid (.req (reqOf q.sbUse (.psend q.dst.toNat) [] none))
    s.sendPacket (packetOf (.done (bitsOf (e.g q.b) 31 0) (e.g q.c)) e.t.ctx e.p e.t.gen e.p 0 [] (some s.nextId) scp.toNat), s))

def execPrecv (q : QForm) (s : State) : Out :=
  .next (s.runLanes q.pn q.pr id fun s e =>
    let a := e.g q.a
    let b := e.g q.b
    let cap := bitsOf b 51 32
    if a.toNat % 32 ≠ 0 then (.trap 7 a, s)
    else match s.spanOf e .write a cap with
      | (.trap k i, s) => (.trap k i, s)
      | (.dead, s) => (.dead, s)
      | (.wait, s) => (.wait, s)
      | (.ok _, s) => (.ok fun s =>
          let s := s.enact e.tid (.req (reqOf q.sbUse (.precv q.dst.toNat) [] none))
          let c := bitsOf b 5 0
          let x := (s.proc e.p).chan c
          (s.setChan e.p c { x with bufs := x.bufs ++ [⟨s.nextId, a, cap⟩] }).matchChan e.p c x.pkts.length, s))

/-! PRED, PQNT (R314, R315). -/

/-- The physical address of a virtual one in translated pieces. -/
def placeIn (ps : List Part) (va : Word) : Nat :=
  match ps.find? fun x => decide (x.va.toNat ≤ va.toNat) && decide (va.toNat < x.va.toNat + x.n) with
  | some x => x.pa + (va.toNat - x.va.toNat)
  | none => 0

/-- The physical places of `n` bytes at a virtual address in translated pieces; they may cross a page. -/
def placesIn (ps : List Part) (va : Word) (n : Nat) : List (Nat × Nat) :=
  ps.filterMap fun x =>
    let lo := max va.toNat x.va.toNat
    let hi := min (va.toNat + n) (x.va.toNat + x.n)
    if lo < hi then some (x.pa + (lo - x.va.toNat), hi - lo) else none

/-- How the engine of a request stands to places, each with its kind of access. -/
def State.reqReach (s : State) (r : Req) : List (List (Nat × Nat) × AccKind) → Reach × State
  | [] => (.may, s)
  | (ps, k) :: t =>
    let x := s.engineReach r.t.p r.ctx r.gen r.id k ps
    let y := x.2.reqReach r t
    (x.1.and y.1, y.2)

/-- The bytes at places. -/
def State.placeBytes (s : State) (ps : List (Nat × Nat)) : List Byte := ps.flatMap fun x => s.homeBytes x.1 x.2

/-- The result of one PRED element. -/
def predValue (op : Nat) (d x : X) : X :=
  match op with
  | 0 => x
  | 1 => (X.add false d x).1
  | 2 => minMaxX true d x
  | _ => minMaxX false d x

/-- The value of element `i` of BFA blocks. -/
def bfaValue (b : List Byte) (i : Nat) : X :=
  let f := Bfa.of b
  if f.nan then .nan else (Dy.mk ((f.m[i]?).getD 0) ((f.exp : Int) - 150)).toX

/-- How far the engine of a request has come: the elements or granules done with, those not written, and the state. -/
structure Progress where
  s : State
  next : Nat
  failed : Nat

/-- PRED, element by element, up to one whose accesses are on their way. -/
def Progress.pred (x : Progress) (r : Req) (op : Nat) (bfa : Bool) (fmt : Fmt) (a b : Word) (da db : List Part) : Nat → Progress
  | 0 => x
  | n + 1 =>
    let w := fmt.bits / 8
    let z := if bfa then 128 else w
    let d := placesIn da (a + BitVec.ofNat 64 (w * x.next)) w
    let y := placesIn db (b + BitVec.ofNat 64 (z * (if bfa then x.next / 32 else x.next))) z
    match x.s.reqReach r ([(y, .read), (d, .write)] ++ if op = 0 then [] else [(d, .read)]) with
    | (.waits, s) => { x with s := s }
    | (.fails, s) =>
      (⟨s.endPlaces r.t.p r.ctx r.id (y ++ d), x.next + 1, x.failed + 1⟩ : Progress).pred r op bfa fmt a b da db n
    | (.may, s) =>
      let v := if bfa then bfaValue (s.placeBytes y) (x.next % 32) else fmt.decode (ofBytes (s.placeBytes y))
      let q := (fmt.round .rn false 0 (predValue op (fmt.decode (ofBytes (s.placeBytes d))) v)).1
      (⟨(s.writePieces r.t.p d (toBytes w q)).endPlaces r.t.p r.ctx r.id (y ++ d), x.next + 1, x.failed⟩ : Progress).pred
        r op bfa fmt a b da db n

/-- The status of an engine that counts what it did not write (R233). -/
def engineStatus (failed : Nat) : Word := BitVec.ofNat 64 (2 ^ 63 + boolN (failed != 0) * 2 ^ 62 + failed % 2 ^ 32)

def execPred (q : QForm) (op : BitVec 2) (bfa : Bool) (fmt : Fmt) (s : State) : Out :=
  .next (s.runLanes q.pn q.pr id fun s e =>
    let a := e.g q.a
    let b := e.g q.b
    let n := bitsOf (e.g q.c) 20 0
    let w := fmt.bits / 8
    let z := if bfa then 128 else w
    if n = 0 ∨ 2 ^ 20 < n ∨ (bfa ∧ n % 32 ≠ 0) then (.trap 20 (e.g q.c), s)
    else if a.toNat % z ≠ 0 then (.trap 7 a, s)
    else if b.toNat % z ≠ 0 then (.trap 7 b, s)
    else match s.spanOf e .write a (w * n) with
      | (.trap k i, s) => (.trap k i, s)
      | (.dead, s) => (.dead, s)
      | (.wait, s) => (.wait, s)
      | (.ok da, s) => match s.spanOf e .read b (if bfa then 4 * n else w * n) with
        | (.trap k i, s) => (.trap k i, s)
        | (.dead, s) => (.dead, s)
        | (.wait, s) => (.wait, s)
        | (.ok db, s) => (.ok fun s =>
            s.enact e.tid (.req (reqOf q.sbUse (.port q.dst.toNat (.pred op.toNat bfa fmt a b da db n) 0 0) [] none)), s))

/-- The FP32 values of bytes. -/
def f32sOf (b : List Byte) : List X := (bfaPairs b).map fun x => f32 x.2

/-- PQNT, granule by granule, up to one whose accesses are on their way. -/
def Progress.pqnt (x : Progress) (r : Req) (fmt : Fmt) (p2 : Bool) (a b : Word) (c : Option Word) (gsd : Word)
    (da db ds dc : List Part) : Nat → Progress
  | 0 => x
  | n + 1 =>
    let gb := b + BitVec.ofNat 64 (32 * x.next)
    let pa := placesIn da (a + BitVec.ofNat 64 (128 * x.next)) 128
    let pb := placesIn db gb 32
    let pscale := placesIn ds ((gb >>> 4) + gsd) 2
    let pc := (c.map fun v => placesIn dc (v + BitVec.ofNat 64 (128 * x.next)) 128).getD []
    let all := pa ++ pb ++ pscale ++ pc
    match x.s.reqReach r [(pa, .read), (pc, .read), (pb, .write), (pscale, .write), (pc, .write)] with
    | (.waits, s) => { x with s := s }
    | (.fails, s) =>
      (⟨s.endPlaces r.t.p r.ctx r.id all, x.next + 1, x.failed + 1⟩ : Progress).pqnt r fmt p2 a b c gsd da db ds dc n
    | (.may, s) =>
      let v := match c with
        | some _ => ((f32sOf (s.placeBytes pa)).zip (f32sOf (s.placeBytes pc))).map fun (y : X × X) => (X.add false y.1 y.2).1
        | none => f32sOf (s.placeBytes pa)
      let g := (pack fmt (chooseScale fmt p2 v) .rn false v 0 0).w
      let s := (s.writePieces r.t.p pb g.payBytes).writePieces r.t.p pscale g.scaleBytes
      let s := s.writePieces r.t.p pc ((v.zipIdx).flatMap fun (y : X × Nat) =>
        toBytes 4 (rnF32 (X.add false y.1 (elemVal fmt g y.2).negate).1))
      (⟨s.endPlaces r.t.p r.ctx r.id all, x.next + 1, x.failed⟩ : Progress).pqnt r fmt p2 a b c gsd da db ds dc n

/-- The scale addresses of `k` granules. -/
def scalePieces (e : Env) (b : Word) (k : Nat) : List (Word × Nat) :=
  (List.range k).map fun j => (e.sa (b + BitVec.ofNat 64 (32 * j)), 2)

def execPqnt (q : QForm) (granules : BitVec 8) (fmt : Fmt) (p2 : Bool) (s : State) : Out :=
  .next (s.runLanes q.pn q.pr id fun s e =>
    let k := granules.toNat + 1
    let a := e.g q.a
    let b := e.g q.b
    let c := e.g q.c
    let res : Option Word := if c = 0 then none else some c
    if a.toNat % 4 ≠ 0 then (.trap 7 a, s)
    else if b.toNat % 32 ≠ 0 then (.trap 7 b, s)
    else if c.toNat % 4 ≠ 0 then (.trap 7 c, s)
    else if (e.sa b).toNat % 2 ≠ 0 then (.trap 7 (e.sa b), s)
    else match s.spanOf e .read a (128 * k) with
      | (.trap i v, s) => (.trap i v, s)
      | (.dead, s) => (.dead, s)
      | (.wait, s) => (.wait, s)
      | (.ok da, s) => match s.spanOf e .write b (32 * k) with
        | (.trap i v, s) => (.trap i v, s)
        | (.dead, s) => (.dead, s)
        | (.wait, s) => (.wait, s)
        | (.ok db, s) => match s.span e .write (scalePieces e b k) with
          | (.trap i v, s) => (.trap i v, s)
          | (.dead, s) => (.dead, s)
          | (.wait, s) => (.wait, s)
          | (.ok ds, s) => match (if res.isSome then s.spanOf e .read c (128 * k) else (.ok [], s)) with
            | (.trap i v, s) => (.trap i v, s)
            | (.dead, s) => (.dead, s)
            | (.wait, s) => (.wait, s)
            | (.ok _, s) => match (if res.isSome then s.spanOf e .write c (128 * k) else (.ok [], s)) with
              | (.trap i v, s) => (.trap i v, s)
              | (.dead, s) => (.dead, s)
              | (.wait, s) => (.wait, s)
              | (.ok dc, s) => (.ok fun s =>
                  s.enact e.tid (.req (reqOf q.sbUse
                    (.port q.dst.toNat (.pqnt fmt p2 a b res e.t.gsd da db ds dc k) 0 0) [] none)), s))

/-- The elements or granules of the work of an engine. -/
def PortWork.count : PortWork → Nat
  | .pred _ _ _ _ _ _ _ n | .pqnt _ _ _ _ _ _ _ _ _ _ n => n

/-- The engine of a port processor performs what it was asked for, once the earlier stores of the thread stand in memory
(R314, R315, R365), as far as its accesses have come. -/
def State.portWork (s : State) (r : Req) (dst : Nat) (w : PortWork) (next failed : Nat) : State :=
  if !s.carried r.t.p r.gen r.id then s else
  let x : Progress := match w with
    | .pred op bfa fmt a b da db n => (⟨s, next, failed⟩ : Progress).pred r op bfa fmt a b da db (n - next)
    | .pqnt fmt p2 a b c gsd da db ds dc n => (⟨s, next, failed⟩ : Progress).pqnt r fmt p2 a b c gsd da db ds dc (n - next)
  x.s.setReq { r with
    kind := .port dst w x.next x.failed
    resp := if x.next = w.count then some [.g dst (engineStatus x.failed)] else none }

/-- The channel on which the buffer of a PRECV is posted. -/
def Proc.channelOf (r : Proc) (req : Nat) : Option Nat := (r.chans.find? fun c => c.2.bufs.any (·.req == req)).map (·.1)

/-- DEFERRED_WRITE (R37, R101): the work of a port processor's engine first where it is still to be done, the filling of a posted
buffer where a packet waits for it, then the answer, once it has come back. -/
def execDeferredWrite (id : Nat) (s : State) : Out :=
  match s.req id with
  | none => .next s
  | some r => match r.kind, r.resp with
    | .port dst w next failed, none => .next (s.portWork r dst w next failed)
    | .precv _, none => match (s.proc r.t.p).channelOf id with
      | some c => .next (s.matchChan r.t.p c ((s.proc r.t.p).chan c).pkts.length)
      | none => .next s
    | _, _ => .next (if s.answering id then s else s.respond r)

/-! PWAIT, PROUTE (R316). -/

def execPwait (q : QForm) (arg : BitVec 6) (mode : BitVec 2) (s : State) : Out :=
  .next (s.runLanes q.pn q.pr id fun s e => (.ok fun s =>
    let n := (e.g q.a).toNat
    match mode.toNat with
    | 0 =>
      let c := arg.toNat
      let x := (s.proc e.p).chan c
      if x.ready ((s.th e.tid).seen.get 0 c) then s.modTh e.tid fun th => { th with seen := th.seen.put c x.count }
      else s.park e.tid (.chan c)
    | 1 =>
      let tl := arg.toNat % 16
      match (s.site e.p.site).ctxIdx e.t.ctx with
      | none => s
      | some x =>
        if n ≤ ((s.proc e.p).timeline x tl).dn then s.acquire e.tid 3 else s.park e.tid (.ptime tl n)
    | _ => if (s.site e.p.site).active.toNat = n % 65536 then s else s.park e.tid (.version (n % 65536)), s))

/-- PROUTE's answer. For another wafer the table has no entry: its HOPS and XCOST, and an egress site where there is
none, are open (log 2). -/
def State.routeWord (s : State) (gs : Nat) (w : Word) (n : Nat) : Word :=
  let dst := bitsOf w 16 0 * 64 + bitsOf w 22 17
  let free := (Config.freeWord n).toNat
  let own := siteWaf dst == siteWaf gs
  let e := s.route gs none dst
  let egress := match s.egressOf gs with | some g => g % 64 | none => free / 2 ^ 16 % 64
  let plane := if own then s.selectPlane gs dst none else .external
  let mask := match plane with | .mesh _ => (s.candidates gs e).foldl (fun a p => a + 2 ^ p) 0 | _ => 0
  let cost := if own then bitsOf e 63 56 * 2 ^ 48 + bitsOf e 55 40 * 2 ^ 32 else free / 2 ^ 32 % 2 ^ 24 * 2 ^ 32
  BitVec.ofNat 64 (boolN (plane == .external) * 2 ^ 63 + mask * 2 ^ 59 + cost + egress * 2 ^ 16 + (s.site gs).active.toNat)

def execProute (q : QForm) (s : State) : Out :=
  .next (s.runLanes q.pn q.pr id fun s e => (.ok fun s =>
    let (n, s) := s.draw
    s.enact e.tid (.req (reqOf q.sbUse (.value false) [] (some [.g q.dst.toNat (s.routeWord e.p.site (e.g q.a) n)]))), s))

end Sys2Proof.Machine
end

