-- ==== Sys2Proof/Machine/Context.lean ====
section
/-! DEFINITION. Images of units read back: restore (R345), CTXSAVE and CTXLOAD (R357, R358). -/
namespace Sys2Proof.Machine

/-! Reading images back. -/

def SqSt.of : Nat → SqSt
  | 1 => .idle | 2 => .running | 3 => .waiting | 4 => .stopped | 5 => .faulted | _ => .unbound

/-- A plane read back from its words (log 8). -/
def planeOf (l : List Byte) : Option Plane :=
  let h := fieldAt l 0 8
  if h / 256 = 0 then none
  else (Fmt.of (BitVec.ofNat 4 h)).map fun f =>
    ⟨f, tabulate 64 fun k => tabulate 64 fun n => fieldAt l (0x1000 + 2 * (64 * k + n)) 2,
      tabulate (if f.bits = 8 then 128 else if f.bits = 4 then 64 else 0) fun k => fieldAt l (0x100 + 2 * k) 2⟩

/-- An accumulator tile read back from its entries and its status word. -/
def accOf (l : List Byte) (status : Word) : AccTile :=
  let w (r c : Nat) : Word := wordAt l (64 * r + c)
  ⟨tabulate 64 fun r => tabulate 64 fun c => (w r c).setWidth 36, tabulate 64 fun r => tabulate 64 fun c => (w r c).getLsbD 36,
    status.getLsbD 18, status.getLsbD 17, status.getLsbD 16, status.getLsbD 9, status.getLsbD 8, bitsOf status 7 0⟩

/-- The sequencer read back from its block; `accs` are its accumulator tiles. -/
def seqOfImage (l : List Byte) (accs : Tab Nat AccTile) : Seq :=
  let w (off : Nat) : Word := wordAt l (off / 8)
  let x := (w 0x10).toNat
  { st := SqSt.of (bitsOf (w 0) 63 61)
    was := SqSt.of (x % 16)
    fcode := bitsOf (w 0) 60 57
    spc := sextN (w 0).toNat 53
    band := handleRef (w 0x18)
    last := handleRef (w 0x20)
    ctx := x / 2 ^ 16
    sph := tabulate 16 fun k => BitVec.ofNat 32 (fieldAt l (0x40 + 4 * k) 4)
    layout := (w 8).setWidth 4
    loops := (List.range (bitsOf (w 0) 56 54)).map fun k =>
      ⟨w (0x80 + 32 * k), w (0x88 + 32 * k), (w (0x90 + 32 * k)).toNat, (w (0x98 + 32 * k)).toNat⟩
    active := planeOf ((l.drop 0x1000).take 0x3000)
    shadow := planeOf ((l.drop 0x4000).take 0x3000)
    accs := accs
    work := []
    ending := false
    wbar := x / 16 % 4096
    after := none }

/-! Engine state read back (log 32): each reader takes its words off the front. -/

def getN : List Nat → Nat × List Nat
  | [] => (0, [])
  | x :: t => (x, t)

def getMany {α : Type} (f : List Nat → α × List Nat) : Nat → List Nat → List α × List Nat
  | 0, l => ([], l)
  | n + 1, l => let x := f l; let r := getMany f n x.2; (x.1 :: r.1, r.2)

def getList {α : Type} (f : List Nat → α × List Nat) (l : List Nat) : List α × List Nat :=
  let n := getN l
  getMany f (min n.1 n.2.length) n.2

def getOpt {α : Type} (f : List Nat → α × List Nat) (l : List Nat) : Option α × List Nat :=
  let n := getN l
  if n.1 = 0 then (none, n.2) else let x := f n.2; (some x.1, x.2)

def getBytes (l : List Nat) : List Byte × List Nat :=
  let n := getN l
  let k := (n.1 + 7) / 8
  (((n.2.take k).flatMap fun w => toBytes 8 w).take n.1, n.2.drop k)

def getWord (l : List Nat) : Word × List Nat := let n := getN l; (BitVec.ofNat 64 n.1, n.2)

def getRef (l : List Nat) : BandRef × List Nat := let n := getN l; (⟨n.1 % 64, n.1 / 64⟩, n.2)

def getPair (l : List Nat) : (Nat × Nat) × List Nat := let a := getN l; let b := getN a.2; ((a.1, b.1), b.2)

def getWalk (l : List Nat) : Walk × List Nat := (Walk.parse ((l.take 24).flatMap fun w => toBytes 8 w), l.drop 24)

def getKind (l : List Nat) : OpKind × List Nat :=
  let c := getN l
  match c.1 with
  | 0 =>
    let w := getWalk c.2
    let z := getN w.2
    let pc := getWord z.2
    let budget := getN pc.2
    let gsd := getWord budget.2
    let args := getList getWord gsd.2
    let g17 := getList getWord args.2
    let jb := getOpt getRef g17.2
    (.bread w.1 z.1 pc.1 args.1 g17.1 budget.1 gsd.1 jb.1, jb.2)
  | 1 => let a := getWalk c.2; let b := getWalk a.2; (.copy a.1 b.1, b.2)
  | 2 => let w := getWalk c.2; let x := getPair w.2; (.copyIn w.1 x.1.1 x.1.2, x.2)
  | 3 => let w := getWalk c.2; let x := getPair w.2; (.copyOut w.1 x.1.1 x.1.2, x.2)
  | 4 =>
    let f := getN c.2
    let x := getPair f.2
    let v := getList getBytes x.2
    (.tileAdd (f.1 != 0) x.1.1 x.1.2 (v.1.map fun b => BitVec.ofNat 256 (ofBytes b)), v.2)
  | _ => let d := getBytes c.2; let x := getPair d.2; let y := getPair x.2; (.bupd d.1 x.1.1 x.1.2 y.1.1 y.1.2, y.2)

def getBurst (l : List Nat) : Burst × List Nat :=
  let h := getN l
  let seq := h.1 % 2 ^ 32
  if h.1.testBit 34 then
    let d := getBytes h.2
    (⟨seq, [], h.1.testBit 32, 0, 0, some d.1, 0, h.1.testBit 33⟩, d.2)
  else
    let va := getWord h.2
    let x := getPair va.2
    let bc := getList getN x.2
    let has := getN bc.2
    let d := if has.1 = 0 then (none, has.2) else (fun y : List Byte × List Nat => (some y.1, y.2)) (getBytes has.2)
    (⟨seq, bc.1, h.1.testBit 32, va.1, x.1.1, d.1, x.1.2, h.1.testBit 33⟩, d.2)

/-- An operation of the image with its place among them and its status register, frame and scoreboard; threads stand for lane and row,
and its operations for places. -/
def getOp (p : PId) (e ctx : Nat) (l : List Nat) : (Nat × Op × Option (Nat × Nat × Nat)) × List Nat :=
  let t (k : Nat) : TId := ⟨p, k % 32, k / 32⟩
  let i := getN l
  let who := getN i.2
  let num := getN who.2
  let scope := getN num.2
  let next := getN scope.2
  let failed := getN next.2
  let flags := getN failed.2
  let hcode := getN flags.2
  let tl := getOpt getN hcode.2
  let band := getOpt getRef tl.2
  let kind := getKind band.2
  let bursts := getList getBurst kind.2
  let held := getList getPair bursts.2
  let again := getList getN held.2
  let written := getList getBurst again.2
  let hs := getList getN written.2
  let kids := getList getN hs.2
  let bar := getOpt (fun l => let b := getRef l; let k := getN b.2; ((b.1, k.1), k.2)) kids.2
  let dst := getOpt (fun l => let x := getPair l; let k := getN x.2; ((x.1.1, x.1.2, k.1), k.2)) bar.2
  ((i.1, { id := 0, t := t who.1, gen := 0, ctx := ctx, entry := e, band := band.1, tl := tl.1, num := num.1, scope := scope.1
           kind := kind.1, next := next.1, failed := failed.1, err := flags.1.testBit 0, cancel := flags.1.testBit 1
           hcode := hcode.1, bursts := bursts.1, held := [], again := again.1 ++ held.1.map (·.1), written := written.1, handlers := hs.1.map t, gens := []
           kids := kids.1, bar := bar.1, stopped := true, paused := false, out := true }, dst.1), dst.2)

/-! Restore (R345). Units that stand scanned out are read back from the save area: what has been written there since shows in them. -/

/-- Resume a stopped thread: the state held before the stop (R89). -/
def Thread.resume (th : Thread) : Thread := if th.st = .stopped then { th with st := th.was } else th

/-- Return a scanned-out thread to its slot. -/
def State.unscanThread (s : State) (t : TId) : State :=
  s.rename t (homeSlot t)

/-- What the save area holds in place of a block, where the two differ. -/
def State.asSaved (s : State) (p : PId) (ctx : Nat) (x : Nat × List Byte) : Option (List Byte) :=
  (s.saveBase p ctx).bind fun a =>
    let b := Memory.read s.mem (a + x.1) x.2.length
    if b = x.2 then none else some b

/-- A block is read back. DESIGN CHOICE (log 9): poison met there is logged at its home, and the unit takes the bytes as they stand. -/
def State.readBlock (s : State) (p : PId) (e ctx : Nat) (x : Nat × List Byte) : State :=
  match s.saveBase p ctx with
  | none => s
  | some a =>
    let s := if s.poisoned (a + x.1) x.2.length then
        s.logErr (paSite a) 2 1 ctx p.core 0 0 (p.site % 64) (BitVec.ofNat 64 (paLocal (a + x.1))) 1 0 else s
    s.modProc p fun r => { r with mirror := r.mirror.put (e, x.1) (Memory.read s.mem (a + x.1) x.2.length) }

/-- A thread read back keeps what no image shows: its number, those of its frames, and what its slot remembers of others. -/
def Thread.keeping (x o : Thread) : Thread :=
  { x with
    gen := o.gen, fid := o.fid, parent := o.parent, closed := o.closed, kin := o.kin, hold := o.hold, acqRet := o.acqRet
    acqWaf := o.acqWaf, cand := o.cand, starved := o.starved
    frames := x.frames.zipIdx.map fun f => match o.frames[f.2]? with
      | some g => { f.1 with fid := g.fid, parent := g.parent }
      | none => f.1 }

def State.readThread (s : State) (t : TId) : State :=
  let o := s.th t
  match s.asSaved t.p o.ctx (s.threadBlock t) with
  | none => s
  | some b =>
    let x := s.threadOf 0 (s.nextId + 1) o.entry ((s.opsOf t.p o.entry).map (·.id)) b
    ({ s with nextId := s.nextId + 16 } : State).setTh t (x.keeping o)

/-- A band read back keeps its members and the scopes of its barriers' phases, which no image shows. -/
def Band.keeping (x o : Band) : Band :=
  { x with bars := x.bars.map fun b => (b.1, { b.2 with scope := (o.bar b.1).scope, last := (o.bar b.1).last }) }

def State.readBand (s : State) (p : PId) (e ctx k : Nat) (o : Band) : Band :=
  match s.asSaved p ctx (bandBlock k o) with
  | none => o
  | some b => (bandOf b o.members e).keeping o

def State.readTile (s : State) (p : PId) (ctx k : Nat) (o : Tile × List Byte) : Tile × List Byte :=
  match (tileBlocks k o.1 o.2).map fun x => (s.asSaved p ctx x).getD x.2 with
  | [w, b] =>
    let x := Tile.parse (BitVec.ofNat 64 (ofBytes w)) o.1.band.epoch
    ({ x with ending := o.1.ending, scrub := o.1.scrub }, b)
  | _ => o

def State.readSeq (s : State) (p : PId) (ctx : Nat) (o : Seq) : Seq :=
  if (seqBlocks o).all fun x => (s.asSaved p ctx x).isNone then o else
  let saved (x : Nat × List Byte) : List Byte := (s.asSaved p ctx x).getD x.2
  let accs : Tab Nat AccTile := (List.range 8).map fun k =>
    (k, accOf (saved (0x100000 + 0x8000 * k, (o.acc k).image))
      (wordAt (saved (0x140000 + 8 * k, toBytes 8 (o.acc k).status.toNat)) 0))
  { seqOfImage (saved (0x40000, o.image)) accs with ending := o.ending, after := o.after }

/-- An operation read back keeps its number, its threads' and what no image shows. -/
def Op.keeping (x o : Op) : Op :=
  { o with
    num := x.num, scope := x.scope, kind := x.kind, next := x.next, failed := x.failed, err := x.err, cancel := x.cancel
    hcode := x.hcode, tl := x.tl, band := x.band, bursts := x.bursts, written := x.written, bar := x.bar
    again := x.again.filter fun q => !(o.held.any (·.1 == q)) }

/-- The scanned-out operations of an entry, read back by their places among them. -/
def State.readOps (s : State) (p : PId) (e ctx : Nat) : State :=
  if (s.engineBlocks p e).all fun x => (s.asSaved p ctx x).isNone then s else
  let bytes := (s.engineBlocks p e).map fun x => (x.1, (s.asSaved p ctx x).getD x.2)
  let words (copy : Bool) : List Nat :=
    (bytes.filter fun x => x.1 == engineOff copy 0 || x.1 == engineOff copy 8192).flatMap fun x =>
      (List.range (x.2.length / 8)).map fun k => (wordAt x.2 k).toNat
  let held := (s.enginesHeld p e).map (·.id)
  let read := (getList (getOp p e ctx) (words false)).1 ++ (getList (getOp p e ctx) (words true)).1
  { s with ops := s.ops.map fun o =>
      match read.find? fun x => o.out && held[x.1]? == some o.id with
      | some x => x.2.1.keeping o
      | none => o }

/-- Every scanned-out unit of an entry is read back from the save area, which holds what reached the unit there (R344, R345). -/
def State.readBack (s : State) (p : PId) (e : Nat) : State :=
  let ctx := ((s.proc p).entry e).ctx
  let s := s.mirrorOut p e
  let blocks := s.outBlocks p e
  let s := if (s.opsOf p e).any (·.out) then s.readOps p e ctx else s
  let s := ((s.entryThreads p e).filter fun x => decide (16 ≤ x.1.slot)).foldl (fun s x => s.readThread x.1) s
  let s := s.modProc p fun r => { r with
    sbands := r.sbands.map fun x => if x.1.1 = e then (x.1, s.readBand p e ctx x.1.2 x.2) else x
    stiles := r.stiles.map fun x => if x.1.1 = e then (x.1, s.readTile p ctx x.1.2 x.2) else x
    sseqs := r.sseqs.map fun x => if x.1 = e then (x.1, s.readSeq p ctx x.2) else x }
  blocks.foldl (fun s x => s.readBlock p e ctx x) s

/-- An entry claims from other stopped entries what its scanned-out units, and its operations, stood in. -/
def State.claimAll (s : State) (p : PId) (e : Nat) : State :=
  let r := s.proc p
  let s := (r.stiles.filter fun x => x.1.1 == e).foldl (fun s x => s.claimTile p e x.1.2) s
  let s := (r.sbands.filter fun x => x.1.1 == e).foldl (fun s x => s.claimBand p e x.1.2) s
  let s := s.claimRoom p e (List.range 64)
  let s := if (r.sseqs.find e).isSome then s.claimSeq p e else s
  r.slots.foldl (fun s _ => if s.engineRoom p e then s else s.claimEngines p e) s

/-- ENTRY_RESTORE. -/
def State.restore (s : State) (p : PId) (e : Nat) : State :=
  let n := (s.proc p).entry e
  let moving := match (s.proc p).move with | some m => m.entry == e | none => false
  if n.st ≠ .stopped ∨ n.killing ∨ moving = true ∨ !s.isClear p e ∨ !s.slotsReady p e then s else
  let s := (s.claimAll p e).readBack p e
  if !s.canRestore p e then s else
  let s := s.moveEntry p e .active
  let s := (List.range (n.shi + 1 - n.slo)).foldl (fun s k => s.parkRow p (n.slo + k)) s
  let s := s.modProc p fun r =>
    let back : Tab (Nat × Nat) Band := r.sbands.filter fun x => x.1.1 == e
    let r := { r with
      bands := back.foldl (fun (b : Tab Nat Band) (x : (Nat × Nat) × Band) => b.put x.1.2 x.2) r.bands, sbands := r.sbands.filter fun x => x.1.1 != e
      seq := (r.sseqs.find e).getD r.seq, sseqs := r.sseqs.drop e }
    ((r.placeTiles (r.tilesOut e)).elim r fun q => { q with stiles := r.stiles.filter fun x => x.1.1 != e }).dropMirror e
  let s := ((s.entryThreads p e).filter fun x => decide (16 ≤ x.1.slot)).foldl (fun s x => s.unscanThread x.1) s
  let s := (s.entryThreads p e).foldl (fun s x => (s.unparkRow x.1).modTh x.1 Thread.resume) s
  let s := (s.entryThreads p e).foldl (fun s x =>
    (List.range 8).foldl (fun s j => s.rjCheck p x.1.slot j) s) s
  let s := s.modProc p fun r => if r.seqOf e && r.seq.st == .stopped then { r with seq := { r.seq with st := r.seq.was } } else r
  { s with ops := s.ops.map fun o => if o.t.p = p ∧ o.entry = e then
    { o with stopped := false, paused := false, out := false } else o }

def execEntryRestore (p : PId) (e : Nat) (s : State) : Out := .next (s.restore p e)

/-! The units of an entry. -/

/-- Its bands, in place and scanned out. -/
def Proc.bandsOf (r : Proc) (e : Nat) : List (Nat × Band) :=
  (r.bands.filter fun b => b.2.entry == e) ++ (r.sbands.filter fun b => b.1.1 == e).map fun b => (b.1.2, b.2)

/-- Its tiles with their bytes. -/
def Proc.tilesOf (r : Proc) (e : Nat) : List (Nat × Tile × List Byte) :=
  let mine (b : BandRef) : Bool := (r.bandsOf e).any fun x => x.1 == b.num && x.2.epoch == b.epoch
  ((r.tiles.filter fun t => t.2.st != .empty && mine t.2.band).map fun t => (t.1, t.2, r.tileBytes t.2)) ++
    (r.stiles.filter fun t => t.1.1 == e).map fun t => (t.1.2, t.2)

/-- Its sequencer. -/
def Proc.seqHeld (r : Proc) (e : Nat) : Option Seq := if r.seqOf e then some r.seq else r.sseqs.find e

/-- Its threads with their lanes, rows and rejoin bits. -/
def State.windowsOf (s : State) (p : PId) (e : Nat) : List (Nat × Nat × Thread) :=
  (s.entryThreads p e).map fun x =>
    (x.1.lane, x.1.slot % 16,
      if x.1.slot < 16 then { x.2 with rjs := x.2.rjs ||| (s.proc p).laneRj x.1.slot x.1.lane } else x.2)

/-- A mask of numbers. -/
def maskOf (l : List Nat) : Nat := l.eraseDups.foldl (fun a k => a + 2 ^ k) 0

/-- The image header (R357). -/
def State.imageHeader (s : State) (p : PId) (e : Nat) : List Byte :=
  let r := s.proc p
  let n := r.entry e
  let x := ((s.site p.site).ctxIdx n.ctx).getD 0
  toBytes 4 1 ++ toBytes 2 n.ctx ++ toBytes 1 n.slo ++ toBytes 1 n.shi ++ toBytes 8 (maskOf ((r.bandsOf e).map (·.1))) ++
    toBytes 8 (maskOf ((r.tilesOf e).map (·.1))) ++ toBytes 1 (boolN (r.seqHeld e).isSome) ++ toBytes 7 0 ++
    toBytes 64 (maskOf ((s.windowsOf p e).map fun w => 16 * w.1 + w.2.1)) ++
    ((List.range 16).flatMap fun k => toBytes 8 (r.timeline x k).issued ++ toBytes 8 (r.timeline x k).dn)

/-- Write the units of an entry into the image at `a`, the header last. -/
def State.writeImage (s : State) (p : PId) (e a : Nat) : State :=
  let r := s.proc p
  let n := r.entry e
  let ws := s.windowsOf p e
  let put (s : State) (off : Nat) (b : List Byte) : State := s.writeMem (a + off) b false
  let s1 := ws.foldl (fun s w => put s (0x200000 + 0x1000 * (16 * w.1 + w.2.1)) (s.threadImage p true w.2.2)) s
  -- its own rows, and those in which handlers of its threads stand (R106, R333)
  let rows := (((List.range (n.shi + 1 - n.slo)).map (n.slo + ·)) ++ ws.map (·.2.1)).eraseDups
  let s1 := rows.foldl (fun s row =>
    (List.range 8).foldl (fun s j =>
      let bit (b : Nat) : Nat := maskOf ((ws.filter fun w => w.2.1 == row && w.2.2.rjs.getLsbD b).map (·.1))
      put s (0x10000 + 64 * row + 8 * j) (toBytes 4 (bit j) ++ toBytes 4 (bit (8 + j)))) s) s1
  let s1 := (r.bandsOf e).foldl (fun s b => put s (0x1000 + 512 * b.1) (b.2.image b.1)) s1
  let s1 := (r.tilesOf e).foldl (fun s t =>
    put (put s (0x20000 + 8 * t.1) (toBytes 8 t.2.1.word.toNat)) (0x80000 + t.2.1.base) t.2.2) s1
  let s1 := match r.seqHeld e with
    | none => s1
    | some q => (List.range 8).foldl (fun s k =>
        put (put s (0x100000 + 0x8000 * k) (q.acc k).image) (0x140000 + 8 * k) (toBytes 8 (q.acc k).status.toNat))
        (put s1 0x40000 q.image)
  let engine (s : State) (copy : Bool) : State :=
    (s.engineNats (s.opsOf p e) copy).zipIdx.foldl (fun s x => put s (engineOff copy x.2) (toBytes 8 x.1)) s
  let s1 := engine (engine s1 false) true
  put s1 0x200 (s.imageHeader p e)

/-- Free the units of an entry where they stand: nothing of them ends, they live on elsewhere or were never in use. -/
def State.freeUnits (s : State) (p : PId) (e : Nat) : State :=
  let r := s.proc p
  let bands := (r.bandsOf e).map fun b => (⟨b.1, b.2.epoch⟩ : BandRef)
  let s := (s.entryThreads p e).foldl (fun s x =>
    let m : BitVec 32 := ~~~(1#32 <<< x.1.lane)
    (s.setTh x.1 Thread.free).modProc p fun r => { r with rj := r.rj.map fun j =>
      if j.1.1 = x.1.slot then (j.1, (j.2.1 &&& m, j.2.2 &&& m)) else j }) s
  let ops := (s.opsOf p e).map (·.id)
  let s : State := { s with
    ops := s.ops.filter fun o => !(o.t.p == p && o.entry == e)
    reqs := s.reqs.filter fun r => match r.kind with | .engine id _ => !ops.contains id | _ => true }
  let s := s.modProc p fun r => { r.dropMirror e with
    seq := if r.seqOf e then Seq.unbound else r.seq
    sseqs := r.sseqs.drop e
    tiles := r.tiles.filter fun t => !(t.2.st != .empty && bands.contains t.2.band)
    stiles := r.stiles.filter fun t => t.1.1 != e
    bands := r.bands.filter fun b => b.2.entry != e
    sbands := r.sbands.filter fun b => b.1.1 != e }
  s.modSite p.site fun q => { q with pins := q.pins.filter fun x => !(bands.any fun b => x.1 == .band p b) }

/-- CTXDONE (R341). DESIGN CHOICE (log 24): bits 23:16 of its DATA, the code, read 0 whatever the copy met; the spec gives no code for a
copy that fails, whose ERR tells. -/
def State.ctxDone (s : State) (p : PId) (e ctx : Nat) (load err : Bool) : State :=
  s.raise p.site 9 p.core 0 0 ctx (e % 32 + boolN load * 2 ^ 8 + boolN err * 2 ^ 25)

def framerOf (gs : Nat) : PId := ⟨gs, 96⟩

def imageSize : Nat := 0x400000

/-- An image lies in memory. -/
def imagePlace (a : Nat) : Bool :=
  match paRegion a imageSize with
  | some .dram | some .poolSram | some .framerSram => true
  | _ => false

/-- How the framer's copy stands to its image: the fabric carries it there, and the windows pass it (R197). -/
def State.imageReach (s : State) (gs : Nat) (m : Move) (k : AccKind) : Reach × State :=
  if imagePlace m.image then s.engineReach (framerOf gs) 0 0 m.id k [(m.image, imageSize)] else (.fails, s)

/-- The copy has done with its image. -/
def State.imageDone (s : State) (gs : Nat) (m : Move) : State := s.endWay (framerOf gs) 0 m.id m.image []

/-- The deferred requests of a thread that count on a scoreboard, but for the statuses of its entry's engine operations, which move
with it. -/
def State.sbOther (s : State) (p : PId) (e : Nat) (th : Thread) (k : Nat) : Nat :=
  th.sbOf k - (s.reqs.filter fun r => r.gen == th.gen && r.sb == some k && r.resp.isNone &&
    match r.kind with | .engine id _ => (s.opsOf p e).any (·.id == id) | _ => false).length

/-- Everything of a stopped entry stands at rest: scoreboards zero but for the statuses of engine operations, no store of its threads
on its way, engine operations at their stop units with no request in flight, no stream work. -/
def State.atRest (s : State) (p : PId) (e : Nat) : Bool :=
  let r := s.proc p
  let gens := ((s.entryThreads p e).map (·.2.gen)) ++ (s.opsOf p e).flatMap (·.gens)
  ((s.entryThreads p e).all fun x => x.2.hold == Hold.empty && (List.range 8).all fun k => s.sbOther p e x.2 k == 0) &&
  ((s.opsOf p e).all s.settled) &&
  !(r.queues.any fun q => q.2.any fun x => gens.contains x.gen) && !(s.stores.any fun x => x.t.p == p && gens.contains x.gen) &&
  !((r.seqHeld e).any fun q => !q.work.isEmpty)

/-- The engine state of an entry fits the image. -/
def State.enginesFit (s : State) (p : PId) (e : Nat) : Bool :=
  decide ((s.engineNats (s.opsOf p e) false).length ≤ engineCap false) && decide ((s.engineNats (s.opsOf p e) true).length ≤ engineCap true)

/-- CTXSAVE_DONE: nothing of the entry is in flight any more, and its units stand in the image. -/
def execCtxsaveDone (p : PId) (e : Nat) (s : State) : Out :=
  let r := s.proc p
  match r.move with
  | none => .next s
  | some m =>
    -- an entry that is STOPPED no more, having been killed, ends the save with a failure
    let bad := m.err || (r.entry e).st != .stopped || (r.entry e).killing
    let freed (s : State) : State := (s.imageDone p.site m).modProc p fun r => { r with move := none }
    if m.load ∨ m.entry ≠ e ∨ (!bad ∧ !s.atRest p e) then .next s
    else if bad then .next ((freed s).ctxDone p e m.ctx false true)
    else match s.imageReach p.site m .write with
      | (.waits, s) => .next s
      | (.fails, s) => .next ((freed s).ctxDone p e m.ctx false true)
      | (.may, s) =>
        let s := (freed s).readBack p e
        if !s.enginesFit p e then .next (s.ctxDone p e m.ctx false true)
        else
          let s := (s.writeImage p e m.image).freeUnits p e
          .next ((s.moveEntry p e .empty).ctxDone p e m.ctx false false)

/-! CTXLOAD. -/

/-- Bytes of an image. -/
def State.imageBytes (s : State) (a off n : Nat) : List Byte := Memory.read s.mem (a + off) n

/-- Numbers whose bits are set in a mask field of the header. -/
def State.imageMask (s : State) (a off n : Nat) : List Nat :=
  let m := ofBytes (s.imageBytes a off n)
  (List.range (8 * n)).filter fun k => m.testBit k

/-- An entry that is ACTIVE or STOPPING. -/
def Proc.busyEntry (r : Proc) (e : Nat) : Bool := (r.entry e).st == .active || (r.entry e).st == .stopping

/-- Whether a unit of the image is held by an ACTIVE or STOPPING entry, the sequencer bound, or a timeline in use. -/
def State.loadClash (s : State) (p : PId) (ctx a : Nat) : Bool :=
  let r := s.proc p
  let x := ((s.site p.site).ctxIdx ctx).getD 0
  ((s.imageMask a 0x208 8).any fun k => match r.bands.find k with | some b => r.busyEntry b.entry | none => false) ||
  ((s.imageMask a 0x210 8).any fun k => (r.tile k).st != .empty && match r.band (r.tile k).band with
    | some b => r.busyEntry b.entry
    | none => true) ||
  ((s.imageMask a 0x220 64).any fun k => (s.th ⟨p, k / 16, k % 16⟩).st != .free && r.busyEntry (s.th ⟨p, k / 16, k % 16⟩).entry) ||
  (ofBytes (s.imageBytes a 0x218 1) == 1 && r.seq.st != .unbound) ||
  ((List.range 16).any fun k => (r.timeline x k).issued != 0)

/-- The operations of the image. -/
def State.imageOps (s : State) (p : PId) (e ctx a : Nat) : List (Nat × Op × Option (Nat × Nat × Nat)) :=
  let words (copy : Bool) : List Nat :=
    if ofBytes (s.imageBytes a (engineOff copy 0) 8) = 0 then []
    else (List.range (engineCap copy)).map fun k => ofBytes (s.imageBytes a (engineOff copy k) 8)
  sortBy (fun x y => decide (x.1 ≤ y.1)) ((getList (getOp p e ctx) (words false)).1 ++ (getList (getOp p e ctx) (words true)).1)

/-- Place a thread of the image: in its slot when that is free, or a stopped entry's thread can be scanned out of it, else as one
scanned out. -/
def State.loadThread (s : State) (p : PId) (e a : Nat) (ops : List Nat) (k : Nat) : State :=
  let base := s.nextId + 1
  let th := s.threadOf (s.cycles p) base e ops (s.imageBytes a (0x200000 + 0x1000 * k) 0x1000)
  let s : State := { s with nextId := s.nextId + 16 }
  let t : TId := ⟨p, k / 16, k % 16⟩
  let old := s.th t
  let s := if old.st != .free && ((s.proc p).entry old.entry).st == .stopped && old.movable then s.scanThread t else s
  s.setTh (if (s.th t).st = .free then t else ⟨p, t.lane, vslot e t.slot⟩) th

/-- Place an operation of the image among those of number `ids`: its threads by their new places and numbers, and the request for
its status, with the scoreboard that waits for it. -/
def State.loadOp (s : State) (p : PId) (e : Nat) (ids : List Nat) (x : Nat × Op × Option (Nat × Nat × Nat)) : State :=
  let find (t : TId) : TId := (((s.entryThreads p e).find? fun y => homeSlot y.1 == t).map (·.1)).getD t
  let o := x.2.1
  let t := find o.t
  let th := s.th t
  let gen := if th.entry = e ∧ th.st ≠ .free then th.gen else 0
  let hs := o.handlers.map find
  let id := (ids[x.1]?).getD 0
  let o := { o with id := id, t := t, gen := gen, handlers := hs, gens := hs.map fun h => (s.th h).gen
                    kids := o.kids.filterMap fun k => ids[k]? }
  let s : State := { s with ops := s.ops ++ [o] }
  match x.2.2 with
  | some (dst, k, sb) =>
    let (rid, s) := s.fresh
    let fid := if k = 0 then th.fid else ((th.frames[k - 1]?).map (·.fid)).getD 0
    { s with reqs := s.reqs ++ [⟨rid, t, gen, o.ctx, fid, if sb = 0 then none else some (sb - 1), .engine id dst, [], none, none, none⟩] }
  | none => s

/-- Place a band of the image, its members found by the handles of the loaded threads. -/
def State.loadBand (s : State) (p : PId) (e a k : Nat) : State :=
  let l := s.imageBytes a (0x1000 + 512 * k) 512
  let b := bandOf l [] e
  let members := ((s.entryThreads p e).filter fun x => x.2.band == some ⟨k, b.epoch⟩).map fun x => (x.1.lane, x.1.slot)
  (s.claimBand p e k).modProc p fun r =>
    let b : Band := { b with members := members }
    let r : Proc := { r with epochs := r.epochs.put k (max (r.epochs.get 0 k) b.epoch) }
    if (r.bands.find k).isNone ∧ !r.closing.any (·.num == k) then { r with bands := r.bands.put k b }
    else { r with sbands := r.sbands.put (e, k) b }

/-- Place a tile of the image. -/
def State.loadTile (s : State) (p : PId) (e a k : Nat) : State :=
  let w : Word := BitVec.ofNat 64 (ofBytes (s.imageBytes a (0x20000 + 8 * k) 8))
  let num := bitsOf w 49 44
  let epoch := (((s.proc p).bandsOf e).find? (·.1 == num)).map (·.2.epoch)
  let t := Tile.parse w (epoch.getD 0)
  let b := s.imageBytes a (0x80000 + t.base) (512 * t.size)
  let s := (s.claimTile p e k).claimRun p e t.size (List.range 64)
  s.modProc p fun r =>
    if (r.tile k).st = .empty ∧ (r.findRun t.size).isSome then r.unscanTile k t b
    else { r with stiles := r.stiles.put (e, k) (t, b) }

/-- Place every unit of the image under entry `e`. DESIGN CHOICE (log 24): an image holds no status words of operations that had
completed before the save (R357), and CSTAT of their numbers gives 0x4000_0000_FFFF_FFFF after the load. -/
def State.loadUnits (s : State) (p : PId) (e ctx a : Nat) : State :=
  let ops := s.imageOps p e ctx a
  let ids := (List.range ops.length).map (s.nextId + 1 + ·)
  let s : State := { s with nextId := s.nextId + ops.length }
  let s := (s.imageMask a 0x220 64).foldl (fun s k => s.loadThread p e a ids k) s
  let s := ops.foldl (fun s x => s.loadOp p e ids x) s
  let s := (s.imageMask a 0x208 8).foldl (fun s k => s.loadBand p e a k) s
  let s := (s.imageMask a 0x210 8).foldl (fun s k => s.loadTile p e a k) s
  let s := if ofBytes (s.imageBytes a 0x218 1) = 1 then
      let accs : Tab Nat AccTile := (List.range 8).map fun k =>
        (k, accOf (s.imageBytes a (0x100000 + 0x8000 * k) 0x8000) (wordAt (s.imageBytes a (0x140000 + 8 * k) 8) 0))
      let q := seqOfImage (s.imageBytes a 0x40000 0x7000) accs
      s.modProc p fun r => { r with seq := q }
    else s
  let s := s.mirrorOut p e
  match (s.site p.site).ctxIdx ctx with
  | none => s
  | some x => s.modProc p fun r => { r with
      tls := (List.range 16).foldl (fun (t : Tab (Nat × Nat) Timeline) k =>
        let issued := ofBytes (s.imageBytes a (0x260 + 16 * k) 8)
        let dn := ofBytes (s.imageBytes a (0x268 + 16 * k) 8)
        -- numbers above DONE that no loaded operation bears had completed
        let pending := (ops.filter fun o => o.2.1.tl == some k).map (·.2.1.num)
        let above := ((List.range (min (issued - dn) 4096)).map (dn + 1 + ·)).filter fun n => !pending.contains n
        t.put (x, k) ⟨issued, dn, above, []⟩) r.tls }

/-- CTXLOAD_DONE: the copy is in place and the entry STOPPED, or it failed and its units are freed. -/
def execCtxloadDone (p : PId) (e : Nat) (s : State) : Out :=
  let r := s.proc p
  match r.move with
  | none => .next s
  | some m =>
    if !m.load ∨ m.entry ≠ e then .next s
    else
      match s.imageReach p.site m .read with
      | (.waits, s) => .next s
      | (v, s) =>
        let s := (s.imageDone p.site m).modProc p fun r => { r with move := none }
        if m.err ∨ v = .fails then
          -- what the load reserved is free again, timelines and all
          let s := (s.freeUnits p e).setEntry p e Entry.empty
          let s := match (s.site p.site).ctxIdx m.ctx with
            | some x => s.modProc p fun r => { r with tls := r.tls.filter (·.1.1 != x) }
            | none => s
          .next (s.ctxDone p e m.ctx true true)
        else .next (((s.moveEntry p e .stopped).ctxDone p e m.ctx true false).contend p)

end Sys2Proof.Machine
end

