-- ==== Sys2Proof/Machine/Device.lean ====
section
/-! DEFINITION. The device around the processors (R23, R376 to R390): power-on, boot, the alarm, power, clocks, sensors,
rings and wear. What comes from outside, a reading, a verdict on an image, a sensor that fires, is an operand of the
event. -/
namespace Sys2Proof.Machine

/-! Power-on reset and power off (R23, R188, R380). -/

/-- What of a site outlives a reset: wear, the absence of keys, and a LATCHED alarm. -/
def Site.again (q : Site) : Site :=
  { Site.reset with
    wear := q.wear, eol := q.eol, keys := q.keys
    alarm := if q.alarm = 4 then 4 else 0
    alarmSrc := if q.alarm = 4 then q.alarmSrc else 0 }

/-- POWER_ON_RESET: the machine of `State.reset`, its clock and identifiers going on; and the input power is there. -/
def execPowerOnReset (s : State) : Out :=
  .next { State.reset with
    wafer := s.wafer, tick := s.tick, clkBase := s.tick, nextId := s.nextId, freeCtr := s.freeCtr, agenda := s.agenda
    sites := s.sites.map fun q => (q.1, q.2.again) }

/-- POWER_OFF: every alarm state is off; nothing happens until power comes back. -/
def execPowerOff (s : State) : Out :=
  .next { s with
    power := false, released := false, flights := [], stalled := [], stream := none
    sites := s.sites.map fun q => (q.1, { q.2 with alarm := 0, alarmSrc := 0 }) }

/-! Boot (R376, R377). -/

/-- The site of the wafer master, within its wafer: site (3, 3), unless OTP names another compute reticle (R377). -/
def masterSite : Nat := match Config.otpMaster with | some k => if isCompute (k % 64) then k % 64 else 27 | none => 27

/-- Train every link of a site. -/
def State.trainAll (s : State) (gs : Nat) : State :=
  (List.range 9).foldl (fun s port => (List.range 4).foldl (fun s k => s.trainLink gs port k) s) s

/-- Pool reticles that a framer boots as their reporting framer (R18). -/
def State.poolsOf (s : State) (gs : Nat) : List Nat :=
  s.ownSites.filter fun g => !isCompute g && reporting g == gs && siteWaf g == siteWaf gs

/-- A site fails to boot, and with a framer the pool reticles it would boot: each failure is raised as HEALTH cause 4 (R377). -/
def State.bootFail (s : State) (gs : Nat) : State :=
  let s := (s.modSite gs fun q => { q with boot := 2 }).health gs 4 0
  if isCompute gs then (s.poolsOf gs).foldl (fun s g => s.health g 4 0) s else s

/-- The check of R376 on an image of a kind, at a site: every field in its range, HASH and SIG, and the OTP minimum version. -/
def imageGood (gs kind : Nat) (i : Image) : Bool :=
  let h := i.header
  let f (o n : Nat) : Nat := ofBytes ((h.drop o).take n)
  let zero (o n : Nat) : Bool := ((h.drop o).take n).all (· == 0)
  h.length == 1408 && f 0 4 == 0x4B56494D && f 4 1 == kind && zero 5 3 &&
  decide (1 ≤ f 12 4) && decide (f 12 4 ≤ 2 ^ 24) && decide (1 ≤ f 80 2) && decide (f 80 2 ≤ 1280) && zero 82 46 &&
  zero (128 + f 80 2) (1280 - f 80 2) && i.genuine && decide ((Config.otpMin gs kind).toNat ≤ f 8 4)

/-- A refused image is logged. -/
def State.refuseImage (s : State) (gs : Nat) : State := s.logErr gs 9 1 0 127 0 0 (gs % 64) 0 1 0

/-- The alarm of a site that starts (R380): ARMED. DESIGN CHOICE (log 26): where the alarm of its wafer has struck, which is at every
site, a site that starts later joins it: LATCHED where a site is, else ALARM. -/
def State.armed (s : State) (gs : Nat) : Nat :=
  let on (k : Nat) : Bool := s.ownSites.any fun g => (s.site g).alarm == k
  if (s.site gs).alarm = 4 || on 4 then 4 else if on 2 || on 3 then 2 else 1

/-- The framer boots one of its pool reticles: BOOT reads 1 from the first BOOT_START that names it, and the next verifies its
identity record (R376, R377). -/
def State.bootPool (s : State) (gs pool : Nat) (record : Image) : State :=
  if isCompute pool ∨ reporting pool ≠ gs then s
  else match (s.site pool).boot with
    | 0 => s.modSite pool fun q => { q with boot := 1 }
    | 1 =>
      if imageGood pool 2 record then (s.modSite pool fun q => { q with boot := 3, alarm := s.armed pool }).trainAll pool
      else (s.refuseImage pool).bootFail pool
    | _ => s

/-- The firmware context, and the framer's thread of it (R321, R377; log 5). -/
def State.startFirmware (s : State) (gs : Nat) : State :=
  let s := s.modSite gs fun q => { q with
    ctxs := q.ctxs.put 0 ⟨1, 0, Config.firmware gs 1 &&& 0x7FFFFFFFFFFFE000, Config.firmware gs 2 &&& ~~~7, 0⟩ }
  s.create ⟨⟨gs, 96⟩, 0, 0⟩ 0 0 (Config.firmware gs 0 &&& ~~~7) id

/-- The framer loads a schedule firmware slot of a port processor with an image that passes the check; a refused one is logged, and
the slot keeps what it holds (R299, R376). -/
def State.loadSlot (s : State) (gs : Nat) (x : Nat × Nat × Image) : State :=
  if !(decide (x.1 < 5) && decide (x.2.1 < 16)) then s
  else if imageGood gs 1 x.2.2 then
    s.modProc ⟨gs, 97 + x.1⟩ fun r => { r with fw := if r.fw.contains x.2.1 then r.fw else x.2.1 :: r.fw }
  else s.refuseImage gs

/-- BOOT_START: the site's identity record, the framer firmware, the schedule images and the records of the pool reticles, each
checked as R376 has it. At a site that is ready the framer loads schedule images at run time and goes on with its pool reticles. -/
def execBootStart (site : Nat) (record : Image) (fw : Image) (sched : List (Nat × Nat × Image)) (pools : List (Nat × Image))
    (s : State) : Out :=
  let q := s.site site
  if s.power ∧ isCompute site ∧ q.boot = 3 then
    .next (pools.foldl (fun s x => s.bootPool site x.1 x.2) (sched.foldl (fun s x => s.loadSlot site x) s)) else
  if !s.power ∨ !isCompute site ∨ q.boot ≠ 0 then .next s else
  -- the ROM arms the alarm; after a key erase a site boots no further
  let s := s.modSite site fun q => { q with boot := 1, alarm := s.armed site }
  if !imageGood site 2 record ∨ !q.keys then .next ((s.refuseImage site).bootFail site)
  else if !imageGood site 0 fw then .next ((s.refuseImage site).bootFail site)
  else
    let s := s.modSite site fun q => { q with boot := 3, master := site % 64 == masterSite }
    let s := sched.foldl (fun s x => s.loadSlot site x) s
    let s := (s.startFirmware site).trainAll site
    let s := pools.foldl (fun s x => s.bootPool site x.1 x.2) s
    .next (if site % 64 = masterSite ∧ s.timeBase = 0 then { s with timeBase := max 1 s.tick } else s)

/-- A site that counts as done for the release: ready, or failed. -/
def State.accounted (s : State) (gs : Nat) : Bool := (s.site gs).boot == 3 || s.siteFailed gs

/-- WAFER_RELEASE. -/
def execWaferRelease (s : State) : Out :=
  if (s.ownSites.any fun g => (s.site g).master) && s.ownSites.all s.accounted then .next { s with released := true } else .next s

/-! The alarm (R380). -/

/-- ALARM_SENSOR: a sensor fires at any site, whatever the site's own state: the source bit, and every ARMED site goes to ALARM,
logged and raised. -/
def execAlarmSensor (site sensor : Nat) (s : State) : Out :=
  if 2 < sensor then .next s else
  let s := s.modSite site fun q => if q.alarm = 4 then q else { q with alarmSrc := q.alarmSrc ||| (1#3 <<< sensor) }
  .next ((s.ownSites.filter fun g => (s.site g).alarm == 1).foldl (fun s g =>
    ((s.modSite g fun q => { q with alarm := 2 }).logErr g 12 2 0 127 0 0 (site % 64) 0 1 sensor).health g 1 sensor) s)

/-- Kill every live context of a site. -/
def State.killAll (s : State) (gs : Nat) : State :=
  ((List.range 64).filter fun x => ((s.site gs).ctx x).st == 1).foldl (fun s x => s.killContext gs x) s

/-- ALARM_CONTEXTS_KILLED: every live context of the wafer is killed; OTP decides what follows. -/
def execAlarmContextsKilled (s : State) : Out :=
  let hit := s.ownSites.filter fun g => (s.site g).alarm == 2
  if hit.isEmpty then .next s else
  let s := s.reticles.foldl (fun s g => s.killAll g) s
  .next (hit.foldl (fun s g => s.modSite g fun q => { q with alarm := if Config.otpErase then 3 else 4 }) s)

/-- KEY_ERASE_DONE: the key material of the device, at every site of the wafer, is overwritten. -/
def execKeyEraseDone (s : State) : Out :=
  .next (if s.ownSites.any fun g => (s.site g).alarm == 3 then
    s.ownSites.foldl (fun s g => s.modSite g fun q => { q with alarm := if q.alarm = 3 then 4 else q.alarm, keys := false }) s
  else s)

/-! Power and clocks (R381, R382). -/

def execTelemetryUpdate (site vin iout vcore pwr : Nat) (s : State) : Out :=
  .next (s.modSite site fun q => ({ q with
    vin := vin % 2 ^ 16, iout := iout % 2 ^ 16, vcore := vcore % 2 ^ 12, pwr := pwr % 2 ^ 19 } : Site).watchCurrent s.tick)

/-- A temperature in 1/16 °C. -/
def Therm.hot (t : Therm) (deg : Int) : Bool := t.valid && decide (16 * deg ≤ t.temp.toInt)

/-- CLOCK_STEP_DOWN: for current, which LIM remembers and the error log keeps as a power limit (R387), or for heat. -/
def execClockStepDown (site : Nat) (s : State) : Out :=
  let q := s.site site
  let current := decide (q.ilim < q.iout)
  if current || q.therm.any fun t => t.2.hot 100 then
    let s := s.modSite site fun q => { q with mhz := max 800 (q.mhz - 100), lim := q.lim || current }
    .next (if current then s.logErr site 11 1 0 127 0 0 (site % 64) 0 1 q.iout else s)
  else .next s

/-- CLOCK_STEP_UP: the current has stayed below 95 % of its limit for 100 µs, and no sensor is hot. -/
def execClockStepUp (site : Nat) (s : State) : Out :=
  let q := s.site site
  let stayed : Bool := match q.below with | some t => decide (100000 ≤ nanoSpan t s.tick) | none => false
  if stayed && !(q.therm.any fun t => t.2.hot 100) then
    .next (s.modSite site fun q => { q with mhz := min 1600 (q.mhz + 100) })
  else .next s

/-! Heat, rings and wear (R383 to R385). -/

/-- The contexts that have threads on a site. -/
def State.ctxsWithThreads (s : State) (gs : Nat) : List Nat :=
  (List.range 64).filter fun x => ((s.site gs).ctx x).st == 1 &&
    s.threads.any fun t => t.1.p.site == gs && t.2.st != .free && t.2.ctx == ((s.site gs).ctx x).id

/-- THERMAL_UPDATE. -/
def execThermalUpdate (site sensor : Nat) (temp : BitVec 16) (s : State) : Out :=
  if (if isCompute site then 16 else 4) ≤ sensor then .next s else
  let old := (s.site site).therm.get ⟨false, 0, 0⟩ sensor
  let peak := if !old.valid ∨ old.peak.toInt < temp.toInt then temp else old.peak
  let s := s.modSite site fun q => { q with therm := q.therm.put sensor ⟨true, peak, temp⟩ }
  let s := if 1600 ≤ temp.toInt then
      (s.modSite site fun q => { q with mhz := max 800 (q.mhz - 100) }).logErr site 11 1 0 127 0 0 (site % 64)
        (BitVec.ofNat 64 sensor) 1 temp.toNat
    else s
  .next (if 1760 ≤ temp.toInt then
    let s := (s.ctxsWithThreads site).foldl (fun s x => s.killContext site x) s
    (s.modSite site fun q => { q with off := true }).health site 2 sensor
  else s)

/-- RING_LOCK_LOSS: the ring's lane of the sill link loses lock; ring `k` serves lane `k mod 8` (log 11). -/
def execRingLockLoss (site ring : Nat) (s : State) : Out :=
  if 16 ≤ ring then .next s else
  let r := (s.site site).rings.get ⟨false, false, 0, 0, 0⟩ ring
  .next (((s.modSite site fun q => { q with rings := q.rings.put ring { r with lock := false } }).measure site ring).laneFail site
    (sillPort site) 0 (ring % 8))

def execRingLockRegain (site ring : Nat) (s : State) : Out :=
  if 16 ≤ ring then .next s else
  let r := (s.site site).rings.get ⟨false, false, 0, 0, 0⟩ ring
  .next ((s.modSite site fun q => { q with rings := q.rings.put ring { r with lock := true } }).measure site ring)

/-- WEAR_SAMPLE: the monitor's word, and the end-of-life word that the wafer master's firmware writes after each sample: the months it
predicts and the monitor that limits them (R385). -/
def execWearSample (site monitor : Nat) (value : BitVec 32) (forecast : Nat × Nat) (s : State) : Out :=
  if 3 < monitor then .next s else
  let q := s.site site
  let first : BitVec 32 := match q.wear.find monitor with | some w => w.extractLsb' 0 32 | none => value
  .next ((s.setSite site { q with wear := q.wear.put monitor (value ++ first) }).writeEol site
    (BitVec.ofNat 64 (forecast.2 % 4 * 256 + min forecast.1 255)))

end Sys2Proof.Machine
end

