-- ==== Sys2Proof/Machine/Integer.lean ====
section
/-! DEFINITION. The integer and address instructions (R128 to R145). -/
namespace Sys2Proof.Machine

/-! Widths and results (R128). -/

/-- An operand as a two's-complement number of the width. -/
def sv (m : IntMod) (a : Word) : Int := if m.w then (a.setWidth 32).toInt else a.toInt
/-- An operand as an unsigned number of the width. -/
def uv (m : IntMod) (a : Word) : Nat := if m.w then (a.setWidth 32).toNat else a.toNat
/-- An operand as U reads it. -/
def xv (m : IntMod) (a : Word) : Int := if m.u then uv m a else sv m a
/-- `put` of the chapter: the low bits of the width, sign-extended. -/
def put (m : IntMod) (v : Int) : Word := if m.w then (BitVec.ofInt 32 v).signExtend 64 else BitVec.ofInt 64 v

/-- SAT of R134. -/
def satV (m : IntMod) (v : Int) : Int :=
  let h : Int := 2 ^ ((if m.w then 32 else 64) - 1)
  if m.sat then (if v < -h then -h else if h - 1 < v then h - 1 else v) else v

/-- The width in bits. -/
def wid (m : IntMod) : Nat := if m.w then 32 else 64

/-- IMULH (R135): the high half of the exact product. -/
def mulhV (m : IntMod) (a b : Word) : Int := (xv m a * xv m b).fdiv (2 ^ wid m)

/-- IDIV (R136). -/
def divV (m : IntMod) (a b : Word) : Int := if uv m b = 0 then -1 else (xv m a).tdiv (xv m b)

/-- IREM (R136). -/
def remV (m : IntMod) (a b : Word) : Int := if uv m b = 0 then xv m a else (xv m a).tmod (xv m b)

def minV (m : IntMod) (a b : Word) : Int := if xv m a ≤ xv m b then xv m a else xv m b
def maxV (m : IntMod) (a b : Word) : Int := if xv m b ≤ xv m a then xv m a else xv m b

/-- The shift count (R139). -/
def shiftN (m : IntMod) (b : Word) : Nat := if m.i then m.pos.toNat else b.toNat

def shlV (m : IntMod) (a b : Word) : Int := if wid m ≤ shiftN m b then 0 else uv m a * 2 ^ shiftN m b
def shrV (m : IntMod) (a b : Word) : Int := if wid m ≤ shiftN m b then 0 else (uv m a / 2 ^ shiftN m b : Nat)
def sarV (m : IntMod) (a b : Word) : Int := (sv m a).fdiv (2 ^ min (shiftN m b) (wid m))
def rolV (m : IntMod) (a b : Word) : Int :=
  let n := shiftN m b % wid m
  (uv m a * 2 ^ n + uv m a / 2 ^ (wid m - n) : Nat)

/-- Zero bits above the highest set bit of the low `n` bits (R140). -/
def clzN (x : Nat) : Nat → Nat
  | 0 => 0
  | n + 1 => if x.testBit n then 0 else clzN x n + 1

/-- Zero bits below the lowest set bit. -/
def ctzN (x w : Nat) : Nat → Nat
  | 0 => 0
  | n + 1 => if x.testBit (w - (n + 1)) then 0 else ctzN x w n + 1

def popN (x n : Nat) : Nat := ((List.range n).filter x.testBit).length
def brevN (x n : Nat) : Nat := (List.range n).foldl (fun a i => a + boolN (x.testBit i) * 2 ^ (n - 1 - i)) 0

/-- BFX (R141). -/
def bfxV (m : IntMod) (a : Word) : Int :=
  let len := m.lenm1.toNat + 1
  let f := uv m a / 2 ^ m.pos.toNat % 2 ^ len
  if m.u then signedOf f len else f

/-- BFI (R141). -/
def bfiV (m : IntMod) (a b : Word) : Int :=
  let len := m.lenm1.toNat + 1
  let lo := uv m a % 2 ^ m.pos.toNat
  let hi := uv m a / 2 ^ (m.pos.toNat + len) * 2 ^ (m.pos.toNat + len)
  (hi + b.toNat % 2 ^ len * 2 ^ m.pos.toNat + lo : Nat)

/-- LEA, basic form (R144). -/
def leaV (m : IntMod) (a b : Word) : Word :=
  let i : Word := if !m.w then b else if !m.u then (b.setWidth 32).signExtend 64 else (b.setWidth 32).setWidth 64
  a + (i <<< m.cond.toNat)

/-- A two-operand result written by `put`. -/
def State.intG (s : State) (b : BForm) (m : IntMod) (f : IntMod → Word → Word → Int) : State :=
  s.pureG b fun e => put m (f m (e.g b.a) (e.g b.b))

/-- A result from SRCA alone. -/
def State.int1G (s : State) (b : BForm) (m : IntMod) (f : IntMod → Word → Int) : State :=
  s.pureG b fun e => put m (f m (e.g b.a))

/-- A long-immediate result (R132). -/
def State.immG (s : State) (l : LForm) (f : Word → Word → Word) : State :=
  s.pureG (immB l) fun e => f (e.g l.a) (simm l)

/-! Arithmetic (R134 to R137). -/

def execIadd (b : BForm) (m : IntMod) (s : State) : Out := .next (s.intG b m fun m x y => satV m (sv m x + sv m y))
def execIaddImm (l : LForm) (s : State) : Out := .next (s.immG l fun a i => a + i)
def execIsub (b : BForm) (m : IntMod) (s : State) : Out := .next (s.intG b m fun m x y => satV m (sv m x - sv m y))
def execIneg (b : BForm) (m : IntMod) (s : State) : Out := .next (s.int1G b m fun m x => satV m (-sv m x))
def execIabs (b : BForm) (m : IntMod) (s : State) : Out := .next (s.int1G b m fun m x => satV m (sv m x).natAbs)
def execImul (b : BForm) (m : IntMod) (s : State) : Out := .next (s.intG b m fun m x y => sv m x * sv m y)
def execImulImm (l : LForm) (s : State) : Out := .next (s.immG l fun a i => a * i)
def execImulh (b : BForm) (m : IntMod) (s : State) : Out := .next (s.intG b m mulhV)
def execImad (b : BForm) (m : IntMod) (s : State) : Out :=
  .next (s.pureG b fun e => put m (sv m (e.g b.a) * sv m (e.g b.b) + sv m (e.g b.c)))
def execIdiv (b : BForm) (m : IntMod) (s : State) : Out := .next (s.intG b m divV)
def execIrem (b : BForm) (m : IntMod) (s : State) : Out := .next (s.intG b m remV)
def execImin (b : BForm) (m : IntMod) (s : State) : Out := .next (s.intG b m minV)
def execIminImm (l : LForm) (s : State) : Out := .next (s.immG l fun a i => if a.toInt ≤ i.toInt then a else i)
def execImax (b : BForm) (m : IntMod) (s : State) : Out := .next (s.intG b m maxV)
def execImaxImm (l : LForm) (s : State) : Out := .next (s.immG l fun a i => if i.toInt ≤ a.toInt then a else i)

/-! Logic (R138). -/

def execAnd (b : BForm) (m : IntMod) (s : State) : Out := .next (s.intG b m fun _ x y => (x &&& y).toInt)
def execAndImm (l : LForm) (s : State) : Out := .next (s.immG l fun a i => a &&& i)
def execOr (b : BForm) (m : IntMod) (s : State) : Out := .next (s.intG b m fun _ x y => (x ||| y).toInt)
def execOrImm (l : LForm) (s : State) : Out := .next (s.immG l fun a i => a ||| i)
def execXor (b : BForm) (m : IntMod) (s : State) : Out := .next (s.intG b m fun _ x y => (x ^^^ y).toInt)
def execXorImm (l : LForm) (s : State) : Out := .next (s.immG l fun a i => a ^^^ i)
def execAndn (b : BForm) (m : IntMod) (s : State) : Out := .next (s.intG b m fun _ x y => (x &&& ~~~y).toInt)

/-! Shifts, counts and fields (R139 to R141). -/

def execShl (b : BForm) (m : IntMod) (s : State) : Out := .next (s.intG b m shlV)
def execShr (b : BForm) (m : IntMod) (s : State) : Out := .next (s.intG b m shrV)
def execSar (b : BForm) (m : IntMod) (s : State) : Out := .next (s.intG b m sarV)
def execRol (b : BForm) (m : IntMod) (s : State) : Out := .next (s.intG b m rolV)
def execClz (b : BForm) (m : IntMod) (s : State) : Out := .next (s.int1G b m fun m x => clzN (uv m x) (wid m))
def execCtz (b : BForm) (m : IntMod) (s : State) : Out := .next (s.int1G b m fun m x => ctzN (uv m x) (wid m) (wid m))
def execPopc (b : BForm) (m : IntMod) (s : State) : Out := .next (s.int1G b m fun m x => popN (uv m x) (wid m))
def execBrev (b : BForm) (m : IntMod) (s : State) : Out := .next (s.int1G b m fun m x => brevN (uv m x) (wid m))
def execBfx (b : BForm) (m : IntMod) (s : State) : Out := .next (s.int1G b m bfxV)
def execBfi (b : BForm) (m : IntMod) (s : State) : Out := .next (s.intG b m bfiV)

/-! Compare, select, move, address (R142 to R144). -/

def execIcmp (b : BForm) (m : IntMod) (s : State) : Out :=
  .next (s.pureP b fun e => intRel m.cond.toNat (xv m (e.g b.a)) (xv m (e.g b.b)))
def execIcmpImm (l : LForm) (s : State) : Out :=
  .next (s.pureP (immB l) fun e => longRel (l.imm.extractLsb' 28 4).toNat (e.g l.a) ((l.imm.extractLsb' 0 28).signExtend 64))
def execSel (b : BForm) (s : State) : Out := .next (s.pureG b fun e => if e.pr b.c then e.g b.a else e.g b.b)
def execMov (b : BForm) (s : State) : Out := .next (s.pureG b fun e => e.g b.a)
def execMovi (l : LForm) (s : State) : Out := .next (s.pureG (immB l) fun _ => simm l)
def execMovh (l : LForm) (s : State) : Out := .next (s.pureG (immB l) fun e => l.imm ++ (e.g l.a).extractLsb' 0 32)
def execLea (b : BForm) (m : IntMod) (s : State) : Out := .next (s.pureG b fun e => leaV m (e.g b.a) (e.g b.b))
def execLeaImm (l : LForm) (s : State) : Out := .next (s.pureG (immB l) fun e => e.f.addr + 8 * simm l + e.g l.a)

/-! Predicate logic (R145). -/

def execPand (b : BForm) (m : IntMod) (s : State) : Out :=
  .next (s.pureP b fun e => (e.pr b.a != m.w) && (e.pr b.b != m.u))
def execPor (b : BForm) (m : IntMod) (s : State) : Out :=
  .next (s.pureP b fun e => (e.pr b.a != m.w) || (e.pr b.b != m.u))
def execPxor (b : BForm) (m : IntMod) (s : State) : Out :=
  .next (s.pureP b fun e => (e.pr b.a != m.w) != (e.pr b.b != m.u))
def execPnot (b : BForm) (s : State) : Out := .next (s.pureP b fun e => !e.pr b.a)

end Sys2Proof.Machine
end

