-- ==== Sys2Proof/Machine/Fetch.lean ====
section
/-! DEFINITION. Fetching an instruction word (R59, R192, R197, R210, R353): clause words and stream words come the same
way, through the instruction cache of the processor. -/
namespace Sys2Proof.Machine

/-- What a fetch gives: a word, a fault by its cause, nothing because the context died (R394), or nothing yet. -/
inductive FRes where
  | ok (w : Word)
  | trap (cause : Nat)
  | dead
  | wait
  deriving DecidableEq, Repr

/-- The word at an offset of a line. -/
def lineWord (data : List Byte) (pa : Nat) : Word := BitVec.ofNat 64 (ofBytes ((data.drop (pa % 128)).take 8))

/-- Lines of an instruction cache: 32 KiB (R9, R20). -/
def iclLines : Nat := 256

/-- The packets that carry fetches of a word for a processor and a context. -/
def PktKind.fetches (va : Word) : PktKind → Bool
  | .fetch v _ => v == va
  | _ => false

/-- A fetch from control space comes after the processor's earlier stores to that site's control space: it is a load-class access
of its threads (R25, R197). -/
def State.fetchWaits (s : State) (p : PId) (pa : Nat) : Bool :=
  let meets (x : Store) : Bool := x.targets.any fun a => isControl a && paSite a == paSite pa
  isControl pa && ((s.stores.any fun x => x.t.p == p && !x.done && meets x) ||
    (s.proc p).queues.any fun q => q.2.any meets)

/-- The bytes of a fetch that has come to them: the window check (R197), control space, or memory, whose poison faults (R210). A
line with no poison enters the instruction cache. -/
def State.fetchAt (s : State) (p : PId) (ctx pa : Nat) (nc : Bool) : FRes × State :=
  if !s.windowFor p ctx pa 8 .fetch then (.trap 11, s)
  else if isControl pa then (.ok (BitVec.ofNat 64 (ofBytes (s.ctlBytes (paSite pa) (paLocal pa) 8))), s)
  else match (s.proc p).icl.find? (·.line == lineOf pa) with
    | some c => (.ok (lineWord c.data pa), s)
    | none =>
      if s.poisoned pa 8 then (.trap 12, s)
      else
        let base := lineOf pa * 128
        let data := Memory.read s.mem base 128
        let s := if nc || s.poisoned base 128 then s
          else s.modProc p fun r => { r with icl := (putCopy r.icl ⟨lineOf pa, data, s.tick, 0, []⟩).take iclLines }
        (.ok (lineWord data pa), s)

/-- A fetch that needs no answer from another site: its verdict stands in the grant cache and its line in the instruction cache. -/
def State.fetchNear (s : State) (p : PId) (ctx pa : Nat) : Option Copy :=
  if paSite pa != p.site && s.granted p.site ctx pa 8 .fetch && !isControl pa then (s.proc p).icl.find? (·.line == lineOf pa)
  else none

/-- Fetch the word at an 8-byte-aligned virtual address: translation, the region (R24), the way to the bytes, which fails where the
fabric discards the request (R290), then the bytes there. -/
def State.fetchWord (s : State) (p : PId) (ctx : Nat) (va : Word) : FRes × State :=
  match s.translate p ctx va .fetch with
  | (.dead, s) => (.dead, s)
  | (.wait, s) => (.wait, s)
  | (.trap c, s) => (.trap c, s)
  | (.ok pa nc, s) =>
    if (paRegion pa 8).isNone then (.trap 8, s)
    else if s.fetchWaits p pa then (.wait, s)
    else match s.fetchNear p ctx pa with
      | some c => (.ok (lineWord c.data pa), s)
      | none =>
        match s.askWay p ctx 0 (.fetch va pa) pa with
        | (.coming, s) | (.unasked, s) => (.wait, s)
        | (.lost, s) => (.trap 11, s)
        | (.here, s) => s.fetchAt p ctx pa nc

end Sys2Proof.Machine
end

