-- ==== Sys2Proof/Machine/Issue.lean ====
section
/-! DEFINITION. Fetching and decoding a whole clause (R29, R30, R59), choosing an issue group (R31, R33, R91 to R97) with
its before-issue holds (R37, R127, R189, R205, R232, R246), issuing it, and the commit of its lanes (R35, R92). -/
namespace Sys2Proof.Machine

/-! The whole clause (R29, R30, R59). -/

def hdrCause : HdrErr → Nat
  | .illegalHeader => 1
  | .reservedField => 3

/-- The codes a kind of processor lacks (R54 to R57). -/
def lacks (k : PKind) (pipe : Pipe) : List (Nat × Nat) :=
  match k with
  | .core => lackCore pipe
  | .framer => lackFramer pipe
  | .port => lackPort pipe
  | .absent => []

/-- The file of the value an instruction leaves in b0, if it leaves one (R44): the M pipe's results are deferred. -/
def latchFile (i : Instr) : Option RF :=
  match i.code, i.shape with
  | some (.m, _), _ => none
  | some _, some x => match x.dst with | .g => some .g | .p => some .p | .w => some .w | .m => some .m | _ => none
  | _, _ => none

/-- A source operand names no latch, or one that holds a value of its file; `prod` lists what b0, b1, … hold. -/
def srcLatchOk (prod : List (Option RF)) (file : RF) : Src → Bool
  | .reg _ => true
  | .latch k => (prod[k.toNat]?).getD none == some file

/-- The latch part of condition 9 of R59. -/
def latchesOk (prod : List (Option RF)) (i : Instr) : Bool :=
  match i.shape, i.fields with
  | some x, some f => srcLatchOk prod x.a f.a && srcLatchOk prod x.b f.b && srcLatchOk prod x.c f.c
  | _, _ => true

/-- Field values that one kind of processor accepts and another does not (R347): TLBI of every context. -/
def kindReserved (k : PKind) : Instr → Bool
  | .tlbi _ kind _ => kind == 2 && k != .framer
  | _ => false

/-- A special register that GETS or SETS may not name (R43, R334): reserved, absent on the kind of processor, or RO for SETS. -/
def sysBad (k : PKind) : Instr → Bool
  | .gets _ n =>
    let n := n.toNat
    !(decide (n ≤ 25) || (decide (32 ≤ n) && decide (n ≤ 44)) || (decide (48 ≤ n) && decide (n ≤ 55)) || (n == 56 && k == .framer))
  | .sets _ n =>
    let n := n.toNat
    !((decide (19 ≤ n) && decide (n ≤ 24)) || (decide (32 ≤ n) && decide (n ≤ 35)) || (n == 36 && k == .framer) ||
      [37, 40, 41, 44].contains n || (decide (48 ≤ n) && decide (n ≤ 55)))
  | _ => false

/-- Conditions 5 to 9 of R59 for one word: the instruction, or the cause. -/
def checkWord (k : PKind) (pipe : Pipe) (last : Bool) (prod : List (Option RF)) (w : Word) : Except Nat Instr :=
  let op := (w.extractLsb' 56 8).toNat
  let ends := inRanges (endCodes pipe) op && !last
  if (opForm pipe op).isNone then .error 2
  else if inRanges (lacks k pipe) op then .error 6
  else match decodeWord pipe w with
    | .error .illegalOpcode => .error 2
    | .error .reservedField => .error 3
    | .error .illegalOperand => if ends then .error 4 else .error 5
    | .ok i =>
      if kindReserved k i then .error 3 else if ends then .error 4 else if latchesOk prod i && !sysBad k i then .ok i else .error 5

/-- The words of a clause in index order: the instructions, or cause, index and word of the first fault. -/
def checkWords (k : PKind) (pipe : Pipe) : Nat → List (Option RF) → List Word → Except (Nat × Nat × Word) (List Instr)
  | _, _, [] => .ok []
  | idx, prod, w :: t =>
    match checkWord k pipe t.isEmpty prod w with
    | .error c => .error (c, idx, w)
    | .ok i => match checkWords k pipe (idx + 1) (latchFile i :: prod) t with
      | .ok l => .ok (i :: l)
      | .error x => .error x

/-- A clause as fetched and decoded; a fault tells whether it was met in the fetch (R337); the fetch of a word may be under way. -/
inductive CRes where
  | ok (h : Header) (words : List Word) (instrs : List Instr)
  | trap (fetch : Bool) (cause idx : Nat) (info : Word)
  | dead
  | wait

/-- Fetch `n` instruction words from index `k` on: the words, or where the fetch ends; a fault names the word's index, with its
address. -/
def State.fetchWords (s : State) (p : PId) (ctx : Nat) : Nat → Nat → Word → Except CRes (List Word) × State
  | 0, _, _ => (.ok [], s)
  | n + 1, k, a =>
    match s.fetchWord p ctx a with
    | (.trap c, s) => (.error (.trap true c k a), s)
    | (.dead, s) => (.error .dead, s)
    | (.wait, s) => (.error .wait, s)
    | (.ok w, s) =>
      match s.fetchWords p ctx n (k + 1) (a + 8) with
      | (.ok l, s) => (.ok (w :: l), s)
      | r => r

/-- Fetch and decode the clause at an address: the header and conditions 1 to 4, every word, then conditions 5 to 9. -/
def State.fetchClause (s : State) (p : PId) (ctx : Nat) (pc : Word) : CRes × State :=
  if pc.toNat % 8 ≠ 0 then (.trap false 1 0 pc, s) else
  match s.fetchWord p ctx pc with
  | (.trap c, s) => (.trap true c 0 pc, s)
  | (.dead, s) => (.dead, s)
  | (.wait, s) => (.wait, s)
  | (.ok hw, s) =>
    match decodeHeader hw with
    | .error e => (.trap false (hdrCause e) 0 hw, s)
    | .ok h =>
      if h.pipe = .w ∧ kindOf p = .framer then (.trap false 6 0 hw, s) else
      match s.fetchWords p ctx (h.cnt.toNat + 1) 0 (pc + 8) with
      | (.error r, s) => (r, s)
      | (.ok ws, s) =>
        match checkWords (kindOf p) h.pipe 0 [] ws with
        | .error (c, k, w) => (.trap false c k w, s)
        | .ok l => (.ok h ws l, s)

/-! Candidates (R31, R91). -/

/-- What the header at a thread's pc says: nothing while the context is dead or the header is on its way, no header where its fetch
or its checks fault. -/
def State.peek (s : State) (p : PId) (ctx : Nat) (pc : Word) : Option (Option Header) :=
  if pc.toNat % 8 ≠ 0 then some none else
  match (s.fetchWord p ctx pc).1 with
  | .trap _ => some none
  | .dead | .wait => none
  | .ok w => match decodeHeader w with
    | .error _ => some none
    | .ok h => if h.pipe = .w ∧ kindOf p = .framer then some none else some (some h)

/-- A READY thread that stands at a clause header with nothing before it: no clause in flight (R92), no hold, no
asynchronous trap to take (R338), no stop of its entry (R343), its site running (R383). -/
def State.atHeader (s : State) (t : TId) (th : Thread) : Bool :=
  th.st == .ready && th.hold == Hold.empty && !s.inFlight t && (th.pend.isEmpty || th.tst.getLsbD 0) &&
  ((s.proc t.p).entry th.entry).st != .stopping && !(s.site t.p.site).off

/-- The scoreboards a header waits for read zero (R31). -/
def Thread.waited (th : Thread) (h : Header) : Bool :=
  (List.range 8).all fun k => !h.wait.getLsbD k || th.sbOf k == 0

/-- A candidate: its slot, its thread and its clause's header, if there is one. -/
structure Cand where
  t : TId
  th : Thread
  h : Option Header

/-- Threads that stand at a header of a pipe with their scoreboards low; a header that faults belongs to no pipe and is taken
by any. -/
def State.standing (s : State) (p : PId) (pipe : Pipe) : List Cand :=
  (s.liveThreads p).filterMap fun e =>
    if !(decide (e.1.slot < 16) && s.atHeader e.1 e.2) then none else
    match s.peek p e.2.ctx e.2.pc with
    | none => none
    | some none => some ⟨e.1, e.2, none⟩
    | some (some h) => if h.pipe = pipe ∧ e.2.waited h then some ⟨e.1, e.2, some h⟩ else none

/-! Order (R33, R93, R96, R97). -/

/-- `a` is older than `b`: by age, slot and lane (R93). -/
def Cand.older (a b : Cand) : Bool :=
  decide (a.th.age < b.th.age ∨ (a.th.age = b.th.age ∧ (a.t.slot < b.t.slot ∨
    (a.t.slot = b.t.slot ∧ a.t.lane ≤ b.t.lane))))

/-- `a` is chosen before `b`: starved threads first, in the order in which they starved, then by age, slot and lane. -/
def Cand.before (a b : Cand) : Bool :=
  match a.th.starved, b.th.starved with
  | some x, some y => decide (x < y) || (x == y && a.older b)
  | some _, none => true
  | none, some _ => false
  | none, none => a.older b

/-- The rows the throttle lets issue M-pipe clauses, given candidates in age order. -/
def openRows (n : Nat) : List Cand → List Nat → List Nat
  | [], rows => rows
  | c :: t, rows => if rows.contains c.t.slot ∨ n ≤ rows.length then openRows n t rows else openRows n t (rows ++ [c.t.slot])

/-- The candidates that the throttle leaves (R96, R97): those of the rows whose oldest candidate is oldest, and the starved. -/
def State.throttled (s : State) (p : PId) (pipe : Pipe) (cs : List Cand) : List Cand :=
  if pipe = .m ∧ kindOf p = .core then
    let rows := openRows (s.proc p).mrows (sortBy Cand.older cs) []
    cs.filter fun c => c.th.starved.isSome || rows.contains c.t.slot
  else cs

/-- The row and address of every lane that has reached a hinted clause (R33): it stands READY there, whatever it waits for. -/
def State.reached (s : State) (p : PId) : List (Nat × Word) :=
  ((s.liveThreads p).filter fun e => decide (e.1.slot < 16) && e.2.st == .ready && !s.inFlight e.1 &&
    match s.peek p e.2.ctx e.2.pc with | some (some h) => h.rjh | _ => false).map fun e => (e.1.slot, e.2.pc)

/-- The wait of a row at a hinted clause begins when its first lane reaches it, and ends when none stands there any more. -/
def State.markHints (s : State) (p : PId) : State :=
  let at' := s.reached p
  if at'.isEmpty && (s.proc p).hints.isEmpty then s else
  s.modProc p fun r =>
    let old := r.hints.filter fun x => at'.contains (x.row, x.addr)
    { r with hints := old ++ (at'.eraseDups.filter fun x => !(old.any fun y => y.row == x.1 && y.addr == x.2)).map fun x =>
        ⟨x.1, x.2, s.tick, false⟩ }

/-- Lanes of the row stand READY at other addresses. -/
def State.elsewhere (s : State) (c : Cand) : Bool :=
  (s.liveThreads c.t.p).any fun e => e.1.slot == c.t.slot && e.2.st == .ready && e.2.pc != c.th.pc

/-- A hinted clause that still waits for the other lanes of its row (R33). -/
def State.hintWaits (s : State) (c : Cand) : Bool :=
  match c.h with
  | some h => h.rjh && s.elsewhere c &&
      !((s.proc c.t.p).hints.any fun x => x.row == c.t.slot && x.addr == c.th.pc && x.past)
  | none => false

/-! Before-issue holds. -/

/-- The guard fields of an instruction (R46). -/
def guardOf (i : Instr) : Bool × BitVec 3 := (i.body.getLsbD 55, i.body.extractLsb' 52 3)

/-- The lanes of a group in which an instruction takes effect. -/
def takers (i : Instr) (cs : List Cand) : List Cand :=
  cs.filter fun c => c.th.p (guardOf i).2.toNat != (guardOf i).1

/-- The scoreboard an M-pipe instruction names (R48): bits 23:20 of its word. -/
def sbNamed (i : Instr) : Option Nat :=
  match i.code with
  | some (.m, _) => if i.body.getLsbD 23 then some (i.body.extractLsb' 20 3).toNat else none
  | _ => none

/-- Entries of the store queue an instruction takes in one lane (R189). -/
def queueUse : Instr → Nat
  | .stG _ => 2
  | .st8 _ | .st16 _ | .st32 _ | .st64 _ | .stGE _ | .stGS _ | .stn _ | .red _ | .mst _ | .bred _ _ _ | .rput _
  | .rputm _ _ _ _ => 1
  | .ratom f => boolN (f.off.getLsbD 5)
  | _ => 0

/-- Entries of the outstanding-transaction table it takes in one lane (R189, R310). -/
def ottUse (i : Instr) : Nat :=
  match i with
  | .ldG _ => 2
  | .ldU8 _ | .ldS8 _ | .ldU16 _ | .ldS16 _ | .ldU32 _ | .ldS32 _ | .ld64 _ | .ldGE _ | .ldGS _ | .mld _ | .atom _
  | .cas _ | .rget _ | .probe _ | .pin _ | .coll _ => 1
  | .ratom f => if f.off.getLsbD 5 then boolN (sbNamed i).isSome else 1
  | _ => if (sbNamed i).isSome then queueUse i else 0

/-- Engine operations it starts, and whether they are bulk reads (R232). -/
def engineUse : Instr → Option Bool
  | .bread _ _ _ _ _ _ => some true
  | .acopy _ _ _ _ _ _ _ | .acopyt _ _ _ _ _ _ _ | .bupd _ _ => some false
  | _ => none

/-- What a group's clause asks of a table. -/
def demand (f : Instr → Nat) (l : List Instr) (cs : List Cand) : Nat :=
  l.foldl (fun a i => a + f i * (takers i cs).length) 0

/-- A table of `cap` entries of which `used` stand has no room for `want` more. -/
def overrun (cap used want : Nat) : Bool := want != 0 && decide (cap < used + want)

/-- Bulk reads it starts (R232). -/
def breadUse (i : Instr) : Nat := boolN (engineUse i == some true)

/-- A group's clause fits tables that stand empty (R189, R232). -/
def fits (l : List Instr) (cs : List Cand) : Bool :=
  !overrun 64 0 (demand queueUse l cs) && !overrun 256 0 (demand ottUse l cs) &&
  !overrun 64 0 (demand (fun i => boolN (engineUse i).isSome) l cs) && !overrun 16 0 (demand breadUse l cs)

/-- The lanes of a group that a clause can issue for at all: those that would take a table past its size are held (log 14). -/
def fitGroup (l : List Instr) (cs : List Cand) : List Cand :=
  cs.foldl (fun g c => if fits l (g ++ [c]) then g ++ [c] else g) []

/-- What a clause in flight still asks of a table, its entries being taken at issue (R189): for the lanes that have not ended. -/
def Flight.demand (x : Flight) (f : Instr → Nat) : Nat :=
  x.words.foldl (fun a w => match decodeWord x.hdr.pipe w with
    | .ok i => a + f i * (x.lanes.filter fun l => !l.done && !l.frozen && l.fault.isNone && l.guard (guardOf i).1 (guardOf i).2).length
    | .error _ => a) 0

/-- What the clauses in flight of a processor, or of one row of it, still ask of a table. -/
def State.issued (s : State) (p : PId) (row : Option Nat) (f : Instr → Nat) : Nat :=
  ((s.flights ++ s.stalled).filter fun x => x.p == p && (match row with | some r => x.row == r | none => true)).foldl
    (fun a x => a + x.demand f) 0

/-- The grant requests of a processor's threads (R189, R197): what they have asked other sites for, a copy of the line standing
here. -/
def State.grantAsks (s : State) (p : PId) : Nat :=
  (s.packets.filter fun k => k.src == p && match k.kind with
    | .access i pa => ((s.liveThreads p).any fun t => t.2.gen == i) &&
        (((s.proc p).l1.any (·.line == lineOf pa)) || ((s.site p.site).l2.any (·.line == lineOf pa)))
    | _ => false).length

/-- Entries of the outstanding-transaction table that stand. -/
def State.ottUsed (s : State) (p : PId) : Nat :=
  (s.reqs.foldl (fun a r => if r.t.p = p then
    (match r.kind with | .load _ _ => a + r.parts.length | .value true | .coll _ _ _ => a + 1 | _ => a) else a) 0) +
  (s.stores.filter fun x => x.t.p == p && x.sb.isSome).length +
  ((s.proc p).queues.foldl (fun a q => a + (q.2.filter fun x => x.sb.isSome).length) 0) +
  s.issued p none ottUse + s.grantAsks p

/-- Engine operations an instruction starts in one lane, of either kind. -/
def opUse (i : Instr) : Nat := boolN (engineUse i).isSome

/-- The engine table has no room for what a group starts, beside what stands in it and what clauses in flight start (R232). -/
def State.tableFull (s : State) (p : PId) (l : List Instr) (cs : List Cand) : Bool :=
  overrun 64 ((s.engineTable p).length + s.issued p none opUse) (demand opUse l cs) ||
    overrun 16 (((s.engineTable p).filter (·.kind.isBread)).length + s.issued p none breadUse) (demand breadUse l cs)

/-- A scoreboard that a lane's clause would take above 63 (R37). -/
def sbFull (l : List Instr) (c : Cand) : Bool :=
  (List.range 8).any fun k =>
    decide (63 < c.th.sbOf k + (l.filter fun i => sbNamed i == some k && !(takers i [c]).isEmpty).length) &&
      l.any fun i => sbNamed i == some k && !(takers i [c]).isEmpty

/-- The tile of an instruction has no transition for it (R246); EMPTY never holds, nor a tile that is not of the thread's band,
which faults (R247). -/
def State.tileHeld (s : State) (p : PId) (i : Instr) (c : Cand) : Bool :=
  let tile (x : Src) : Tile := (s.proc p).tile (match x with | .reg n => n.toNat % 64 | .latch _ => 0)
  let held (t : Tile) (next : Option Tile) : Bool := t.st != .empty && c.th.band == some t.band && next.isNone
  match i with
  | .acopyt q _ mode _ _ _ _ => held (tile q.c) ((tile q.c).enter (min mode.toNat 2))
  | .tfree q => held (tile q.c) (if (tile q.c).st = .ready then some Tile.empty else none)
  | _ => false

/-- What a core-scope release of a thread follows (R109, R202): its loads and atomics have been performed and its stores have
left the row's queue. -/
def State.passed (s : State) (c : Cand) : Bool :=
  !(s.reqs.any fun r => r.t == c.t && r.gen == c.th.gen && r.waiting) &&
  !(((s.proc c.t.p).queues.get [] c.t.slot).any fun x => x.t == c.t && x.gen == c.th.gen)

/-- A release that its entry makes, or a KLAUNCH against a full buffer, waits (R109, R113, R127, R205, R273): at core scope for what
precedes it in the core's order, wider until everything it carries has been acknowledged. -/
def State.releaseHeld (s : State) (i : Instr) (cs : List Cand) : Bool :=
  let unready (c : Cand) : Bool := !s.carried c.t.p c.th.gen (s.nextId + 1)
  match i with
  | .bara _ _ _ scope => (takers i cs).any fun c => if scope = 0 then !s.passed c else unready c
  | .tra _ _ => (takers i cs).any unready
  | .xbind _ => (takers i cs).any fun c => !s.passed c
  | .klaunch _ => (takers i cs).any fun c => unready c || (s.site c.t.p.site).freeDl.isNone
  | _ => false

/-- The clause of a group is held before issue. -/
def State.held (s : State) (p : PId) (l : List Instr) (cs : List Cand) : Bool :=
  let row := match cs with | c :: _ => c.t.slot | [] => 0
  cs.any (sbFull l) ||
  overrun 64 (((s.proc p).queues.get [] row).length + s.issued p (some row) queueUse) (demand queueUse l cs) ||
  overrun 256 (s.ottUsed p) (demand ottUse l cs) || s.tableFull p l cs ||
  l.any fun i => (takers i cs).any (s.tileHeld p i) || s.releaseHeld i cs

/-! Choosing and issuing (R91). -/

/-- The issue group of a chosen candidate, in lane order. -/
def groupOf (cs : List Cand) (c : Cand) : List Cand :=
  sortBy (fun a b => decide (a.t.lane ≤ b.t.lane))
    (cs.filter fun x => x.t.slot == c.t.slot && x.th.pc == c.th.pc && x.th.ctx == c.th.ctx)

/-- A thread that stands at its header but is no candidate, its issue group being held before issue (R91, R189, R232, R246). -/
def State.heldBack (s : State) (p : PId) (cs : List Cand) (c : Cand) : Bool :=
  match (s.fetchClause p c.th.ctx c.th.pc).1 with
  | .ok _ _ l =>
    let g := fitGroup l (groupOf cs c)
    !(g.any fun x => x.t == c.t) || s.held p l g
  | _ => false

/-- A group that the engine table holds back claims the table places of a stopped entry (R345). -/
def State.claimTable (s : State) (p : PId) (cs : List Cand) : State :=
  let wants (c : Cand) : Bool := match (s.fetchClause p c.th.ctx c.th.pc).1 with
    | .ok _ _ l => s.tableFull p l (fitGroup l (groupOf cs c))
    | _ => false
  match cs.find? wants with
  | some c => s.claimEngines p c.th.entry
  | none => s

/-- The candidates of a pipe (R91). -/
def State.issuable (s : State) (p : PId) (pipe : Pipe) : List Cand :=
  let cs := s.standing p pipe
  cs.filter fun c => !s.heldBack p cs c

/-- A chosen group with its clause, as fetched in the state beside it. -/
structure Pick where
  group : List Cand
  c : Cand
  clause : CRes
  s : State

/-- The first candidate in order whose group may issue. -/
def State.pick (s : State) (p : PId) (cs : List Cand) : List Cand → Option Pick
  | [] => none
  | c :: t =>
    if s.hintWaits c then s.pick p cs t else
    let g := groupOf cs c
    match s.fetchClause p c.th.ctx c.th.pc with
    | (.dead, _) | (.wait, _) => s.pick p cs t
    | (.trap f cause idx info, s') => some ⟨g, c, .trap f cause idx info, s'⟩
    | (.ok h ws l, s') => some ⟨g, c, .ok h ws l, s'⟩

/-- Candidates begin to count the time they wait, and threads that are none stop counting (R97). -/
def State.markCands (s : State) (p : PId) (pipe : Pipe) (cs : List Cand) : State :=
  let s := cs.foldl (fun s c => s.modTh c.t fun th => { th with cand := some (th.cand.getD s.tick) }) s
  let idle := (s.liveThreads p).filter fun e => e.2.cand.isSome && !cs.any (·.t == e.1) &&
    (match s.peek p e.2.ctx e.2.pc with | some (some h) => h.pipe == pipe | _ => true)
  idle.foldl (fun s e => s.modTh e.1 fun th => { th with cand := none, starved := none }) s

/-- A lane of a clause that begins to issue. -/
def laneOf (c : Cand) : LaneRun := ⟨c.t.lane, c.th, [], [], [], 0, c.th.seed, none, false, false, false⟩

/-- A decode or fetch fault is taken by every thread of the group (R30); a fetch fault on the first clause of a trap
handler is a double fault (R337). -/
def State.trapGroup (s : State) (g : List Cand) (fetch : Bool) (cause idx : Nat) (info : Word) : State :=
  g.foldl (fun s c =>
    match fetch, c.th.entering with
    | true, some c0 => s.doubleFault c.t c0 cause
    | _, _ => s.deliver c.t cause idx info false) s

/-- A hinted clause that was issued waits anew unless lanes still stand there (R33). -/
def State.endHint (s : State) (p : PId) (row : Nat) (addr : Word) : State :=
  if !((s.proc p).hints.any fun x => x.row == row && x.addr == addr) || (s.reached p).contains (row, addr) then s
  else s.modProc p fun r => { r with hints := r.hints.filter fun x => !(x.row == row && x.addr == addr) }

/-- The packets that fetched the words of a clause are done with. -/
def State.dropFetches (s : State) (p : PId) (ctx : Nat) (addr : Word) (n : Nat) : State :=
  s.dropWays p ctx fun k => match k with | .fetch va _ => decide ((va - addr).toNat < 8 * n) | _ => false

/-- Issue a chosen group: the clause is in flight, or its fault is taken. -/
def Pick.issue (k : Pick) (p : PId) (pipe : Pipe) : State :=
  let s := k.group.foldl (fun s c => s.modTh c.t fun th => { th with cand := none, starved := none }) k.s
  match k.clause with
  | .dead | .wait => s
  | .trap f cause idx info => (s.dropFetches p k.c.th.ctx k.c.th.pc 17).trapGroup k.group f cause idx info
  | .ok h ws _ =>
    let s := (s.dropFetches p k.c.th.ctx k.c.th.pc (ws.length + 1)).perfAdd p k.c.th.ctx (1 + pipe.code.toNat) 1
    ({ s with flights := s.flights ++ [⟨p, k.c.t.slot, k.c.th.pc, h, ws, 0, k.group.map laneOf, s.tick⟩] } : State).endHint p
      k.c.t.slot k.c.th.pc

/-- The clauses at which READY threads stand are asked for where their words are another site's. -/
def State.askClauses (s : State) (p : PId) : State :=
  ((s.liveThreads p).filter fun e => decide (e.1.slot < 16) && s.atHeader e.1 e.2).foldl (fun s e =>
    match s.fetchClause p e.2.ctx e.2.pc with
    | (.wait, s') => s'
    | _ => s) s

/-- ISSUE_GROUP (R91): the pipe's scheduler picks a candidate and issues its clause for its group. -/
def execIssueGroup (p : PId) (pipe : Pipe) (s : State) : Out :=
  let s := (s.askClauses p).markHints p
  let s := if pipe = .m then s.claimTable p (s.standing p pipe) else s
  let cs := s.issuable p pipe
  let s := s.markCands p pipe cs
  let cs : List Cand := cs.map fun c => { c with th := s.th c.t }
  match s.pick p cs (s.throttled p pipe (sortBy Cand.before cs)) with
  | none => .next s
  | some k => .next (k.issue p pipe)

/-- RJH_TIMEOUT (R33): 64 cycles after the first lane reached a hinted clause of the row, the wait is over. -/
def execRjhTimeout (p : PId) (row : Nat) (s : State) : Out :=
  let late (x : Hint) : Hint := if x.row = row ∧ 64 ≤ procSpan p x.since s.tick then { x with past := true } else x
  .next (s.modProc p fun r => { r with hints := r.hints.map late })

/-! Commit (R35, R92). -/

/-- The end of one lane: it commits, or its first fault is taken with everything rolled back; a lane whose context died
leaves its thread at the header, and one that waits to commit stays in flight. What it asked for before is then done with. -/
def State.endLane (s : State) (f : Flight) (l : LaneRun) : State :=
  let t : TId := ⟨f.p, l.lane, f.row⟩
  match l.fault with
  | some x =>
    if x.later then (s.dropAsksOf f.p l.t0.ctx l.t0.gen).pendTrap t x.cause x.info else s.deliver t x.cause x.idx x.info false
  | none =>
    if l.stall then s
    else (if l.frozen || l.done then s else (s.commitLane f l).1).dropAsksOf f.p l.t0.ctx l.t0.gen

/-- What of a clause stays in flight (R246): the lanes that wait to commit, at its last instruction. -/
def Flight.waiting (f : Flight) : List Flight :=
  let w := f.lanes.filter (·.stall)
  if w.isEmpty then [] else [{ f with idx := f.words.length - 1, lanes := w.map fun l => { l with stall := false } }]

/-- A lane's fault is still to be taken, the read of its vector being under way (R337). -/
def State.trapWaits (s : State) (f : Flight) (l : LaneRun) : Bool :=
  match l.fault with
  | some x => !x.later && s.vectorWaits ⟨f.p, l.lane, f.row⟩ x.cause
  | none => false

/-- The end of a lane, or the request for the vector of its fault. -/
def State.endOrAsk (s : State) (f : Flight) (late : List LaneRun) (l : LaneRun) : State :=
  match l.fault with
  | some x => if late.contains l then (s.readVector ⟨f.p, l.lane, f.row⟩ x.cause).2 else s.endLane f l
  | none => s.endLane f l

/-- CLAUSE_COMMIT: the clause at the head of those in flight ends, lane by lane; it stays for the lanes that wait to commit or to
take their fault. -/
def execClauseCommit (s : State) : Out :=
  match s.flights with
  | [] => .next s
  | f :: rest =>
    let s : State := { s with flights := rest, stalled := s.stalled ++ f.waiting }
    let late := f.lanes.filter (s.trapWaits f)
    let s := if late.isEmpty then s else { s with stalled := s.stalled ++ [{ f with lanes := late, idx := f.words.length }] }
    .next (f.lanes.foldl (fun s l => s.endOrAsk f late l) s)

end Sys2Proof.Machine
end

