-- ==== Sys2Proof/Machine/Stream.lean ====
section
/-! DEFINITION. The matrix sequencer (R265 to R269, R276, R277): stream faults, the loop stack, how a stream word runs, the
control words and barriers of a stream, and the binding instructions of the band (R271, R273 to R275). A stream word that
must wait leaves the stream where it is and is fetched again. -/
namespace Sys2Proof.Machine

def State.modSeq (s : State) (p : PId) (f : Seq → Seq) : State := s.modProc p fun r => { r with seq := f r.seq }

/-! Stream faults (R267). -/

/-- %ti of the matrix-stream fault. -/
def streamInfo (code : Nat) (a : Word) : Word := BitVec.ofNat 64 (code % 256 * 2 ^ 56 + a.toNat % 2 ^ 53)

/-- A stream fault: FAULTED at the word, the event, every watermark 64, and the fault pending for every member, a parked
one of which becomes READY. -/
def State.streamFault (s : State) (p : PId) (code : Nat) : State :=
  let q := (s.proc p).seq
  let s := s.modSeq p fun q => { q.finalAll with st := .faulted, fcode := code }
  let s := s.raise p.site 4 p.core 0 0 q.ctx code
  let members := (q.band.bind (s.proc p).band).elim [] (·.members)
  members.foldl (fun s m =>
    let t : TId := ⟨p, m.1, m.2⟩
    let s := if (s.th t).isParked then s.wake t else s
    s.pendTrap t 21 (streamInfo code q.spc)) s

/-! The loop stack (R276). -/

/-- After a word leaves `spc` at a new address: loops that end there count; the stack has its top first. -/
def loopEnds (spc : Word) : List Loop → Word × List Loop
  | [] => (spc, [])
  | l :: t =>
    if spc ≠ l.stop then (spc, l :: t)
    else if 1 < l.rem then (l.start, { l with rem := l.rem - 1, iter := l.iter + 1 } :: t)
    else loopEnds spc t

/-- The next word of the stream. -/
def Seq.advance (q : Seq) : Seq :=
  let r := loopEnds (q.spc + 8) q.loops
  { q with spc := r.1, loops := r.2 }

/-- `it`, and a tile field under SA or SB. -/
def Seq.it (q : Seq) : Nat := match q.loops with | [] => 0 | l :: _ => l.iter
def Seq.tileNo (q : Seq) (t : BitVec 6) (step : Bool) : Nat := (t.toNat + (if step then q.it else 0)) % 64

/-! How a stream word runs. -/

/-- What a word comes to: it waits, faults with a code before it changes anything, or is done. -/
inductive XStep where
  | wait (s : State)
  | fault (code : Nat)
  | done (s : State)

/-- A fetched word begins only while the sequencer is RUNNING and its band stands (R265). -/
def Seq.begins (q : Seq) : Bool := q.st == .running && !q.ending

/-- Run the fetched word of a stream; a word fetched before the sequencer left RUNNING is dropped. -/
def State.runStream (s : State) (f : State → PId → Seq → XStep) : Out :=
  match s.stream with
  | none => .next s
  | some (p, _) =>
    let s : State := { s with stream := none }
    if !(s.proc p).seq.begins then .next s else
    match f s p (s.proc p).seq with
    | .wait s => .next s
    | .fault c => .next (s.streamFault p c)
    | .done s => .next (s.modSeq p Seq.advance)

/-! XNOP, XEND, XLOOP, XLAY (R276). -/

def execXnop (s : State) : Out := s.runStream fun s _ _ => .done s

def execXend (s : State) : Out :=
  s.runStream fun s p _ => .done (s.modSeq p fun q => { q with st := .idle, loops := [] })

def execXloop (count len : BitVec 12) (s : State) : Out :=
  s.runStream fun s p q =>
    if len = 0 ∨ 4 ≤ q.loops.length then .fault 8
    else .done (s.modSeq p fun q =>
      { q with loops := ⟨q.spc + 8, q.spc + 8 + 8 * len.setWidth 64, count.toNat + 1, 0⟩ :: q.loops })

def execXlay (layout : BitVec 4) (s : State) : Out :=
  s.runStream fun s p _ => .done (s.modSeq p fun q => { q with layout := layout })

/-! XBW, XBA (R266, R277). -/

/-- Phase `SPH[i]` of the band's barrier is complete; a band that has ended lets the word pass. -/
def State.seqPhase (s : State) (p : PId) (i : Nat) : Option Bool :=
  let q := (s.proc p).seq
  (q.band.bind fun b => s.bar p b i).map fun bo => phaseDone bo.gen (q.sph[i]?.getD 0)

def execXbw (bar : BitVec 4) (s : State) : Out :=
  s.runStream fun s p q =>
    let i := bar.toNat
    match s.seqPhase p i with
    | none => .done s
    | some true => .done (s.modSeq p fun q => { q with sph := q.sph.set i (q.sph[i]?.getD 0 + 1) })
    | some false => .wait (s.setProc p { s.proc p with seq := { q with st := .waiting, wbar := i } })

def execXba (bar : BitVec 4) (scope : BitVec 2) (s : State) : Out :=
  s.runStream fun s p q =>
    let i := bar.toNat
    if !q.work.isEmpty then .wait s else
    match q.band.bind fun b => (s.bar p b i).map fun bo => (b, bo) with
    | none => .done s
    | some (b, bo) =>
      if bo.exp = 0 then .fault 5
      else .done ((s.modSeq p fun q => { q with sph := q.sph.set i bo.gen }).barArrive p b i scope.toNat)

/-- A WAITING sequencer whose phase is complete runs on (R265). -/
def State.seqWake (s : State) (p : PId) : State :=
  let q := (s.proc p).seq
  if q.st = .waiting ∧ s.seqPhase p q.wbar ≠ some false then s.modSeq p fun q => { q with st := .running } else s

/-! Words that do not decode, and the fetch of a word (R267). -/

/-- STREAM_WORD_FAULT: code 1 illegal opcode, 2 reserved field, 3 stream fetch. -/
def execStreamWordFault (p : PId) (code : Nat) (s : State) : Out :=
  let q := (s.proc p).seq
  let s : State := { s with stream := match s.stream with | some (r, w) => if r = p then none else some (r, w) | none => none }
  .next (if (q.st == .running || q.st == .waiting) && !q.ending then s.streamFault p code else s)

/-- What the sequencer's XBIND follows, a release at core scope, has come about (R202, R273): the loads before it have been
performed and the stores have left their queues. -/
def State.seqFollows (s : State) (p : PId) : Bool :=
  match (s.proc p).seq.after with
  | some (gen, id) => s.carriedAt p gen id 0
  | none => true

/-- Whether the sequencer may begin a word: RUNNING, its band standing and not being stopped, what its XBIND follows done. -/
def State.seqReady (s : State) (p : PId) : Bool :=
  let r := s.proc p
  r.seq.begins && s.seqFollows p && match r.seq.band.bind r.band with
    | some b => (r.entry b.entry).st == .active || (r.entry b.entry).st == .empty
    | none => false

/-- Fetch the next word of a stream; the packets that asked for it are done with once it has come. -/
def State.fetchStream (s : State) (p : PId) : State :=
  if !s.seqReady p ∨ s.stream.isSome then s else
  let q := (s.proc p).seq
  let came (s : State) : State := s.dropWays p q.ctx (·.fetches q.spc)
  match s.fetchWord p q.ctx q.spc with
  | (.ok w, s) => { came s with stream := some (p, w) }
  | (.trap _, s) => (came s).streamFault p 3
  | (.dead, s) => came s
  | (.wait, s) => s

/-! XBIND (R265, R273). -/

/-- A scrub: planes, layout word, loop stack and accumulators. -/
def Seq.scrub (q : Seq) : Seq :=
  { q with
    layout := 0, loops := [], active := none, shadow := none, accs := []
    work := q.work.map fun w => { w with fin := false, raises := [] } }

/-- A bind from UNBOUND, of the thread of creation number `gen`. -/
def State.bindSeq (s : State) (p : PId) (b : BandRef) (ctx gen : Nat) (spc : Word) : State :=
  s.modProc p fun r =>
    let q := if r.seq.last = some b then r.seq else r.seq.scrub
    let gens := match r.band b with
      | some x => (List.range 16).map fun i => (x.bar i).gen
      | none => List.replicate 16 0
    { r with seq := { q with
        st := .running, was := .running, spc := spc, band := some b, last := some b, ctx := ctx, sph := gens
        layout := 0, loops := [], ending := false, after := some (gen, s.nextId) } }

/-- A rebind from IDLE or FAULTED. -/
def State.rebindSeq (s : State) (p : PId) (gen : Nat) (spc : Word) : State :=
  s.modSeq p fun q => { q with st := .running, spc := spc, loops := [], after := some (gen, s.nextId) }

/-- Whether the sequencer turns a band away: RUNNING, WAITING or STOPPED, or bound to another band. -/
def Seq.refuses (q : Seq) (b : Option BandRef) : Bool :=
  match q.st with
  | .unbound => false
  | .idle | .faulted => b.isNone || q.band != b
  | _ => true

/-- The effect of BIND and its answer. -/
def State.bindAnswer (s : State) (t : TId) (a : Word) : Nat × State :=
  let th := s.th t
  match th.band with
  | none => (2, s)
  | some b =>
    let q := (s.proc t.p).seq
    if q.refuses (some b) then (1, s)
    else if q.st = .unbound then (0, s.bindSeq t.p b th.ctx th.gen a)
    else (0, s.rebindSeq t.p th.gen a)

/-- The effect of UNBIND and its answer. -/
def State.unbindAnswer (s : State) (t : TId) : Nat × State :=
  let q := (s.proc t.p).seq
  if q.st = .unbound then (2, s)
  else if q.refuses (s.th t).band then (1, s)
  else (0, s.modSeq t.p Seq.unbind)

/-- The answer on its way to gD. -/
def State.answer (s : State) (t : TId) (q : QForm) (v : Word) : State :=
  s.enact t (.req (reqOf q.sbUse (.value false) [] (some [.g q.dst.toNat v])))

/-- XBIND: lanes act on the sequencer in lane order, each at its commit. -/
def execXbind (q : QForm) (s : State) : Out :=
  .next (s.runLanes q.pn q.pr id fun s e =>
    let a := e.g q.a
    if a.toNat % 8 ≠ 0 then (.trap 7 a, s)
    else (.ok fun s => let r := s.bindAnswer e.tid a; r.2.answer e.tid q (BitVec.ofNat 64 r.1), s))

def execXbindU (q : QForm) (s : State) : Out :=
  .next (s.runLanes q.pn q.pr id fun s e =>
    (.ok fun s => let r := s.unbindAnswer e.tid; r.2.answer e.tid q (BitVec.ofNat 64 r.1), s))

def execXbindQ (q : QForm) (s : State) : Out :=
  .next (s.runLanes q.pn q.pr id fun s e =>
    (.ok fun s => s.answer e.tid q (s.proc e.p).seq.status, s))

/-! ACRD, ACWM, ACOVF (R274, R275). -/

/-- The accumulator tile that SRCC names. -/
def accOfSrc (x : Src) : Nat := match x with | .reg n => n.toNat % 8 | .latch _ => 0

/-- The thread must be a member of the bound band; %ti of the tile-state fault names the accumulator tile. -/
def accChk (s : State) (e : Env) (a : Nat) : Chk :=
  match (s.th e.tid).band with
  | none => some (15, allOnes)
  | some b => if (s.proc e.p).seq.st ≠ .unbound ∧ (s.proc e.p).seq.band = some b then none else some (19, BitVec.ofNat 64 a)

/-- A deferred read of an accumulator after the membership check. -/
def State.accRead (s : State) (q : QForm) (f : Env → Act) : State :=
  s.runActs q.pn q.pr fun s e =>
    match accChk s e (accOfSrc q.c) with
    | some x => (.trap x.1 x.2, s)
    | none => (.ok [f e], s)

def execAcwm (q : QForm) (s : State) : Out :=
  .next (s.accRead q fun e =>
    .req (reqOf q.sbUse (.acwm (accOfSrc q.c) (min ((e.g q.a).toNat % 128) 64) q.dst.toNat) [] none))

def execAcovf (q : QForm) (clr : Bool) (s : State) : Out :=
  .next (s.accRead q fun _ => .acovf (accOfSrc q.c) clr q.sbUse q.dst.toNat)

/-- The value of an entry. -/
def AccTile.value (a : AccTile) (x : BitVec 36) : X := if a.int then X.ofInt x.toInt else NF.fp36.decode x.toNat

/-- Saturation of an INT36 entry to INT32, or its low bits (R85). -/
def AccTile.int32 (a : AccTile) (x : BitVec 36) : Nat :=
  if !a.ovm then x.toNat % 2 ^ 32
  else (BitVec.ofInt 32 (max (-2 ^ 31) (min (2 ^ 31 - 1) x.toInt))).toNat

/-- Round a list of values in order, drawing from a random state. -/
def roundAll (f : Fmt) (mode : Rnd) : List X → Word → List Nat × Word
  | [], seed => ([], seed)
  | x :: t, seed =>
    let r := rnd f mode false seed x
    let q := roundAll f mode t r.seed
    (r.code :: q.1, q.2)

/-- The wide registers of a read: 8 or 16 codes each. -/
def wideOf (f : Fmt) (dst : Nat) : Nat → List Nat → List RegW
  | 0, _ => []
  | n + 1, cs => .w dst ⟨0x7F00, payOf f (cs.take f.count)⟩ :: wideOf f (dst + 1) n (cs.drop f.count)

/-- The moment registers of a read: mean and variance codes in turn. -/
def momsOf (dst : Nat) : List Nat → List RegW
  | mean :: var :: t => .m dst (momOf mean var) :: momsOf (dst + 1) t
  | _ => []

/-- The registers an ACRD fills, and the random state after it. -/
def Seq.readAcc (q : Seq) (a aq : Nat) (m : Bool) (row c0 nc : Nat) (f : Fmt) (mode : Rnd) (seed : Word) (dst : Nat) :
    List RegW × Word :=
  let t := q.acc a
  let e (t : AccTile) (j : Nat) : BitVec 36 := t.entry row ((c0 + j) % 64)
  if m then
    let u := q.acc aq
    let r := roundAll .f32 mode ((List.range nc).flatMap fun j => [t.value (e t j), u.value (e u j)]) seed
    (momsOf dst r.1, r.2)
  else
    let n := nc * f.count
    if t.int && f == .f32 then (wideOf f dst nc ((List.range n).map fun j => t.int32 (e t j)), seed)
    else
      let r := roundAll f mode ((List.range n).map fun j => t.value (e t j)) seed
      (wideOf f dst nc r.1, r.2)

/-- A lane of ACRD: what it asks for, and its random state after it. DESIGN CHOICE (log 21): R82 takes the draws in index order and
rolls them back with the clause, R274 makes the read after commit. The draws keep their place: the read draws from the state at the
instruction, and the lane's state goes on by one draw for each finite entry that the row holds then. -/
def Env.acrd (e : Env) (q : QForm) (fmt : Fmt) (rnd : Rnd) (nc : BitVec 2) (m : Bool) (aq : BitVec 3) : ReqKind × Word :=
  let a := accOfSrc q.c
  let row := (e.g q.a).toNat % 64
  let c0 := (e.g q.b).toNat % 64
  (.acrd a aq.toNat m row c0 (2 ^ nc.toNat) fmt.code (e.rm rnd) q.dst.toNat e.l.seed,
    ((e.s.proc e.p).seq.readAcc a aq.toNat m row c0 (2 ^ nc.toNat) fmt (e.rm rnd) e.l.seed q.dst.toNat).2)

def execAcrd (q : QForm) (fmt : Fmt) (rnd : Rnd) (nc : BitVec 2) (m : Bool) (aq : BitVec 3) (s : State) : Out :=
  .next (s.foldLanes id fun s fl l =>
    if !l.active then (s, l)
    else if !l.guard q.pn q.pr then (s, l.shift none)
    else
      let e : Env := ⟨s, fl, l⟩
      match accChk s e (accOfSrc q.c) with
      | some x => (s, l.trap fl.idx x.1 x.2)
      | none =>
        let r := e.acrd q fmt rnd nc m aq
        (s, { l.shift none with acts := l.acts ++ [.req (reqOf q.sbUse r.1 [] none)], seed := r.2 }))

/-- ACRD_READ: the read is made while the row is final. -/
def execAcrdRead (id : Nat) (s : State) : Out :=
  match s.req id with
  | none => .next s
  | some r => match r.kind, r.resp with
    | .acrd a aq m row c0 nc fmt mode dst seed, none =>
      let q := (s.proc r.t.p).seq
      if (q.acc a).wm ≤ row ∨ (m ∧ (q.acc aq).wm ≤ row) then .next s
      else
        let f := (Fmt.of (BitVec.ofNat 4 fmt)).getD .f32
        .next (s.setReq { r with resp := some (q.readAcc a aq m row c0 nc f mode seed dst).1 })
    | _, _ => .next s

/-- ACWM_RESULT: the status word is read once the watermark has reached the threshold. -/
def execAcwmResult (id : Nat) (s : State) : Out :=
  match s.req id with
  | none => .next s
  | some r => match r.kind, r.resp with
    | .acwm a thr dst, none =>
      let t := (s.proc r.t.p).seq.acc a
      if thr ≤ t.wm then .next (s.setReq { r with resp := some [.g dst t.status] }) else .next s
    | _, _ => .next s

end Sys2Proof.Machine
end

