-- ==== Sys2Proof/Machine/Matrix.lean ====
section
/-! DEFINITION. The matrix array (R84, R85, R255 to R264, R278 to R283): matrix tiles and their scales, compressed tiles,
the accumulation of chunks, the words that load planes, multiply and drain, and the events that finish them. A word's
results stand in the accumulators once it has started; the watermark says which rows may be read. -/
namespace Sys2Proof.Machine

/-! Matrix tiles (R256 to R258). -/

/-- The index of the element stored at row `r`, column `c`. -/
def elemAt (r c : Nat) : Nat :=
  let leaf := (List.range 4).foldl (fun a t =>
    a + boolN (c.testBit (2 + t)) * 2 ^ (2 * t) + boolN (r.testBit (2 + t)) * 2 ^ (2 * t + 1)) 0
  16 * leaf + 4 * (r % 4) + c % 4

/-- The stored row and column of an element index. -/
def placeOf (e : Nat) : Nat × Nat :=
  let bit (k : Nat) : Nat := boolN ((e / 16).testBit k)
  ((List.range 4).foldl (fun a t => a + bit (2 * t + 1) * 2 ^ (2 + t)) (e / 4 % 4),
    (List.range 4).foldl (fun a t => a + bit (2 * t) * 2 ^ (2 + t)) (e % 4))

/-- Element `e` of a run of elements of a format, at a byte offset. -/
def codeAt (f : Fmt) (b : Array Byte) (off e : Nat) : Nat :=
  let byte (k : Nat) : Nat := (b.getD (off + k) 0).toNat
  if f.bits = 4 then (if e % 2 = 0 then byte (e / 2) % 16 else byte (e / 2) / 16)
  else (List.range (f.bits / 8)).foldl (fun a k => a + byte (f.bits / 8 * e + k) * 256 ^ k) 0

/-- Scale blocks per line, and the K positions of each. -/
def blocksOf (f : Fmt) : Nat := if f.bits = 8 then 2 else if f.bits = 4 then 1 else 0
def blockLen (f : Fmt) : Nat := if f.bits = 8 then 32 else 64

/-- Where the scales of a dense tile begin. -/
def denseSoff (f : Fmt) : Nat := 512 * f.bits

/-- The bytes a dense operand takes. -/
def denseBytes (f : Fmt) : Nat := denseSoff f + 128 * blocksOf f

/-- The scale of a line and block, from the scale region. -/
def scaleAt (b : Array Byte) (soff nb line blk : Nat) : Nat :=
  let o := soff + 2 * (nb * line + blk)
  (b.getD o 0).toNat + 256 * (b.getD (o + 1) 0).toNat

/-- The logical element codes of a dense tile, row by row. -/
def denseCodes (f : Fmt) (b : Array Byte) (tr : Bool) : List (List Nat) :=
  tabulate 64 fun r => tabulate 64 fun c => codeAt f b 0 (if tr then elemAt c r else elemAt r c)

/-- The scales of a dense operand: line by line, block by block; none for a 16-bit format. -/
def denseScales (f : Fmt) (b : Array Byte) : List Nat :=
  tabulate (64 * blocksOf f) fun k => scaleAt b (denseSoff f) 1 k 0

/-- The value of an element under the scale of its line and K position. -/
def underScale (f : Fmt) (scales : List Nat) (line k code : Nat) : X :=
  if blocksOf f = 0 then f.decode code
  else scaled (f.decode code) (BitVec.ofNat 16 ((scales[blocksOf f * line + k / blockLen f]?).getD 0))

/-- A dense tile as a streamed operand: lines are rows, K runs along columns. -/
def streamed (f : Fmt) (b : Array Byte) (tr : Bool) : List (List X) :=
  let sc := denseScales f b
  (denseCodes f b tr).zipIdx.map fun row => row.1.zipIdx.map fun x => underScale f sc row.2 x.2 x.1

/-- A plane as rows of values: lines are columns, K runs along rows. -/
def Plane.rows (q : Plane) : List (List X) :=
  q.elems.zipIdx.map fun row => row.1.zipIdx.map fun x => underScale q.fmt q.scales x.2 row.2 x.1

/-- The transpose of a list of 64 rows. -/
def flipRows (m : List (List X)) : List (List X) :=
  let a := (m.map List.toArray).toArray
  tabulate 64 fun c => tabulate 64 fun r => ((a.getD r #[]).getD c (X.zero false))

/-! Compressed tiles (R259). -/

/-- The live positions of the mask. -/
def livePos (b : Array Byte) : List Nat :=
  (List.range 64).filter fun k => (b.getD (k / 8) 0).getLsbD (k % 8)

/-- Where indices and scales begin. -/
def idxOff (f : Fmt) (p : Nat) : Nat := 64 + 4 * p * f.bits
def sparseSoff (f : Fmt) (p : Nat) : Nat := idxOff f p + 8 * p

/-- The bytes a compressed tile takes. -/
def sparseBytes (f : Fmt) (p : Nat) : Nat := sparseSoff f p + 128 * blocksOf f

/-- Index nibble `n`. -/
def nibble (b : Array Byte) (off n : Nat) : Nat := codeAt .i4 b off n

/-- Whether a compressed tile keeps its layout. -/
def sparseOk (f : Fmt) (b : Array Byte) : Bool :=
  let p := (livePos b).length
  p % 8 == 0 && ((List.range 56).all fun k => b.getD (8 + k) 0 == 0) &&
  (List.range (64 * (p / 4))).all fun n => let x := nibble b (idxOff f p) n; decide (x % 4 < x / 4)

/-- The rows of a compressed tile: a position that is dead or zero holds nothing. -/
def sparseRows (f : Fmt) (b : Array Byte) : List (List (Option X)) :=
  let live := (livePos b).toArray
  let p := live.size
  let nb := blocksOf f
  tabulate 64 fun i =>
    let held : List (Nat × X) := (List.range (p / 4)).flatMap fun g =>
      let x := nibble b (idxOff f p) (i * (p / 4) + g)
      (List.range 2).map fun h =>
        let k := live.getD (4 * g + (if h = 0 then x % 4 else x / 4)) 0
        let v := f.decode (codeAt f b 64 (i * (p / 2) + 2 * g + h))
        (k, if nb = 0 then v else scaled v (BitVec.ofNat 16 (scaleAt b (sparseSoff f p) nb i (k / blockLen f))))
    tabulate 64 fun k => (held.find? (·.1 == k)).map (·.2)

/-- Every scale of a compressed tile. -/
def sparseScales (f : Fmt) (b : Array Byte) : List Nat :=
  tabulate (64 * blocksOf f) fun k => scaleAt b (sparseSoff f (livePos b).length) 1 k 0

/-! Accumulation (R84, R85). -/

/-- An entry with its hold bit, and what its chunks raised. -/
structure Cell where
  v : BitVec 36
  hold : Bool
  of : Bool
  nv : Bool
  sat : Bool

/-- The exact sum of a chunk and whether it is invalid: infinities of both signs, 0 × ∞, or a NaN. -/
def chunkSum : List (X × X) → X × Bool
  | [] => (X.zero false, false)
  | (a, b) :: t =>
    let r := chunkSum t
    match (X.mul a b).1 with
    | .nan => (.nan, true)
    | x => let q := X.add false x r.1; (q.1, r.2 || q.1.isNan)

/-- A chunk into an FP36 entry. -/
def Cell.addFp (c : Cell) (ps : List (X × X)) : Cell :=
  let r := chunkSum ps
  let s := rnFp36 (match r.1 with | .fin _ 0 _ _ => X.zero false | x => x)
  let a := X.add false (NF.fp36.decode c.v.toNat) (NF.fp36.decode s.1)
  let q := rnFp36 a.1
  { c with
    v := BitVec.ofNat 36 q.1
    of := c.of || (s.2 ||| q.2).getLsbD 2
    nv := c.nv || r.2 || a.2.getLsbD 4 }

/-- A chunk into an INT36 entry. -/
def Cell.addInt (ovm : Bool) (c : Cell) (ps : List (X × X)) : Cell :=
  if c.hold then c else
  let s := c.v.toInt + (ps.foldl (fun a p => a.add (p.1.dy.mul p.2.dy)) Dy.zero).floor
  if -2 ^ 35 ≤ s ∧ s < 2 ^ 35 ∨ !ovm then { c with v := BitVec.ofInt 36 s }
  else { c with v := BitVec.ofInt 36 (if s < 0 then -2 ^ 35 else 2 ^ 35 - 1), hold := true, sat := true }

/-- The pairs of a chunk that contribute: positions that sparsity skips do not. -/
def pairsOf (a : List (Option X)) (b : List X) : List (X × X) :=
  (a.zip b).filterMap fun x => x.1.map fun v => (v, x.2)

/-- A row times a column into an entry, in chunks of 16 positions. -/
def Cell.mac (add : Cell → List (X × X) → Cell) (c : Cell) (a : List (Option X)) (b : List X) : Cell :=
  (List.range 4).foldl (fun c k => add c (pairsOf ((a.drop (16 * k)).take 16) ((b.drop (16 * k)).take 16))) c

/-- A product into a tile: row `s` of the tile takes row `s` of `a` times every column of `cols`; with it, what each row raises
when it becomes final. -/
def AccTile.product (t : AccTile) (a : List (List (Option X))) (cols : List (List X)) : AccTile × List RowFlags :=
  let add := if t.int then Cell.addInt t.ovm else Cell.addFp
  let out := a.zipIdx.map fun row => cols.zipIdx.map fun col =>
    (⟨t.entry row.2 col.2, t.holdBit row.2 col.2, false, false, false⟩ : Cell).mac add row.1 col.1
  ({ t with rows := out.map fun r => r.map (·.v), hold := out.map fun r => r.map (·.hold) },
    out.map fun r => ⟨r.any (·.of), r.any (·.nv), r.any (·.sat)⟩)

/-- A row becomes final: its flags stick. -/
def AccTile.raiseRow (t : AccTile) (f : RowFlags) : AccTile :=
  { t with ovf := t.ovf || f.ovf, nv := t.nv || f.nv, satf := t.satf || f.satf }

def present (m : List (List X)) : List (List (Option X)) := m.map fun r => r.map some

/-! What a word waits for (R268), and its tiles (R261). -/

def StreamWork.isDrain (w : StreamWork) : Bool := w.writes
def StreamWork.isLoad (w : StreamWork) : Bool := w.accs.isEmpty && !w.writes
def StreamWork.isArray (w : StreamWork) : Bool := !w.accs.isEmpty && !w.writes && !w.isZero

def Seq.arrayFree (q : Seq) : Bool := !q.work.any (·.isArray)
def Seq.loaderFree (q : Seq) : Bool := !q.work.any (·.isLoad)
def Seq.drainFree (q : Seq) : Bool := !q.work.any (·.isDrain)
/-- Every earlier write to a tile is made. -/
def Seq.settled (q : Seq) (a : Nat) : Bool := !q.work.any fun w => !w.isDrain && w.accs.contains a
/-- No XZERO or XOUT of a tile is under way. -/
def Seq.untouched (q : Seq) (a : Nat) : Bool := !q.work.any fun w => !w.isArray && w.accs.contains a

/-- A named tile is EMPTY or of another band. -/
def State.foreignTile (s : State) (p : PId) (q : Seq) (k : Nat) : Bool :=
  let t := (s.proc p).tile k
  t.st == .empty || some t.band != q.band

/-- Take tiles in as ACOPYT does, one after the other: `none` while one must be waited for. A word that names one tile twice
takes it in twice, as two readers (DESIGN CHOICE, log 21: the spec says only that the instruction counts as a reader). -/
def State.enterTiles (s : State) (p : PId) (mode : Nat) : List Nat → Option State
  | [] => some s
  | k :: t =>
    match ((s.proc p).tile k).enter mode with
    | some x => (s.setTile p k x).enterTiles p mode t
    | none => none

/-- The bytes of a tile. -/
def State.tileArray (s : State) (p : PId) (k : Nat) : Array Byte :=
  (s.tileRead p k (s.proc p).seq.band 0 (((s.proc p).tile k).size * 512)).toArray

def State.tileSmall (s : State) (p : PId) (k n : Nat) : Bool := decide (((s.proc p).tile k).size * 512 < n)

/-- Put a started word to work, for the band that the sequencer is bound to. -/
def State.addWork (s : State) (p : PId) (w : StreamWork) : State :=
  let (id, s) := s.fresh
  s.modSeq p fun q => { q with work := q.work ++ [{ w with id := id, band := q.band }] }

/-- Tile states, then readiness, then the checks of the word: the first that fails gives its code. -/
def State.startOp (s : State) (p : PId) (q : Seq) (mode : Nat) (tiles : List Nat) (checks : List (Nat × Bool))
    (go : State → State) : XStep :=
  if tiles.any (s.foreignTile p q) then .fault 4
  else match s.enterTiles p mode tiles with
    | none => .wait s
    | some s' =>
      match checks.find? (·.2) with
      | some c => .fault c.1
      | none => .done (go s')

/-! XLDS, XSWP, XZERO (R278, R279). -/

def execXlds (ta : BitVec 6) (fmt : Fmt) (sa : Bool) (s : State) : Out :=
  s.runStream fun s p q =>
    let k := q.tileNo ta sa
    if !q.loaderFree then .wait s else
    s.startOp p q 1 [k] [(4, s.tileSmall p k (denseBytes fmt))] fun s =>
      let b := s.tileArray p k
      let plane : Plane := ⟨fmt, denseCodes fmt b (q.layout.getLsbD 2), denseScales fmt b⟩
      (s.addWork p { StreamWork.idle with tiles := [k] }).modSeq p fun q => { q with shadow := some plane }

def execXswp (s : State) : Out :=
  s.runStream fun s p q =>
    if !(q.loaderFree && q.arrayFree) then .wait s
    else .done (s.modSeq p fun q => { q with active := q.shadow, shadow := q.active })

def execXzero (ap : BitVec 3) (int sat : Bool) (s : State) : Out :=
  s.runStream fun s p q =>
    let a := ap.toNat
    if !q.settled a then .wait s
    else .done ((s.addWork p { StreamWork.idle with accs := [a], isZero := true }).modSeq p fun q =>
      { q with accs := q.accs.put a { AccTile.fresh with int := int, ovm := sat, wm := 0 } })

/-! XMMA, XMMS, XDUAL, XMOM (R264, R280 to R282). -/

/-- The pairs of formats the array accepts. -/
def pairOk (f g : Fmt) : Bool :=
  match f with
  | .e4m3 | .e5m2 => g == .e4m3 || g == .e5m2
  | .kf4 | .q4g => g == .kf4 || g == .q4g
  | .f16 | .bf16 | .i8 | .i4 => g == f
  | .f32 => false

def Fmt.isInt (f : Fmt) : Bool := f == .i8 || f == .i4

/-- The check of R264 for a plane and one accumulator. -/
def formatBad (f : Fmt) (plane : Option Plane) (acc : AccTile) : Bool :=
  match plane with
  | none => true
  | some g => !pairOk f g.fmt || (acc.int && !Fmt.isInt f)

/-- The scale check of integer accumulation. -/
def scalesBad (acc : AccTile) (plane : Option Plane) (scales : List Nat) : Bool :=
  acc.int && ((scales.any (· != 0x7F00)) || (plane.elim [] (·.scales)).any (· != 0x7F00))

/-- Store the accumulators of a started array word, their watermarks at 0. -/
def State.putAccs (s : State) (p : PId) (tiles : List Nat) (fin : Bool) (accs : List (Nat × AccTile × List RowFlags)) : State :=
  (s.addWork p { StreamWork.idle with
      tiles := tiles, accs := accs.map (·.1), fin := fin, raises := accs.map fun x => (x.1, x.2.2) }).modSeq p fun q =>
    { q with accs := accs.foldl (fun (t : Tab Nat AccTile) x => t.put x.1 { x.2.1 with wm := 0 }) q.accs }

def execXmma (ta : BitVec 6) (ap : BitVec 3) (fmt : Fmt) (fin sa : Bool) (s : State) : Out :=
  s.runStream fun s p q =>
    let k := q.tileNo ta sa
    let a := ap.toNat
    if !(q.arrayFree && q.untouched a) then .wait s else
    let b := s.tileArray p k
    let acc := q.acc a
    s.startOp p q 1 [k]
      [(4, s.tileSmall p k (denseBytes fmt)), (5, formatBad fmt q.active acc), (6, scalesBad acc q.active (denseScales fmt b))]
      fun s =>
        let cols := flipRows ((q.active.map Plane.rows).getD [])
        s.putAccs p [k] fin [(a, acc.product (present (streamed fmt b (q.layout.getLsbD 0))) cols)]

def execXmms (ta : BitVec 6) (ap : BitVec 3) (fmt : Fmt) (fin sa : Bool) (s : State) : Out :=
  s.runStream fun s p q =>
    let k := q.tileNo ta sa
    let a := ap.toNat
    if !(q.arrayFree && q.untouched a) then .wait s else
    let b := s.tileArray p k
    let acc := q.acc a
    s.startOp p q 1 [k]
      [(4, s.tileSmall p k (sparseBytes fmt (livePos b).length)), (5, q.layout.getLsbD 0 || formatBad fmt q.active acc),
        (6, scalesBad acc q.active (sparseScales fmt b)), (5, !sparseOk fmt b)]
      fun s =>
        let cols := flipRows ((q.active.map Plane.rows).getD [])
        s.putAccs p [k] fin [(a, acc.product (sparseRows fmt b) cols)]

/-- The checks of the two-tile words: tile sizes, formats, two distinct FP36 accumulators. -/
def State.pairChecks (s : State) (p : PId) (q : Seq) (k l a c : Nat) (fmt : Fmt) : List (Nat × Bool) :=
  [(4, s.tileSmall p k (denseBytes fmt) || s.tileSmall p l (denseBytes fmt)),
    (5, a == c || (q.acc a).int || (q.acc c).int || formatBad fmt q.active (q.acc a))]

def execXdual (ta tb : BitVec 6) (ap aq : BitVec 3) (fmt : Fmt) (fin sa sb : Bool) (s : State) : Out :=
  s.runStream fun s p q =>
    let k := q.tileNo ta sa
    let l := q.tileNo tb sb
    let a := ap.toNat
    let c := aq.toNat
    if !(q.arrayFree && q.untouched a && q.untouched c) then .wait s else
    s.startOp p q 1 [k, l] (s.pairChecks p q k l a c fmt) fun s =>
      let x := streamed fmt (s.tileArray p k) (q.layout.getLsbD 0)
      let w := streamed fmt (s.tileArray p l) (q.layout.getLsbD 1)
      let dy := (q.active.map Plane.rows).getD []
      s.putAccs p [k, l] fin
        [(a, (q.acc a).product (present (flipRows x)) (flipRows dy)), (c, (q.acc c).product (present w) dy)]

def execXmom (ta tb : BitVec 6) (ap aq : BitVec 3) (fmt : Fmt) (fin sa sb : Bool) (s : State) : Out :=
  s.runStream fun s p q =>
    let k := q.tileNo ta sa
    let l := q.tileNo tb sb
    let a := ap.toNat
    let c := aq.toNat
    if !(q.arrayFree && q.untouched a && q.untouched c) then .wait s else
    let mu := streamed fmt (s.tileArray p k) (q.layout.getLsbD 0)
    let v := streamed fmt (s.tileArray p l) (q.layout.getLsbD 1)
    s.startOp p q 1 [k, l] (s.pairChecks p q k l a c fmt ++ [(7, v.any fun r => r.any negVar)]) fun s =>
      let cols := flipRows ((q.active.map Plane.rows).getD [])
      s.putAccs p [k, l] fin
        [(a, (q.acc a).product (present mu) cols),
          (c, (q.acc c).product (present v) (cols.map fun r => r.map fun x => (X.mul x x).1))]

/-! XOUT (R270, R283). -/

/-- The code of an element under FMT 0 to 2: with SATF a finite value that overflows gives the largest magnitude. -/
def outCode (f : Fmt) (mode : Rnd) (satf : Bool) (x : X) : Nat :=
  let r := f.round mode false 0 x
  match f.nf with
  | some n => if satf && x.isFin && r.2.getLsbD 2 then n.signBit x.neg? + n.maxCode else r.1
  | none => r.1

/-- The codes of a row under FMT 3 and 4, and the scales of its two blocks. -/
def outRow (f : Fmt) (mode : Rnd) (row : List X) : List Nat × List Nat :=
  let blk (k : Nat) : List Nat × Nat :=
    let v := (row.drop (32 * k)).take 32
    let sc := chooseScale f false v
    let w := (pack f sc mode false v 0 0).w
    (tabulate 32 fun i => elemCode f w.pay i, w.scale.toNat)
  ((blk 0).1 ++ (blk 1).1, [(blk 0).2, (blk 1).2])

/-- The bytes of a tile from its logical rows of codes of a width in bytes. -/
def tileImage (w : Nat) (tr : Bool) (rows : List (List Nat)) : List Byte :=
  let a := (rows.map List.toArray).toArray
  (List.range 4096).flatMap fun e =>
    let x := placeOf e
    let r := if tr then x.2 else x.1
    let c := if tr then x.1 else x.2
    toBytes w ((a.getD r #[]).getD c 0)

/-- Every entry, row by row. -/
def AccTile.entries (t : AccTile) : List (BitVec 36) :=
  (List.range 64).flatMap fun r => tabulate 64 fun c => t.entry r c

/-- The whole image XOUT writes. -/
def AccTile.drainImage (t : AccTile) (f : Fmt) (mode : Rnd) (satf tr : Bool) : List Byte :=
  let vals : List (List X) := tabulate 64 fun r => tabulate 64 fun c => t.value (t.entry r c)
  if t.int then tileImage 4 tr (tabulate 64 fun r => tabulate 64 fun c => t.int32 (t.entry r c))
  else if f.bits = 8 then
    let rows := vals.map (outRow f mode)
    tileImage 1 tr (rows.map (·.1)) ++ rows.flatMap fun r => r.2.flatMap fun s => toBytes 2 s
  else tileImage (f.bits / 8) tr (vals.map fun r => r.map (outCode f mode satf))

def drainMode (rnd : BitVec 2) : Rnd := match rnd.toNat with | 0 => .rn | 1 => .rz | 2 => .ru | _ => .rd

/-- The bytes XOUT writes in a format. -/
def drainBytes (f : Fmt) : Nat := if f.bits = 32 then 16384 else denseBytes f

def execXout (ta : BitVec 6) (ap : BitVec 3) (fmt : Fmt) (rnd : BitVec 2) (satf ne : Bool) (norm : BitVec 4) (sa : Bool)
    (s : State) : Out :=
  s.runStream fun s p q =>
    let k := q.tileNo ta sa
    let a := ap.toNat
    let acc := q.acc a
    let tro := q.layout.getLsbD 3
    if !(q.drainFree && q.settled a) then .wait s else
    s.startOp p q 0 [k]
      [(4, s.tileSmall p k (drainBytes fmt)),
        (5, (acc.int && (fmt != .f32 || ne)) || (tro && fmt.bits == 8) || (!acc.int && Fmt.isInt fmt))]
      fun s =>
        (s.tileWrite p k q.band 0 (acc.drainImage fmt (drainMode rnd) satf tro)).addWork p { StreamWork.idle with
          tiles := [k], accs := [a], writes := true, norm := norm.toNat, squares := if ne then acc.entries else [] }

/-- NORM_ACC: a square arrives at a norm register (R77, R270). -/
def execNormAcc (site k : Nat) (x : BitVec 36) (s : State) : Out := .next (s.setNorm site (k % 16) fun n => n.acc x)

/-! ARRAY_ROW_FINAL, STREAM_INSTR_COMPLETE (R263, R268). -/

/-- The next row of the array word that updates an accumulator is final: its flags stick, and with FIN the watermarks rise. -/
def execArrayRowFinal (p : PId) (acc : Nat) (s : State) : Out :=
  let q := (s.proc p).seq
  match q.work.find? fun w => w.isArray && w.accs.contains acc && decide (w.rows < 64) with
  | none => .next s
  | some w =>
    .next (s.modSeq p fun q =>
      let accs := w.raises.foldl (fun (t : Tab Nat AccTile) f => match f.2[w.rows]? with
        | some r => t.put f.1 ((t.get AccTile.fresh f.1).raiseRow r)
        | none => t) q.accs
      let accs := if w.fin then w.accs.foldl (fun (t : Tab Nat AccTile) (a : Nat) =>
          let x := t.get AccTile.fresh a
          t.put a { x with wm := max x.wm (w.rows + 1) }) accs else accs
      { q with
        accs := accs
        work := q.work.map fun x => if x.id = w.id then { x with rows := x.rows + 1 } else x })

/-- A word has finished its work: an XZERO raises its watermark, tiles are released, and a sequencer whose band has ended
becomes UNBOUND when nothing is left. -/
def execStreamInstrComplete (p : PId) (id : Nat) (s : State) : Out :=
  match (s.proc p).seq.work.find? (·.id == id) with
  | none => .next s
  | some w =>
    if (w.isArray && decide (w.rows < 64)) || !w.squares.isEmpty then .next s else
    let s := s.modSeq p fun q =>
      let q := { q with work := q.work.filter (·.id != id) }
      let q : Seq := if w.isZero then { q with accs := w.accs.foldl (fun (t : Tab Nat AccTile) (a : Nat) =>
          t.put a { t.get AccTile.fresh a with wm := 64 }) q.accs } else q
      if q.ending && q.work.isEmpty then q.unbind else q
    .next (w.tiles.foldl (fun s k => s.tileEnd p k w.band) s)

end Sys2Proof.Machine
end

