-- ==== Sys2Proof/Machine/Outside.lean ====
section
/-! DEFINITION. What comes from outside the wafer: packets of other wafers (R297) and the accesses of hosts (R373, R374). -/
namespace Sys2Proof.Machine

/-! Packets of other wafers (R297). -/

def hdr (h : BitVec 256) (hi lo : Nat) : Nat := (h.extractLsb' lo (hi + 1 - lo)).toNat

/-- A header that R297 discards. That a CLASS of 3 and an OP above 13, which the layout reserves, are discarded with those whose
VER or reserved bits are wrong is the model's choice (log 30). -/
def badHeader (h : BitVec 256) : Bool :=
  hdr h 255 252 != 1 || hdr h 145 128 != 0 || hdr h 215 208 / 8 != 0 || hdr h 251 250 == 3 || decide (13 < hdr h 249 244)

/-- A packet for a port processor or a bank, from the header; what a receiver reads as the TAG of a DATA packet, and the fallback
word of a REDUCE, have no place in the header of R297 and are open (log 2). DESIGN CHOICE (log 30): the header gives no scope and no
source port processor; the packet's receiver acquires at SYS, and port processor 0, number 97, of the source site stands for its
sender, so that the TAG of a redirected REDUCE reads 0 in bits 8:6. -/
def extPacket (h : BitVec 256) (payload : List Byte) (n : Nat) : Option Packet :=
  let src : PId := ⟨hdr h 207 191 * 64 + hdr h 190 185, 97⟩
  let site := hdr h 184 168 * 64 + hdr h 167 162
  let a := hdr h 63 0
  let free := (Config.freeWord n).toNat
  let pp : PId := ⟨site, 97 + a / 2 ^ 23 % 8⟩
  let mk (k : PktKind) (dst : PId) (c : Nat) : Packet :=
    { packetOf k (hdr h 161 146) src 0 dst c payload none 3 with ver := BitVec.ofNat 16 (hdr h 239 224), hop := site }
  match hdr h 249 244 with
  | 7 => some (mk (.data (free % 2 ^ 32)) pp (a / 2 ^ 26 % 64))
  | 8 =>
    if (hdr h 215 208).testBit 2 then some (mk (.redirected (hdr h 190 185)) pp (a / 2 ^ 26 % 64))
    else some (mk (.reduce ((hdr h 215 208).testBit 1) a (free % 2 ^ 32)) ⟨site, 127⟩ 0)
  | 9 => some (mk (.chunk (free % 2 ^ 32) payload.isEmpty) pp (a / 2 ^ 26 % 64))
  | 10 => some (mk (.desc (free % 2 ^ 32)) pp 0)
  | 11 => some (mk (.done (a % 2 ^ 32) (BitVec.ofNat 64 (ofBytes payload))) pp 0)
  | 13 => some (mk (.abort (free % 2 ^ 32)) pp 0)
  | _ => none

/-- The window check of an access that comes from another wafer, to bytes of the site it arrives at (R26, R196). -/
def State.extMay (s : State) (site : Nat) (h : BitVec 256) (n : Nat) (k : AccKind) : Bool :=
  let pa := hdr h 63 0
  paSite pa == site && n != 0 && (paRegion pa n).isSome && s.windowOk (hdr h 190 185) (hdr h 207 191) (hdr h 161 146) pa n k

/-- A put of another wafer at its home. -/
def State.extPut (s : State) (site : Nat) (h : BitVec 256) (payload : List Byte) : State :=
  let pa := hdr h 63 0
  let n := payload.length
  if !s.extMay site h n .write then s
  else if isControl pa then s.ctlStore (paSite pa) (paLocal pa) none payload (n / 8)
  else s.writeMem pa payload false

/-- `n` bytes the spec gives no value, from draw `m` on. -/
def freeBytes (m n : Nat) : List Byte :=
  (List.range n).map fun i => ((Config.freeWord (m + i / 8)).extractLsb' (i % 8 * 8) 8)

/-- An atomic of another wafer at its home: which operation it asks for stands nowhere in the header of R297, and what it leaves
is open (log 2). -/
def State.extAtomic (s : State) (site : Nat) (h : BitVec 256) (payload : List Byte) (m : Nat) : State :=
  let pa := hdr h 63 0
  let n := payload.length
  if !s.extMay site h n .rmw || isControl pa || s.poisoned pa n then s else s.writeMem pa (freeBytes m n) false

/-- A packet comes in over the external plane into the receiving buffers of an endpoint, which has room for it (R288). -/
def State.enterSill (s : State) (site : Nat) (k : Packet) : State := s.emitPacket { k with hop := site, wire := some (sillIn site) }

/-- A multicast put of another wafer at its ingress site, which sends a copy to each destination as forward-class packets
(R309); which sites its sender marked stands nowhere in the header of R297, and they are open (log 2). -/
def State.extMulticast (s : State) (site : Nat) (h : BitVec 256) (payload : List Byte) (m : Nat) : State :=
  let src : PId := ⟨hdr h 207 191 * 64 + hdr h 190 185, 127⟩
  let base := site / 64 * 64
  let l := ((List.range 64).filter fun i => (Config.freeWord m).getLsbD i).map fun i => mkPa (base + i) (paLocal (hdr h 63 0))
  if l.isEmpty then s else
  let (id, s) := s.fresh
  let s : State := { s with stores := s.stores ++
    [⟨id, ⟨src, 0, 0⟩, 0, hdr h 161 146, 0, 0, payload, .multi (l.map (·, site)), 0, none, none, false, false, false, []⟩] }
  s.enterSill site { packetOf (.multi id l) (hdr h 161 146) src 0 ⟨paSite (l.headD 0), 127⟩ 0 payload none 0 with
    ver := BitVec.ofNat 16 (hdr h 239 224), fwd := true }

/-- A request of a reticle to bytes of another wafer that an answer from there can be for: the oldest that waits for them. -/
def State.extWaiter (s : State) (site : Nat) (h : BitVec 256) : Option Req :=
  let pa := hdr h 63 0
  s.reqs.find? fun r => r.t.p.site == site && r.waiting && s.wayOf r.t.p r.ctx (.access r.id pa) pa != .unasked &&
    match r.parts.find? (·.got.isNone) with | some x => x.pa == pa | none => false

/-- A store of a reticle to an address of another wafer: the oldest under way. -/
def State.extStore (s : State) (site : Nat) (h : BitVec 256) : Option Store :=
  s.stores.find? fun x => x.t.p.site == site && x.t.p.core != 127 && !x.done && x.targets.contains (hdr h 63 0)

/-- A PSEND of a reticle to another wafer: the oldest whose packet is under way. -/
def State.extSend (s : State) (site : Nat) (h : BitVec 256) : Option Packet :=
  s.packets.find? fun k => k.src.site == site && k.dst.site == hdr h 207 191 * 64 + hdr h 190 185 &&
    match k.kind, k.req with | .data _, some _ | .reduce _ _ _, some _ => true | _, _ => false

/-- Get data, or the result of an atomic, comes from another wafer: the request that waits for these bytes has them. An atomic has
been performed there. -/
def State.extData (s : State) (site : Nat) (h : BitVec 256) (payload : List Byte) (atomic : Bool) : State :=
  let pa := hdr h 63 0
  match s.extWaiter site h with
  | none => s
  | some r => match r.kind, (r.parts.zipIdx).find? (·.1.got.isNone) with
    | .load k _, some (x, i) =>
      if k.isAtomic != atomic || x.n != payload.length then s else
      let s := s.dropWays r.t.p r.ctx (· == .access r.id pa)
      (if atomic then s.writeMem pa (k.after payload) false else s).served r i payload false
    | _, _ => s

/-- An acknowledgement comes from another wafer: the store has been performed there, or the PSEND's packet accepted. -/
def State.extAck (s : State) (site : Nat) (h : BitVec 256) : State :=
  let pa := hdr h 63 0
  match s.extStore site h with
  | some x =>
    let s := s.dropWays x.t.p x.ctx (· == .access x.id pa)
    let s := if isControl pa then s.ctlStore (paSite pa) (paLocal pa) (some x.t.p) x.data (x.data.length / 8)
      else s.writeMem pa (x.kind.apply x.data (Memory.read s.mem pa x.size)) x.poison
    s.endTargets x.id [pa] false
  | none => match s.extSend site h with
    | some k => s.settlePacket k 0
    | none => s

/-- A negative acknowledgement comes from another wafer. Its code has no place in the header of R297 and is open (log 2). -/
def State.extNack (s : State) (site : Nat) (h : BitVec 256) (m : Nat) : State :=
  let pa := hdr h 63 0
  match s.extStore site h, s.extWaiter site h, s.extSend site h with
  | some x, _, _ => (s.dropWays x.t.p x.ctx (· == .access x.id pa)).loseStore x pa
  | none, some r, _ => (s.dropWays r.t.p r.ctx (· == .access r.id pa)).loseReq r
  | none, none, some k => s.settlePacket k ((Config.freeWord m).toNat % 5 + 1)
  | none, none, none => s

/-- EXT_PACKET_RECEIVE: puts, atomics and multicast puts act at their homes, port-processor packets enter the fabric here, and an
answer (get data, an atomic's result, an acknowledgement, a NACK) reaches what waits for it. DESIGN CHOICE (log 30): the header's SEQ
is of a flow of which the spec says no more, so an answer is for the oldest request to its address. A get leaves no trace but its
answer, which goes out. -/
def execExtPacketReceive (site : Nat) (uud : Bool) (header : BitVec 256) (payload : List Byte) (s : State) : Out :=
  if !s.sillUp site then .next s
  else if uud ∨ badHeader header then .next (s.logErr site 7 1 0 127 0 0 (site % 64) 0 1 0)
  else
    let n := s.freeCtr
    let s : State := { s with freeCtr := n + payload.length / 8 + 1 }
    match hdr header 249 244 with
    | 0 => .next (s.extPut site header payload)
    | 2 => .next (s.extData site header payload false)
    | 3 => .next (s.extAtomic site header payload n)
    | 4 => .next (s.extData site header payload true)
    | 5 => .next (s.extAck site header)
    | 6 => .next (s.extMulticast site header payload n)
    | 12 => .next (s.extNack site header n)
    | _ => match extPacket header payload n with
      | none => .next s
      | some k => .next (if s.sillRoom k site then s.enterSill site k else s)

/-! Hosts (R373, R374). -/

/-- The host-table entry of a job at an endpoint: its number, context and wafer. -/
def State.hostEntry (s : State) (site job : Nat) : Option (Nat × Nat × Nat) :=
  let q := s.site site
  ((List.range 16).find? fun k =>
    (q.hosts.get 0 (2 * k + 1)).getLsbD 63 && bitsOf (q.hosts.get 0 (2 * k)) 23 0 == job % 2 ^ 24).map fun k =>
      let hi := q.hosts.get 0 (2 * k + 1)
      (k, bitsOf hi 31 16, bitsOf hi 55 39)

/-- How a host access fares at its endpoint: it goes to its target as a context, under a connection; it is discarded, no entry
matching its job; or it is refused. -/
inductive HostRes where
  | pass (ctx : Nat) (conn : TId)
  | discard
  | refused
  deriving DecidableEq, Repr

/-- An endpoint serves the host while its link is up and the wafer released; from the alarm on it refuses all but reads of the
identity page and the alarm register (R380). A connection is one entry's traffic through one endpoint (R374); it bears the site of
the endpoint under the wafer identifier it is checked as. -/
def State.hostCheck (s : State) (site job : Nat) (a : Word) (n : Nat) (k : AccKind) : HostRes :=
  if !s.sillUp site ∨ !s.released then .refused else
  match s.hostEntry site job with
  | none => .discard
  | some (e, ctx, waf) =>
    let pa := a.toNat
    let calm := decide ((s.site site).alarm < 2) || (k == .read &&
      ((decide (0xF800000000 ≤ paLocal pa) && decide (paLocal pa + n ≤ 0xF800001000)) || (paLocal pa == 0xF8000A0200 && n == 8)))
    if calm && (paRegion pa n).isSome then .pass ctx ⟨⟨waf * 64 + site % 64, 127⟩, e, 0⟩ else .refused

/-- A discarded host access is logged. -/
def State.logHost (s : State) (site : Nat) (a : Word) : State :=
  s.logErr site 10 1 0 127 0 0 (site % 64) (BitVec.ofNat 64 (paLocal a.toNat)) 1 0

/-- A host's write or atomic sets out from its endpoint: a posted store of its connection, which the fabric carries like a core's
(R373). The store bears the number of its ROD message where a thread's bears a creation number (R374). -/
def State.hostSend (s : State) (site ctx : Nat) (conn : TId) (msg pa : Nat) (data : List Byte) (kind : StoreKind)
    (rel : Option Nat) : State :=
  let (id, s) := s.fresh
  let s : State := { s with stores := s.stores ++ [⟨id, conn, msg, ctx, 0, pa, data, kind, id, none, rel, false, false, false, []⟩] }
  if paSite pa = conn.p.site then s
  else s.emitPacket { accessPacket id pa ctx conn.p msg data with ver := (s.site site).active, hop := site }

/-- HOST_RDMA_WRITE: words of control space that it covers only in part are left (R25). `job` holds the job field
in its low 24 bits and above them the number of the write's message on a ROD connection, 0 on RUD (R374). -/
def execHostRdmaWrite (site job : Nat) (a : Word) (data : List Byte) (s : State) : Out :=
  let pa := a.toNat
  match s.hostCheck site job a data.length .write with
  | .discard => .next (s.logHost site a)
  | .refused => .next s
  | .pass ctx conn =>
    let skip := if isControl pa then (8 - pa % 8) % 8 else 0
    let whole := if isControl pa then (data.drop skip).take ((data.length - skip) / 8 * 8) else data
    if whole.isEmpty then .next s else .next (s.hostSend site ctx conn (job / 2 ^ 24) (pa + skip) whole .plain none)

/-- HOST_RDMA_READ: a relaxed load, whose bytes go to the host. -/
def execHostRdmaRead (site job : Nat) (a : Word) (n : Nat) (s : State) : Out :=
  match s.hostCheck site job a n .read with
  | .discard => .next (s.logHost site a)
  | _ => .next s

/-- HOST_RDMA_ATOMIC: a release at SYS scope, which waits for the earlier writes of its connection (R374). -/
def execHostRdmaAtomic (site job : Nat) (a : Word) (aop : BitVec 4) (w32 : Bool) (v : Word) (s : State) : Out :=
  let pa := a.toNat
  let n := if w32 then 4 else 8
  match s.hostCheck site job a n .rmw with
  | .discard => .next (s.logHost site a)
  | .refused => .next s
  | .pass ctx conn =>
    if pa % n ≠ 0 ∨ isControl pa ∨ 11 < aop.toNat then .next s
    else .next (s.hostSend site ctx conn 0 pa (toBytes n v.toNat) (.red aop.toNat w32) (some 3))

end Sys2Proof.Machine
end

