-- ==== Sys2Proof/Machine/System.lean ====
section
/-! DEFINITION. System instructions (R347 to R359): traps and their return, special registers and register windows (R98 to
R101, R334), counters, invalidations, the slot table's instructions, events, and the events of threads (R97, R111, R118,
R338, R392). -/
namespace Sys2Proof.Machine

/-! TRAP, BRK, ERET, HALT (R348, R349, R355). -/

def execTrap (b : BForm) (code : BitVec 24) (s : State) : Out :=
  .next (s.mapLanes fun f l =>
    if l.active && l.guard b.pn b.pr then l.trap f.idx 22 (code.setWidth 64) else l)

def execBrk (b : BForm) (code : BitVec 24) (s : State) : Out :=
  s.ending b.pn b.pr (fun _ e => if e.t.tst.getLsbD 1 then none else some (23, code.setWidth 64)) fun s e =>
    (s.holdThread e.tid 3).raiseTh e.tid 7 code.toNat

def execEret (b : BForm) (s : State) : Out :=
  s.ending b.pn b.pr (fun _ e => misTarget e.t.tp) fun s e => s.eret e.tid

def execHalt (b : BForm) (s : State) : Out :=
  s.ending b.pn b.pr noCheck fun s e => (s.holdThread e.tid 2).raiseTh e.tid 6 0

/-! Special registers (R334, R350). -/

/-- What GETS reads. -/
def State.sysReg (s : State) (tid : TId) (t : Thread) (n : Nat) : Word :=
  let q := s.site tid.p.site
  let x := (q.ctxIdx t.ctx).getD 0
  match n with
  | 32 => t.wst
  | 33 => t.wsp
  | 34 => t.seed
  | 35 => t.gsd
  | 36 => q.verWord
  | 37 => t.tst
  | 38 => (q.ctx x).tvec
  | 39 => (q.ctx x).ptroot
  | 40 => t.tk0
  | 41 => t.tk1
  | 42 => t.erec.word
  | 43 => t.prec.word
  | 44 => t.lnk
  | 56 => q.evs
  | n => if 48 ≤ n ∧ n ≤ 55 then ((s.proc tid.p).perfOf x (n - 48)).count else s.special tid t n

def execGets (b : BForm) (num : BitVec 12) (s : State) : Out :=
  .next (s.pureG b fun e => e.atStart.sysReg e.tid e.t num.toNat)

/-- A write of %mcov (R167). -/
def writeMcov (old v : Word) : Word :=
  let mode := if bitsOf v 1 0 = 3 then bitsOf old 1 0 else bitsOf v 1 0
  BitVec.ofNat 64 (boolN (v.getLsbD 8) * 256 + mode)

/-- A write of %mrho (R168): clamped to −1 to +1. -/
def writeMrho (v : Word) : Word :=
  let c := v.toNat % 2 ^ 32
  let x := f32 c
  if x.isNan || x.isZero then 0
  else if X.one.lt x then 0x3F800000
  else if x.lt X.one.negate then 0xBF800000
  else BitVec.ofNat 64 c

/-- A write of the random state (R82). -/
def writeSeed (v : Word) : Word := if v = 0 then 0x9E3779B97F4A7C15 else v

/-- SETS of a register held by the thread. -/
def Thread.setSys (t : Thread) (n : Nat) (v : Word) : Thread :=
  match n with
  | 19 => { t with mcov := writeMcov t.mcov v }
  | 20 => { t with mrho := writeMrho v }
  | 21 => { t with fcsr := writeFcsr t.fcsr v }
  | 22 => { t with tp := v }
  | 23 => { t with tc := v &&& 0x10FFF }
  | 24 => { t with ti := v }
  | 33 => { t with wsp := v &&& ~~~7#64 }
  | 34 => { t with seed := writeSeed v }
  | 35 => { t with gsd := v }
  | 37 => { t with tst := v &&& 3 }
  | 40 => { t with tk0 := v }
  | 41 => { t with tk1 := v }
  | 44 => { t with lnk := v }
  | _ => t

/-- SETS of the other registers at commit. -/
def State.setSys (s : State) (tid : TId) (n : Nat) (v : Word) : State :=
  if n = 36 then s.modSite tid.p.site fun q => q.writeVersion v
  else if 48 ≤ n ∧ n ≤ 55 then
    match (s.site tid.p.site).ctxIdx (s.th tid).ctx with
    | some x => s.modProc tid.p fun r => { r with perf := r.perf.put (x, n - 48) { r.perfOf x (n - 48) with count := v } }
    | none => s
  else s.modTh tid fun t => t.setSys n v

/-! Register windows (R99 to R101). -/

/-- Whether a deferred write to register `n` of a home frame lands in a saved frame's g8 to g23, as `Thread.frameWrite` places it
(R101). -/
def Thread.landsIn (t : Thread) (f : Frame) : Nat → Nat → Nat → Bool
  | 0, _, _ => false
  | fuel + 1, home, n =>
    if n < 8 ∨ home = t.fid then false
    else if 24 ≤ n ∧ t.parent = home then false
    else if n < 24 then
      if t.frames.any (·.fid == home) then f.fid == home
      else match t.closed.find? (·.1 == home) with
        | some (_, up) => decide (n < 16) && t.landsIn f fuel up (n + 16)
        | none => false
    else f.parent == home

/-- The g registers that a deferred instruction will write. -/
def Req.gDsts (r : Req) : List Nat :=
  match r.kind with
  | .load (.scalar _ _ d) _ | .load (.atom _ _ _ d) _ | .load (.cas _ _ _ d) _ | .acwm _ _ d | .drain _ d _ _ | .engine _ d
  | .coll d _ _ | .psend d | .precv d | .port d _ _ _ => [d]
  | _ => ((r.resp.getD []).filterMap fun w => match w with | .g n _ => some n | _ => none)

/-- Whether a deferred write to a frame about to be spilled is still pending (R101): to its g8 to g23. -/
def State.spillHeld (s : State) (tid : TId) (t : Thread) (f : Frame) : Bool :=
  s.reqs.any fun r => r.t == tid && r.gen == t.gen && r.gDsts.any fun n => t.landsIn f (t.closed.length + 1) r.fid n

/-- A lane's view of a thread outside any clause. -/
def Env.at (s : State) (tid : TId) : Env :=
  let t := s.th tid
  ⟨s, ⟨tid.p, tid.slot, t.pc, ⟨.y, 0, 0, false, false⟩, [], 0, [], s.tick⟩,
    ⟨tid.lane, t, [none, none, none, none], [], [], 0, t.seed, none, false, false, false⟩⟩

/-- The spill command over the saved frames, the count in memory and the pointer of a thread. -/
def State.spillCmd (s : State) (e : Env) (spilled : Nat) : LRes × State :=
  let sets (s : State) : State := s.modTh e.tid fun t => { t with spilled := spilled }
  match e.t.frames.getLast? with
  | none => (.ok sets, s)
  | some f =>
    if spilled = 65535 then (.ok sets, s)
    else if s.spillHeld e.tid e.t f then (.wait, s)
    else
      let words := f.regs.toList ++ [f.lnk]
      match s.storeParts e none (words.zipIdx.map fun x => (e.t.wsp + BitVec.ofNat 64 (8 * x.2), toBytes 8 x.1.toNat)) with
      | (.trap c i, s) => (.trap c i, s)
      | (.dead, s) => (.dead, s)
      | (.wait, s) => (.wait, s)
      | (.ok es, s) => (.ok fun s =>
          (s.modTh e.tid fun t =>
            { t with frames := t.frames.dropLast, spilled := spilled + 1, wsp := t.wsp + 136 }).enact e.tid (.store es none), s)

/-- The fill command. -/
def State.fillCmd (s : State) (e : Env) (spilled : Nat) : LRes × State :=
  let sets (s : State) : State := s.modTh e.tid fun t => { t with spilled := spilled }
  if e.t.frames.length = 6 ∨ spilled = 0 then (.ok sets, s)
  else
    let base := e.t.wsp - 136
    match s.readVirt e.tid e.t.ctx e.l.queued base 136 with
    | (.trap c i, s) => (.trap c i, s)
    | (.dead, s) => (.dead, s)
    | (.wait, s) => (.wait, s)
    | (.ok b poison, s) =>
      if poison then (.later base, s)
      else (.ok fun s =>
        let (id, s) := s.fresh
        s.modTh e.tid fun t =>
          let own := match t.frames.getLast? with | some f => f.parent | none => t.parent
          let f : Frame := ⟨own, id, Vector.ofFn fun k : Fin 16 => wordAt b k.val, wordAt b 16⟩
          { t with frames := t.frames ++ [f], spilled := spilled - 1, wsp := base }, s)

/-- A write of %wst: SPILLED first, then the command. -/
def State.writeWst (s : State) (e : Env) (v : Word) : LRes × State :=
  let n := bitsOf v 31 16
  match bitsOf v 63 62 with
  | 1 => s.spillCmd e n
  | 2 => s.fillCmd e n
  | _ => (.ok fun s => s.modTh e.tid fun t => { t with spilled := n }, s)

def execSets (b : BForm) (num : BitVec 12) (s : State) : Out :=
  .next (s.runLanes b.pn b.pr id fun s e =>
    if num.toNat = 32 then s.writeWst e (e.g b.a)
    else (.ok fun s => s.setSys e.tid num.toNat (e.g b.a), s))

/-- A command of the window state register applied to a thread at a clause boundary; a fault changes nothing, and of one that waits
only the requests it sent stand. -/
def State.windowCmd (s : State) (t : TId) (cmd : State → Env → LRes × State) : State :=
  if (s.th t).st = .free ∨ s.inFlight t then s
  else match cmd s (Env.at s t) with
    | (.ok go, s) => (go s).dropAsks t
    | (.wait, s) => s
    | (_, s) => s.dropAsks t

def execWindowSpill (t : TId) (s : State) : Out := .next (s.windowCmd t fun s e => s.spillCmd e e.t.spilled)
def execWindowFill (t : TId) (s : State) : Out := .next (s.windowCmd t fun s e => s.fillCmd e e.t.spilled)

/-! TIME, PERF (R351, R352). TIME, like a read of %clk, gives the count as it stood at the clause's start (R34). -/

def execTime (b : BForm) (s : State) : Out := .next (s.pureG b fun e => e.atStart.waferTime)

def execPerf (b : BForm) (counter : BitVec 3) (clr : Bool) (s : State) : Out :=
  s.ending b.pn b.pr noCheck fun s e =>
    let v := e.g b.a
    match (s.site e.p.site).ctxIdx e.t.ctx with
    | none => s
    | some x =>
      let n := bitsOf v 7 0
      let zero (t : Tab (Nat × Nat) Perf) (k : Nat) : Tab (Nat × Nat) Perf :=
        let c : Perf := { t.get ⟨0, false, 0⟩ (x, k) with count := 0 }
        if v.getLsbD k then t.put (x, k) c else t
      s.modProc e.p fun r =>
        let c : Perf := { r.perfOf x counter.toNat with event := n, en := v.getLsbD 8 && decide (n ≤ 11) }
        { r with perf := if clr then (List.range 8).foldl zero r.perf else r.perf.put (x, counter.toNat) c }

/-! ICINV, TLBI (R353, R354). -/

/-- The hold of an invalidation: the thread's earlier stores first, so that what it dropped is fetched or walked anew. -/
def invHold (s : State) : Hold := { Hold.empty with acked := true, before := s.nextId + 1 }

def execIcinv (b : BForm) (all ret : Bool) (s : State) : Out :=
  s.ending b.pn b.pr noCheck fun s e =>
    let range := if all then none else some (e.g b.a, bitsOf (e.g b.b) 31 0)
    let h : Hold := { invHold s with icinv := some (ret, range) }
    s.modTh e.tid fun th => { th with hold := h }

def execTlbi (b : BForm) (kind : BitVec 2) (waf : Bool) (s : State) : Out :=
  s.ending b.pn b.pr noCheck fun s e =>
    let h : Hold := { invHold s with tlbi := some (kind, e.g b.a, waf) }
    s.modTh e.tid fun th => { th with hold := h }

/-- The translation of a page of an instruction range, as code or else as data. -/
def State.icXlat (s : State) (p : PId) (ctx : Nat) (va : Word) : Xlat × State :=
  match s.translate p ctx va .fetch with
  | (.trap _, s) => s.translate p ctx va .read
  | r => r

/-- Lines of an instruction range: the physical lines of its pages that translate, once no walk for them is on its way. -/
def State.icLines (s : State) (p : PId) (ctx : Nat) : List (Word × Nat) → Option (List (Nat × Nat)) × State
  | [] => (some [], s)
  | (va, n) :: rest =>
    let (ls, s) := s.icLines p ctx rest
    match s.icXlat p ctx va with
    | (.wait, s) => (none, s)
    | (.ok pa _, s) => (ls.map fun l => (lineOf pa, lineOf (pa + n - 1)) :: l, s)
    | (_, s) => (ls, s)

/-- The lines that an invalidation of a range drops; one of everything looks nothing up. -/
def State.icDrops (s : State) (p : PId) (ctx : Nat) : Option (Word × Nat) → Option (List (Nat × Nat)) × State
  | none => (some [], s)
  | some (va, n) => s.icLines p ctx (pagePieces (n / 8192 + 2) va n)

/-- ICINV_COMPLETE. -/
def execIcinvComplete (t : TId) (s : State) : Out :=
  let th := s.th t
  match th.hold.icinv with
  | none => .next s
  | some (ret, range) =>
    let rest := { th.hold with icinv := none }
    if th.st = .free ∨ !s.holdMet t { th with hold := rest } then .next s
    else match s.icDrops t.p th.ctx range with
      | (none, s) => .next s
      | (some ls, s) =>
        let drop (l : List Copy) : List Copy :=
          if range.isNone then [] else l.filter fun c => !(ls.any fun x => decide (x.1 ≤ c.line) && decide (c.line ≤ x.2))
        let s : State := { s with procs := s.procs.map fun p =>
          if p.1 = t.p ∨ (ret ∧ p.1.site = t.p.site) then (p.1, { p.2 with icl := drop p.2.icl }) else p }
        .next ((s.setTh t { th with hold := rest }).settle t)

/-- TLBI_COMPLETE. -/
def execTlbiComplete (t : TId) (s : State) : Out :=
  let th := s.th t
  match th.hold.tlbi with
  | none => .next s
  | some (kind, va, waf) =>
    let rest := { th.hold with tlbi := none }
    if th.st = .free ∨ !s.holdMet t { th with hold := rest } then .next s
    else
      let covers (gs : Nat) : Bool := gs == t.p.site || (waf && isCompute gs && siteWaf gs == siteWaf t.p.site)
      let s : State := { s with
        procs := s.procs.map fun p =>
          if covers p.1.site then (p.1, { p.2 with tlb := dropTlb kind th.ctx va p.2.tlb }) else p
        sites := s.sites.map fun q =>
          if covers q.1 then (q.1, { q.2 with stlb := dropTlb kind th.ctx va q.2.stlb }) else q }
      .next ((s.setTh t { th with hold := rest }).settle t)

/-! SLOTW (R329, R332, R356). -/

/-- The first code that applies, for a record and the launch record a bind names. -/
def State.slotwCode (s : State) (gs : Nat) (rcd launch : List Byte) : Nat :=
  let f := fieldAt rcd
  let p : PId := ⟨gs, f 1 1⟩
  let ctx := f 6 2
  let e := f 2 1
  let r := s.proc p
  let st := (r.entry e).st
  let loading := match r.move with | some m => m.load && m.entry == e | none => false
  let place := match kindOf p with | .core => usable p | .port => usable p && ctx == 0 | _ => false
  let l := fieldAt launch
  if !zeroAt rcd 13 16 || !zeroAt rcd 24 32 || decide (4 < f 0 1) || !place || decide (31 < e) || decide (7 < f 3 1) then 6
  else if ((s.site gs).liveCtx ctx).isNone then 3
  else if (match f 0 1 with
      | 0 => st != ESt.empty || loading
      | 1 => st != ESt.active
      | 2 => !(st == ESt.wait || st == ESt.done)
      | _ => st == ESt.empty) then 1
  else if f 0 1 ≠ 0 then 0
  else if f 5 1 < f 4 1 ∨ 15 < f 5 1 ∨ (kindOf p = .core ∧ r.hres ∧ r.hlo ≤ f 5 1) then 2
  else if !recordValid launch ∨ l 8 2 ≠ ctx ∨ l 11 1 ≤ f 12 1 ∨ f 5 1 - f 4 1 + 1 ≠ l 13 1 then 4
  else 0

/-- The entry of an accepted bind. -/
def bindEntry (rcd launch : List Byte) : Entry :=
  let f := fieldAt rcd
  { Entry.empty with
    prio := f 3 1, slo := f 4 1, shi := f 5 1, ctx := f 6 2, quantum := f 8 4, c := f 12 1, launch := f 16 8, record := launch }

/-- What an accepted SLOTW does (R332). -/
def State.slotwDo (s : State) (gs : Nat) (rcd launch : List Byte) : State :=
  let f := fieldAt rcd
  let p : PId := ⟨gs, f 1 1⟩
  let e := f 2 1
  let r := s.proc p
  match f 0 1 with
  | 0 => ((s.setEntry p e (bindEntry rcd launch)).moveEntry p e .wait).contend p
  | 1 => s.stopEntry p e
  | 2 => s.moveEntry p e .empty
  | 3 => s.killEntry p e
  | _ => (s.setEntry p e { r.entry e with prio := f 3 1, quantum := f 8 4 }).contend p

/-- A physical read of the framer (R356), as a read of its thread: bytes with the stores the thread sees (R36, R201), or the
fault of the address. -/
def State.readPhys (s : State) (e : Env) (pa n : Nat) : RV × State :=
  let va : Word := BitVec.ofNat 64 pa
  if (paRegion pa n).isNone then (.trap 8 va, s)
  else match s.verdict e.tid 0 pa n .read with
    | (.fail, s) => (.trap 11 va, s)
    | (.wait, s) => (.wait, s)
    | (.pass, s) => s.readHere e.tid e.l.queued pa n

/-- SLOTW for the operations `mine` answers for; another OP leaves the lane where it stands. -/
def State.slotw (s : State) (b : BForm) (mine : Nat → Bool) : State :=
  s.runLanes b.pn b.pr id fun s e =>
    let va := e.g b.a
    match s.readVirt e.tid e.t.ctx e.l.queued va 32 with
    | (.trap c i, s) => (.trap c i, s)
    | (.dead, s) => (.dead, s)
    | (.wait, s) => (.wait, s)
    | (.ok rcd poison, s) =>
      if poison then (.later va, s)
      else if !mine (fieldAt rcd 0 1) then (.dead, s)
      else
        let fin (launch : List Byte) : LRes := .ok fun s =>
          let c := s.slotwCode e.p.site rcd launch
          let s := if c = 0 then s.slotwDo e.p.site rcd launch else s
          s.putG e.tid b.dst (BitVec.ofNat 64 c)
        if fieldAt rcd 0 1 ≠ 0 then (fin [], s)
        else match s.readPhys e (fieldAt rcd 16 8) 256 with
          | (.trap c i, s) => (.trap c i, s)
          | (.dead, s) => (.dead, s)
          | (.wait, s) => (.wait, s)
          | (.ok l poison, s) => if poison then (.later (BitVec.ofNat 64 (fieldAt rcd 16 8)), s) else (fin l, s)

def execSlotwBind (b : BForm) (s : State) : Out := .next (s.slotw b fun op => op == 0 || decide (4 < op))
def execSlotwStop (b : BForm) (s : State) : Out := .next (s.slotw b fun op => op == 1)
def execSlotwRelease (b : BForm) (s : State) : Out := .next (s.slotw b fun op => op == 2)
def execSlotwKill (b : BForm) (s : State) : Out := .next (s.slotw b fun op => op == 3)
def execSlotwSet (b : BForm) (s : State) : Out := .next (s.slotw b fun op => op == 4)

/-! CTXSAVE, CTXLOAD (R358). -/

/-- Whether the windows pass the copy of an image (R358), asked before the commit. -/
def State.imageVerdict (s : State) (e : Env) (a : Nat) (k : AccKind) : Verd × State :=
  if imagePlace a then s.verdict e.tid 0 a imageSize k else (.fail, s)

/-- Start a copy at commit, or answer with a code. -/
def State.ctxsave (s : State) (e : Env) (ref image : Word) (ok : Bool) : Word × State :=
  let p : PId := ⟨e.p.site, bitsOf ref 6 0⟩
  let n := bitsOf ref 12 8
  let r := s.proc p
  if ref.toNat / 2 ^ 13 ≠ 0 ∨ ref.getLsbD 7 ∨ (r.entry n).st ≠ .stopped ∨ (r.entry n).killing then (1, s)
  else if image.toNat % 4096 ≠ 0 ∨ !ok then (2, s)
  else
    let (id, s) := s.fresh
    (0, s.setProc p { r with move := some ⟨n, image.toNat, false, false, (r.entry n).ctx, id⟩ })

def execCtxsave (b : BForm) (s : State) : Out :=
  .next (s.runLanes b.pn b.pr id fun s e =>
    let p : PId := ⟨e.p.site, bitsOf (e.g b.a) 6 0⟩
    if (s.proc p).move.isSome then (.wait, s)
    else match s.imageVerdict e (e.g b.b).toNat .write with
      | (.wait, s) => (.wait, s)
      | (v, s) => (.ok fun s => let r := s.ctxsave e (e.g b.a) (e.g b.b) (v == .pass); r.2.putG e.tid b.dst r.1, s))

def State.ctxload (s : State) (e : Env) (rcd : List Byte) (image : Word) (ok : Bool) : Word × State :=
  let gs := e.p.site
  let f := fieldAt rcd
  let p : PId := ⟨gs, f 1 1⟩
  let n := f 2 1
  let a := image.toNat
  -- the record passes R356 but for the launch record it does not name
  let c := s.slotwCode gs rcd []
  let im (off k : Nat) : Nat := ofBytes (s.imageBytes a off k)
  if f 0 1 ≠ 0 ∨ f 16 8 ≠ 0 ∨ !(c == 0 || c == 4) then (1, s)
  else if a % 4096 ≠ 0 ∨ !ok then (2, s)
  else if s.loadClash p (f 6 2) a then (3, s)
  else if im 0x200 4 ≠ 1 ∨ im 0x204 2 ≠ f 6 2 ∨ im 0x206 1 ≠ f 4 1 ∨ im 0x207 1 ≠ f 5 1 then (4, s)
  else
    -- the entry reads EMPTY until the copy is done
    let s := s.setEntry p n (bindEntry rcd [])
    let (id, s) := s.fresh
    let s := s.modProc p fun r => { r with move := some ⟨n, a, true, false, f 6 2, id⟩ }
    (0, s.loadUnits p n (f 6 2) a)

def execCtxload (b : BForm) (s : State) : Out :=
  .next (s.runLanes b.pn b.pr id fun s e =>
    let va := e.g b.a
    match s.readVirt e.tid e.t.ctx e.l.queued va 32 with
    | (.trap c i, s) => (.trap c i, s)
    | (.dead, s) => (.dead, s)
    | (.wait, s) => (.wait, s)
    | (.ok rcd poison, s) =>
      if poison then (.later va, s)
      else if (s.proc ⟨e.p.site, fieldAt rcd 1 1⟩).move.isSome then (.wait, s)
      else match s.imageVerdict e (e.g b.b).toNat .read with
        | (.wait, s) => (.wait, s)
        | (v, s) => (.ok fun s => let r := s.ctxload e rcd (e.g b.b) (v == .pass); r.2.putG e.tid b.dst r.1, s))

/-! WAITEV (R359). -/

/-- A thread that takes a LAUNCH word acquires the watched access, and what it carries, at SYS scope (R375). -/
def State.takeEvent (s : State) (t : TId) (w : Word) : State := if bitsOf w 63 58 = 1 then s.acquire t 3 else s

def execWaitev (b : BForm) (s : State) : Out :=
  s.ending b.pn b.pr noCheck fun s e =>
    match (s.site e.p.site).events with
    | w :: rest => ((s.modSite e.p.site fun q => { q with events := rest }).putG e.tid b.dst w).takeEvent e.tid w
    | [] => s.park e.tid (.event b.dst.toNat)

/-- The framer threads parked in WAITEV, oldest first. -/
def State.eventWaiters (s : State) (gs : Nat) : List (TId × Nat) :=
  let l := (s.liveThreads (framerOf gs)).filterMap fun x =>
    match x.2.st, x.2.wait with
    | .parked, .event d => some (x.1, d, x.2.age)
    | _, _ => none
  (sortBy (fun a b => decide (a.2.2 < b.2.2 ∨ (a.2.2 = b.2.2 ∧ a.1.slot ≤ b.1.slot))) l).map fun x => (x.1, x.2.1)

/-- Hand the oldest word to the oldest waiter. -/
def State.serveEvent (s : State) (gs : Nat) : State :=
  match (s.site gs).events, s.eventWaiters gs with
  | w :: rest, (t, d) :: _ =>
    (((s.modSite gs fun q => { q with events := rest }).modTh t fun th => th.setG d w).takeEvent t w).wake t
  | _, _ => s

/-! Events of threads. -/

/-- The pending trap delivered next (R338): the lowest code, the oldest of it. -/
def nextPend : List Pend → Option Pend
  | [] => none
  | x :: t => match nextPend t with
    | some y => if y.cause < x.cause then some y else some x
    | none => some x

/-- ASYNC_TRAP_DELIVERY (R338): at the thread's clause header, with index 0; a part of the error record is read and cleared
at its delivery (R198). -/
def execAsyncTrapDelivery (t : TId) (s : State) : Out :=
  let th := s.th t
  if th.st ≠ .ready ∨ s.inFlight t ∨ th.hold ≠ Hold.empty ∨ th.tst.getLsbD 0 then .next s
  else match nextPend th.pend with
    | none => .next s
    | some x =>
      if s.vectorWaits t x.cause ∨ (s.readVector t x.cause).1 = .dead then .next (s.readVector t x.cause).2
      else
        let info := if !x.ofRec then x.info else if x.cause = 11 then th.erec.word else th.prec.word
        let th := { th with
          pend := th.pend.erase x
          erec := if x.ofRec ∧ x.cause = 11 then ⟨0, 0⟩ else th.erec
          prec := if x.ofRec ∧ x.cause ≠ 11 then ⟨0, 0⟩ else th.prec }
        .next ((s.setTh t th).deliver t x.cause 0 info true)

/-- SLEEP_WAKE (R117, R118). -/
def execSleepWake (t : TId) (s : State) : Out :=
  match (s.th t).wait with
  | .sleep d => if (s.th t).isParked && decide (d ≤ s.cycles t.p) then .next (s.wake t) else .next s
  | _ => .next s

/-- STARVATION (R97), in cycles of the processor's own clock (R10). -/
def execStarvation (t : TId) (s : State) : Out :=
  let th := s.th t
  match th.cand with
  | some since =>
    if th.starved.isNone ∧ 4096 ≤ procSpan t.p since s.tick then .next (s.setTh t { th with starved := some s.tick }) else .next s
  | none => .next s

/-! The truss (R110, R111, R392). -/

/-- The cores of the wafer that participate in a channel: by their mask bit, or by an arrival that counts as a participant's though
the bit was cleared later (R112, R360). -/
def State.trussCores (s : State) (ch : Nat) : List PId :=
  s.reticles.flatMap fun gs =>
    ((List.range 96).filter fun k => ((s.site gs).mask ch).getLsbD k || (s.proc ⟨gs, k⟩).tpart.get false ch).map fun k => ⟨gs, k⟩

/-- Whether the crown may decide a release. -/
def State.trussReady (s : State) (ch : Nat) : Bool :=
  !(s.trel.any fun x => x.2 == ch) && !(s.trussCores ch).isEmpty &&
    (s.trussCores ch).all fun p => (s.proc p).tarr.get false ch

/-- TRUSS_RELEASE: the release is on its way to every core of the wafer. -/
def execTrussRelease (ch : BitVec 4) (s : State) : Out :=
  if s.trussReady ch.toNat then
    .next { s with trel := s.trel ++ s.reticles.flatMap fun gs => (List.range 96).map fun k => (⟨gs, k⟩, ch.toNat) }
  else .next s

/-- Mask words that stand written and not yet in effect take effect (R112). -/
def Site.nextMasks (q : Site) : Site :=
  { q with
    maskNext := []
    masks := q.maskNext.foldl (fun m x =>
      let old := m.get (BitVec.allOnes 96) x.1
      m.put x.1 (if x.2.1 then x.2.2.extractLsb' 0 32 ++ old.extractLsb' 0 64 else old.extractLsb' 64 32 ++ x.2.2)) q.masks }

/-- PART_MASK_WRITE (R112): the writes waiting for the bent's next edge take effect; the releases decided at that edge use the masks
as they stood. -/
def execPartMaskWrite (site : Nat) (s : State) : Out :=
  let s := ((s.site site).maskNext.map (·.1)).foldl (fun s ch => match execTrussRelease (BitVec.ofNat 4 ch) s with
    | .next s => s
    | _ => s) s
  .next (s.modSite site Site.nextMasks)

/-- TRUSS_RELEASE_ARRIVAL. -/
def execTrussReleaseArrival (p : PId) (ch : BitVec 4) (s : State) : Out :=
  if !s.trel.contains (p, ch.toNat) then .next s
  else
    let g := (s.proc p).tgen.get 0 ch.toNat + 1
    let s : State := { s with trel := s.trel.erase (p, ch.toNat) }
    let s := s.modProc p fun r => { r with tgen := r.tgen.put ch.toNat g, tarr := r.tarr.drop ch.toNat, tpart := r.tpart.drop ch.toNat }
    let who := (s.liveThreads p).filter fun x => x.2.isParked && (match x.2.wait with
      | .truss c n => c == ch.toNat && phaseDone g (BitVec.ofNat 32 n)
      | _ => false)
    .next (who.foldl (fun s x => (s.wake x.1).acquire x.1 2) s)

end Sys2Proof.Machine
end

