-- ==== Sys2Proof/Machine/Dispatch.lean ====
section
/-! DEFINITION. One arm per constructor of `Instr`: each calls its meaning. -/
namespace Sys2Proof.Machine

def exec (i : Instr) (s : State) : Host.Outcome State Fault Refusal :=
  match i with
  | .nop b => Sys2Proof.Machine.execNop b s
  | .yield_ b => Sys2Proof.Machine.execYield b s
  | .sleep b cycles => Sys2Proof.Machine.execSleep b cycles s
  | .exit b => Sys2Proof.Machine.execExit b s
  | .bra j => Sys2Proof.Machine.execBra j s
  | .brc j => Sys2Proof.Machine.execBrc j s
  | .brx b => Sys2Proof.Machine.execBrx b s
  | .call j => Sys2Proof.Machine.execCall j s
  | .callx b => Sys2Proof.Machine.execCallx b s
  | .ret b => Sys2Proof.Machine.execRet b s
  | .spawn b join => Sys2Proof.Machine.execSpawn b join s
  | .bandnew b => Sys2Proof.Machine.execBandnew b s
  | .join b => Sys2Proof.Machine.execJoin b s
  | .leave b => Sys2Proof.Machine.execLeave b s
  | .bandq b query => Sys2Proof.Machine.execBandq b query s
  | .rjen b j => Sys2Proof.Machine.execRjen b j s
  | .rjwait b j => Sys2Proof.Machine.execRjwait b j s
  | .rjstrike b j => Sys2Proof.Machine.execRjstrike b j s
  | .bari b bar => Sys2Proof.Machine.execBari b bar s
  | .bara b bar wait scope => Sys2Proof.Machine.execBara b bar wait scope s
  | .barx b bar => Sys2Proof.Machine.execBarx b bar s
  | .barw b bar x => Sys2Proof.Machine.execBarw b bar x s
  | .bart b bar x => Sys2Proof.Machine.execBart b bar x s
  | .vote b mode => Sys2Proof.Machine.execVote b mode s
  | .shfl b mode seg => Sys2Proof.Machine.execShfl b mode seg s
  | .tra b ch => Sys2Proof.Machine.execTra b ch s
  | .trw b ch => Sys2Proof.Machine.execTrw b ch s
  | .trq b ch => Sys2Proof.Machine.execTrq b ch s
  | .klaunch b => Sys2Proof.Machine.execKlaunch b s
  | .iadd b m => Sys2Proof.Machine.execIadd b m s
  | .iaddImm l => Sys2Proof.Machine.execIaddImm l s
  | .isub b m => Sys2Proof.Machine.execIsub b m s
  | .ineg b m => Sys2Proof.Machine.execIneg b m s
  | .iabs b m => Sys2Proof.Machine.execIabs b m s
  | .imul b m => Sys2Proof.Machine.execImul b m s
  | .imulImm l => Sys2Proof.Machine.execImulImm l s
  | .imulh b m => Sys2Proof.Machine.execImulh b m s
  | .imad b m => Sys2Proof.Machine.execImad b m s
  | .idiv b m => Sys2Proof.Machine.execIdiv b m s
  | .irem b m => Sys2Proof.Machine.execIrem b m s
  | .imin b m => Sys2Proof.Machine.execImin b m s
  | .iminImm l => Sys2Proof.Machine.execIminImm l s
  | .imax b m => Sys2Proof.Machine.execImax b m s
  | .imaxImm l => Sys2Proof.Machine.execImaxImm l s
  | .and b m => Sys2Proof.Machine.execAnd b m s
  | .andImm l => Sys2Proof.Machine.execAndImm l s
  | .or b m => Sys2Proof.Machine.execOr b m s
  | .orImm l => Sys2Proof.Machine.execOrImm l s
  | .xor b m => Sys2Proof.Machine.execXor b m s
  | .xorImm l => Sys2Proof.Machine.execXorImm l s
  | .andn b m => Sys2Proof.Machine.execAndn b m s
  | .shl b m => Sys2Proof.Machine.execShl b m s
  | .shr b m => Sys2Proof.Machine.execShr b m s
  | .sar b m => Sys2Proof.Machine.execSar b m s
  | .rol b m => Sys2Proof.Machine.execRol b m s
  | .clz b m => Sys2Proof.Machine.execClz b m s
  | .ctz b m => Sys2Proof.Machine.execCtz b m s
  | .popc b m => Sys2Proof.Machine.execPopc b m s
  | .brev b m => Sys2Proof.Machine.execBrev b m s
  | .bfx b m => Sys2Proof.Machine.execBfx b m s
  | .bfi b m => Sys2Proof.Machine.execBfi b m s
  | .icmp b m => Sys2Proof.Machine.execIcmp b m s
  | .icmpImm l => Sys2Proof.Machine.execIcmpImm l s
  | .sel b => Sys2Proof.Machine.execSel b s
  | .mov b => Sys2Proof.Machine.execMov b s
  | .movi l => Sys2Proof.Machine.execMovi l s
  | .movh l => Sys2Proof.Machine.execMovh l s
  | .lea b m => Sys2Proof.Machine.execLea b m s
  | .leaImm l => Sys2Proof.Machine.execLeaImm l s
  | .pand b m => Sys2Proof.Machine.execPand b m s
  | .por b m => Sys2Proof.Machine.execPor b m s
  | .pxor b m => Sys2Proof.Machine.execPxor b m s
  | .pnot b => Sys2Proof.Machine.execPnot b s
  | .fadd b m => Sys2Proof.Machine.execFadd b m s
  | .fsub b m => Sys2Proof.Machine.execFsub b m s
  | .fmul b m => Sys2Proof.Machine.execFmul b m s
  | .ffma b m => Sys2Proof.Machine.execFfma b m s
  | .fmin b m => Sys2Proof.Machine.execFmin b m s
  | .fmax b m => Sys2Proof.Machine.execFmax b m s
  | .fabs b m => Sys2Proof.Machine.execFabs b m s
  | .fneg b m => Sys2Proof.Machine.execFneg b m s
  | .fcmp b m => Sys2Proof.Machine.execFcmp b m s
  | .fclass b m => Sys2Proof.Machine.execFclass b m s
  | .frcp b m => Sys2Proof.Machine.execFrcp b m s
  | .frsq b m => Sys2Proof.Machine.execFrsq b m s
  | .fsqrt b m => Sys2Proof.Machine.execFsqrt b m s
  | .fex2 b m => Sys2Proof.Machine.execFex2 b m s
  | .flg2 b m => Sys2Proof.Machine.execFlg2 b m s
  | .fcvt b m => Sys2Proof.Machine.execFcvt b m s
  | .itof b m => Sys2Proof.Machine.execItof b m s
  | .ftoi b m => Sys2Proof.Machine.execFtoi b m s
  | .wadd b m => Sys2Proof.Machine.execWadd b m s
  | .wsub b m => Sys2Proof.Machine.execWsub b m s
  | .wmul b m => Sys2Proof.Machine.execWmul b m s
  | .wfma b m => Sys2Proof.Machine.execWfma b m s
  | .wmin b m => Sys2Proof.Machine.execWmin b m s
  | .wmax b m => Sys2Proof.Machine.execWmax b m s
  | .wact b m => Sys2Proof.Machine.execWact b m s
  | .wrsum b m => Sys2Proof.Machine.execWrsum b m s
  | .wdot b m => Sys2Proof.Machine.execWdot b m s
  | .wcvt b m => Sys2Proof.Machine.execWcvt b m s
  | .wqnt b m => Sys2Proof.Machine.execWqnt b m s
  | .wdq b m => Sys2Proof.Machine.execWdq b m s
  | .wscl b m => Sys2Proof.Machine.execWscl b m s
  | .wprm b m => Sys2Proof.Machine.execWprm b m s
  | .wbc b m => Sys2Proof.Machine.execWbc b m s
  | .wcmp b m => Sys2Proof.Machine.execWcmp b m s
  | .wsel b m => Sys2Proof.Machine.execWsel b m s
  | .wins b m => Sys2Proof.Machine.execWins b m s
  | .wext b m => Sys2Proof.Machine.execWext b m s
  | .mset b m => Sys2Proof.Machine.execMset b m s
  | .mcol b m => Sys2Proof.Machine.execMcol b m s
  | .mmov b m => Sys2Proof.Machine.execMmov b m s
  | .madd b m => Sys2Proof.Machine.execMadd b m s
  | .msub b m => Sys2Proof.Machine.execMsub b m s
  | .mmul b m => Sys2Proof.Machine.execMmul b m s
  | .mscl b m => Sys2Proof.Machine.execMscl b m s
  | .maddc b m => Sys2Proof.Machine.execMaddc b m s
  | .mfma b m => Sys2Proof.Machine.execMfma b m s
  | .mrel b m => Sys2Proof.Machine.execMrel b m s
  | .msig b m => Sys2Proof.Machine.execMsig b m s
  | .mexp b m => Sys2Proof.Machine.execMexp b m s
  | .mchk b m => Sys2Proof.Machine.execMchk b m s
  | .ldU8 f => Sys2Proof.Machine.execLdU8 f s
  | .ldS8 f => Sys2Proof.Machine.execLdS8 f s
  | .ldU16 f => Sys2Proof.Machine.execLdU16 f s
  | .ldS16 f => Sys2Proof.Machine.execLdS16 f s
  | .ldU32 f => Sys2Proof.Machine.execLdU32 f s
  | .ldS32 f => Sys2Proof.Machine.execLdS32 f s
  | .ld64 f => Sys2Proof.Machine.execLd64 f s
  | .ldG f => Sys2Proof.Machine.execLdG f s
  | .ldGE f => Sys2Proof.Machine.execLdGE f s
  | .ldGS f => Sys2Proof.Machine.execLdGS f s
  | .st8 f => Sys2Proof.Machine.execSt8 f s
  | .st16 f => Sys2Proof.Machine.execSt16 f s
  | .st32 f => Sys2Proof.Machine.execSt32 f s
  | .st64 f => Sys2Proof.Machine.execSt64 f s
  | .stG f => Sys2Proof.Machine.execStG f s
  | .stGE f => Sys2Proof.Machine.execStGE f s
  | .stGS f => Sys2Proof.Machine.execStGS f s
  | .stn f => Sys2Proof.Machine.execStn f s
  | .atom f => Sys2Proof.Machine.execAtom f s
  | .red f => Sys2Proof.Machine.execRed f s
  | .cas f => Sys2Proof.Machine.execCas f s
  | .fence q scope kind => Sys2Proof.Machine.execFence q scope kind s
  | .pin q => Sys2Proof.Machine.execPin q s
  | .unpin q => Sys2Proof.Machine.execUnpin q s
  | .cclean q => Sys2Proof.Machine.execCclean q s
  | .cinv q => Sys2Proof.Machine.execCinv q s
  | .pref f => Sys2Proof.Machine.execPref f s
  | .probe f => Sys2Proof.Machine.execProbe f s
  | .bred q fmt part => Sys2Proof.Machine.execBred q fmt part s
  | .bupd q tl => Sys2Proof.Machine.execBupd q tl s
  | .mld f => Sys2Proof.Machine.execMld f s
  | .mst f => Sys2Proof.Machine.execMst f s
  | .wkset q wk => Sys2Proof.Machine.execWkset q wk s
  | .bread q tl bs wk scp jb => Sys2Proof.Machine.execBread q tl bs wk scp jb s
  | .hexit q err => Sys2Proof.Machine.execHexit q err s
  | .acopy q tl ws wd scp be bar => Sys2Proof.Machine.execAcopy q tl ws wd scp be bar s
  | .acopyt q tl mode wk scp be bar => Sys2Proof.Machine.execAcopyt q tl mode wk scp be bar s
  | .talloc q span => Sys2Proof.Machine.execTalloc q span s
  | .tfree q => Sys2Proof.Machine.execTfree q s
  | .tstat q => Sys2Proof.Machine.execTstat q s
  | .tlwait q tl => Sys2Proof.Machine.execTlwait q tl s
  | .tlread q tl iss => Sys2Proof.Machine.execTlread q tl iss s
  | .cstat q tl => Sys2Proof.Machine.execCstat q tl s
  | .ccancel q tl all => Sys2Proof.Machine.execCcancel q tl all s
  | .xbind q => Sys2Proof.Machine.execXbind q s
  | .xbindU q => Sys2Proof.Machine.execXbindU q s
  | .xbindQ q => Sys2Proof.Machine.execXbindQ q s
  | .acrd q fmt rnd nc m aq => Sys2Proof.Machine.execAcrd q fmt rnd nc m aq s
  | .acwm q => Sys2Proof.Machine.execAcwm q s
  | .acovf q clr => Sys2Proof.Machine.execAcovf q clr s
  | .xnop => Sys2Proof.Machine.execXnop s
  | .xend => Sys2Proof.Machine.execXend s
  | .xloop count len => Sys2Proof.Machine.execXloop count len s
  | .xlay layout => Sys2Proof.Machine.execXlay layout s
  | .xbw bar => Sys2Proof.Machine.execXbw bar s
  | .xba bar scope => Sys2Proof.Machine.execXba bar scope s
  | .xlds ta fmt sa => Sys2Proof.Machine.execXlds ta fmt sa s
  | .xswp => Sys2Proof.Machine.execXswp s
  | .xzero ap int sat => Sys2Proof.Machine.execXzero ap int sat s
  | .xout ta ap fmt rnd satf ne norm sa => Sys2Proof.Machine.execXout ta ap fmt rnd satf ne norm sa s
  | .xmma ta ap fmt fin sa => Sys2Proof.Machine.execXmma ta ap fmt fin sa s
  | .xmms ta ap fmt fin sa => Sys2Proof.Machine.execXmms ta ap fmt fin sa s
  | .xdual ta tb ap aq fmt fin sa sb => Sys2Proof.Machine.execXdual ta tb ap aq fmt fin sa sb s
  | .xmom ta tb ap aq fmt fin sa sb => Sys2Proof.Machine.execXmom ta tb ap aq fmt fin sa sb s
  | .rput f => Sys2Proof.Machine.execRput f s
  | .rget f => Sys2Proof.Machine.execRget f s
  | .ratom f => Sys2Proof.Machine.execRatom f s
  | .rputm q size rel scp => Sys2Proof.Machine.execRputm q size rel scp s
  | .coll q => Sys2Proof.Machine.execColl q s
  | .topov q d => Sys2Proof.Machine.execTopov q d s
  | .psendData q scp => Sys2Proof.Machine.execPsendData q scp s
  | .psendReduce q sec scp => Sys2Proof.Machine.execPsendReduce q sec scp s
  | .psendDone q scp => Sys2Proof.Machine.execPsendDone q scp s
  | .precv q => Sys2Proof.Machine.execPrecv q s
  | .pred q op bfa fmt => Sys2Proof.Machine.execPred q op bfa fmt s
  | .pqnt q granules fmt p2 => Sys2Proof.Machine.execPqnt q granules fmt p2 s
  | .pwait q sel mode => Sys2Proof.Machine.execPwait q sel mode s
  | .proute q => Sys2Proof.Machine.execProute q s
  | .trap b code => Sys2Proof.Machine.execTrap b code s
  | .eret b => Sys2Proof.Machine.execEret b s
  | .gets b num => Sys2Proof.Machine.execGets b num s
  | .sets b num => Sys2Proof.Machine.execSets b num s
  | .brk b code => Sys2Proof.Machine.execBrk b code s
  | .icinv b all ret => Sys2Proof.Machine.execIcinv b all ret s
  | .tlbi b kind waf => Sys2Proof.Machine.execTlbi b kind waf s
  | .halt b => Sys2Proof.Machine.execHalt b s
  | .time b => Sys2Proof.Machine.execTime b s
  | .perf b counter clr => Sys2Proof.Machine.execPerf b counter clr s
  | .slotwBind b => Sys2Proof.Machine.execSlotwBind b s
  | .slotwStop b => Sys2Proof.Machine.execSlotwStop b s
  | .slotwRelease b => Sys2Proof.Machine.execSlotwRelease b s
  | .slotwKill b => Sys2Proof.Machine.execSlotwKill b s
  | .slotwSet b => Sys2Proof.Machine.execSlotwSet b s
  | .ctxsave b => Sys2Proof.Machine.execCtxsave b s
  | .ctxload b => Sys2Proof.Machine.execCtxload b s
  | .waitev b => Sys2Proof.Machine.execWaitev b s
  | .issueGroup p pipe => Sys2Proof.Machine.execIssueGroup p pipe s
  | .asyncTrapDelivery t => Sys2Proof.Machine.execAsyncTrapDelivery t s
  | .deferredWrite id => Sys2Proof.Machine.execDeferredWrite id s
  | .sleepWake t => Sys2Proof.Machine.execSleepWake t s
  | .starvation t => Sys2Proof.Machine.execStarvation t s
  | .storeDrain p row => Sys2Proof.Machine.execStoreDrain p row s
  | .storeAtHome id => Sys2Proof.Machine.execStoreAtHome id s
  | .storeAck id => Sys2Proof.Machine.execStoreAck id s
  | .loadAtHome id fromCopy => Sys2Proof.Machine.execLoadAtHome id fromCopy s
  | .atomicAtHome id => Sys2Proof.Machine.execAtomicAtHome id s
  | .bfaAdd id => Sys2Proof.Machine.execBfaAdd id s
  | .burstRequest op => Sys2Proof.Machine.execBurstRequest op s
  | .burstArrival op seq => Sys2Proof.Machine.execBurstArrival op seq s
  | .handlerAdmit p => Sys2Proof.Machine.execHandlerAdmit p s
  | .lastBurst op => Sys2Proof.Machine.execLastBurst op s
  | .copyUnit op => Sys2Proof.Machine.execCopyUnit op s
  | .copyComplete op => Sys2Proof.Machine.execCopyComplete op s
  | .tileScrubEnd p tile => Sys2Proof.Machine.execTileScrubEnd p tile s
  | .tileAddLand op => Sys2Proof.Machine.execTileAddLand op s
  | .acrdRead id => Sys2Proof.Machine.execAcrdRead id s
  | .acwmResult id => Sys2Proof.Machine.execAcwmResult id s
  | .packetHop id => Sys2Proof.Machine.execPacketHop id s
  | .icinvComplete t => Sys2Proof.Machine.execIcinvComplete t s
  | .tlbiComplete t => Sys2Proof.Machine.execTlbiComplete t s
  | .bootStart site record fw sched pools => Sys2Proof.Machine.execBootStart site record fw sched pools s
  | .llsDecay p => Sys2Proof.Machine.execLlsDecay p s
  | .rjhTimeout p row => Sys2Proof.Machine.execRjhTimeout p row s
  | .bandNumberRelease p k => Sys2Proof.Machine.execBandNumberRelease p k s
  | .trussRelease ch => Sys2Proof.Machine.execTrussRelease ch s
  | .trussReleaseArrival p ch => Sys2Proof.Machine.execTrussReleaseArrival p ch s
  | .partMaskWrite site => Sys2Proof.Machine.execPartMaskWrite site s
  | .pageWalk site ctx va => Sys2Proof.Machine.execPageWalk site ctx va s
  | .verdictReply site target ctx a kind => Sys2Proof.Machine.execVerdictReply site target ctx a kind s
  | .cacheLineExpiry p l2 line => Sys2Proof.Machine.execCacheLineExpiry p l2 line s
  | .bupdElement op k => Sys2Proof.Machine.execBupdElement op k s
  | .eccError a correctable => Sys2Proof.Machine.execEccError a correctable s
  | .windowTableWrite site row entry hi v => Sys2Proof.Machine.execWindowTableWrite site row entry hi v s
  | .scrubGo site => Sys2Proof.Machine.execScrubGo site s
  | .scrubDone site => Sys2Proof.Machine.execScrubDone site s
  | .faultRetry p slot => Sys2Proof.Machine.execFaultRetry p slot s
  | .faultAbandon p slot => Sys2Proof.Machine.execFaultAbandon p slot s
  | .entryStopped p e => Sys2Proof.Machine.execEntryStopped p e s
  | .scanOut p e => Sys2Proof.Machine.execScanOut p e s
  | .entryActivate p e => Sys2Proof.Machine.execEntryActivate p e s
  | .entryRestore p e => Sys2Proof.Machine.execEntryRestore p e s
  | .quantumExpiry p e => Sys2Proof.Machine.execQuantumExpiry p e s
  | .entryDone p e => Sys2Proof.Machine.execEntryDone p e s
  | .entryKillDone p e => Sys2Proof.Machine.execEntryKillDone p e s
  | .threadResume t => Sys2Proof.Machine.execThreadResume t s
  | .threadKill t => Sys2Proof.Machine.execThreadKill t s
  | .threadPcWrite t v => Sys2Proof.Machine.execThreadPcWrite t v s
  | .ctxCreate site x => Sys2Proof.Machine.execCtxCreate site x s
  | .ctxKill site x => Sys2Proof.Machine.execCtxKill site x s
  | .ctxFree site x => Sys2Proof.Machine.execCtxFree site x s
  | .bandKill p k => Sys2Proof.Machine.execBandKill p k s
  | .chunkSend p k => Sys2Proof.Machine.execChunkSend p k s
  | .dlaunchEntryFree site k => Sys2Proof.Machine.execDlaunchEntryFree site k s
  | .windowSpill t => Sys2Proof.Machine.execWindowSpill t s
  | .windowFill t => Sys2Proof.Machine.execWindowFill t s
  | .normAcc site k x => Sys2Proof.Machine.execNormAcc site k x s
  | .normZero site k => Sys2Proof.Machine.execNormZero site k s
  | .normStatWrite site k v => Sys2Proof.Machine.execNormStatWrite site k v s
  | .arrayRowFinal p acc => Sys2Proof.Machine.execArrayRowFinal p acc s
  | .streamInstrComplete p id => Sys2Proof.Machine.execStreamInstrComplete p id s
  | .linkTrain site port link => Sys2Proof.Machine.execLinkTrain site port link s
  | .linkTakeDown site port link => Sys2Proof.Machine.execLinkTakeDown site port link s
  | .linkPartnerDetect site port link upper => Sys2Proof.Machine.execLinkPartnerDetect site port link upper s
  | .linkTrainResult site port link passed => Sys2Proof.Machine.execLinkTrainResult site port link passed s
  | .linkStateTimeout site port link => Sys2Proof.Machine.execLinkStateTimeout site port link s
  | .linkLaneFail site port link lane => Sys2Proof.Machine.execLinkLaneFail site port link lane s
  | .flitCrcRetry site port link seq => Sys2Proof.Machine.execFlitCrcRetry site port link seq s
  | .portWaitTimeout id => Sys2Proof.Machine.execPortWaitTimeout id s
  | .multicastReplicate id => Sys2Proof.Machine.execMulticastReplicate id s
  | .ppPacketArrival id => Sys2Proof.Machine.execPpPacketArrival id s
  | .versionHoldTimeout id => Sys2Proof.Machine.execVersionHoldTimeout id s
  | .collAccept id => Sys2Proof.Machine.execCollAccept id s
  | .collAbort id => Sys2Proof.Machine.execCollAbort id s
  | .doneDelivery id => Sys2Proof.Machine.execDoneDelivery id s
  | .topologyVersionWrite site v => Sys2Proof.Machine.execTopologyVersionWrite site v s
  | .extPacketReceive site uud header payload => Sys2Proof.Machine.execExtPacketReceive site uud header payload s
  | .hostRdmaWrite site job a data => Sys2Proof.Machine.execHostRdmaWrite site job a data s
  | .hostRdmaRead site job a n => Sys2Proof.Machine.execHostRdmaRead site job a n s
  | .hostRdmaAtomic site job a aop w32 v => Sys2Proof.Machine.execHostRdmaAtomic site job a aop w32 v s
  | .alarmSensor site sensor => Sys2Proof.Machine.execAlarmSensor site sensor s
  | .telemetryUpdate site vin iout vcore pwr => Sys2Proof.Machine.execTelemetryUpdate site vin iout vcore pwr s
  | .clockStepDown site => Sys2Proof.Machine.execClockStepDown site s
  | .clockStepUp site => Sys2Proof.Machine.execClockStepUp site s
  | .currentLimitWrite site v => Sys2Proof.Machine.execCurrentLimitWrite site v s
  | .thermalUpdate site sensor temp => Sys2Proof.Machine.execThermalUpdate site sensor temp s
  | .ringLockLoss site ring => Sys2Proof.Machine.execRingLockLoss site ring s
  | .wearSample site monitor value forecast => Sys2Proof.Machine.execWearSample site monitor value forecast s
  | .ctxsaveDone p e => Sys2Proof.Machine.execCtxsaveDone p e s
  | .ctxloadDone p e => Sys2Proof.Machine.execCtxloadDone p e s
  | .registerWrite site localAddr v => Sys2Proof.Machine.execRegisterWrite site localAddr v s
  | .ccleanCinvComplete id => Sys2Proof.Machine.execCcleanCinvComplete id s
  | .deliveryGiveUp id => Sys2Proof.Machine.execDeliveryGiveUp id s
  | .ringLockRegain site ring => Sys2Proof.Machine.execRingLockRegain site ring s
  | .streamWordFault p code => Sys2Proof.Machine.execStreamWordFault p code s
  | .powerOnReset => Sys2Proof.Machine.execPowerOnReset s
  | .waferRelease => Sys2Proof.Machine.execWaferRelease s
  | .clauseCommit => Sys2Proof.Machine.execClauseCommit s
  | .alarmContextsKilled => Sys2Proof.Machine.execAlarmContextsKilled s
  | .keyEraseDone => Sys2Proof.Machine.execKeyEraseDone s
  | .powerOff => Sys2Proof.Machine.execPowerOff s

end Sys2Proof.Machine
end

