-- ==== Sys2Proof/Machine/Policy.lean ====
section
/-! DEFINITION. What moves when nothing is told (log 1): one turn lets every unit of the wafer take the step it can take,
unit by unit in a fixed order, and the pipes then choose the clauses that are next in flight. The order is the model's; what
each step does is the meaning of its event. Events that carry something from outside are never taken here. -/
namespace Sys2Proof.Machine

/-- Take one event. -/
def State.act (s : State) (f : State → Out) : State := match f s with | .next s => s | _ => s

/-- Take an event for each member of a list. -/
def State.each {α : Type} (s : State) (l : List α) (f : α → State → Out) : State := l.foldl (fun s x => s.act (f x)) s

/-- The processors that hold a thread or have left their reset state. -/
def State.live (s : State) : List PId := ((s.procs.map (·.1)) ++ (s.threads.map fun t => t.1.p)).eraseDups

/-! The clock (R352). -/

/-- The counters that count cycles: event 0, event 7 under the throttle, event 11 while the array is busy. -/
def State.countCycles (s : State) : State :=
  let old (p : PId) : Nat := ({ s with tick := s.tick - 1 } : State).cycles p
  s.live.foldl (fun s p =>
    let r := s.proc p
    if r.perf.any fun e => e.2.en && (e.2.event == 0 || e.2.event == 7 || e.2.event == 11) then
      let n : Word := BitVec.ofNat 64 (s.cycles p - old p)
      let busy := if r.seq.work.any (·.isArray) then (s.site p.site).ctxIdx r.seq.ctx else none
      let counts (x : Nat) (e : Perf) : Bool := e.en && (e.event == 0 || (e.event == 7 && decide (r.mrows < 16)) ||
        (e.event == 11 && busy == some x))
      let step (e : (Nat × Nat) × Perf) : (Nat × Nat) × Perf :=
        if counts e.1.1 e.2 then (e.1, { e.2 with count := e.2.count + n }) else e
      s.setProc p { r with perf := r.perf.map step }
    else s) s

/-! Memory (R184, R189, R201, R395). -/

/-- The rows of a processor with stores to drain, the one after the row served last first. -/
def Proc.drainRows (r : Proc) : List Nat :=
  let rows := (List.range 16).filter fun k => !(r.queues.get [] k).isEmpty
  rows.filter (fun k => decide (r.drained < k)) ++ rows.filter fun k => decide (k ≤ r.drained)

/-- The event that a store under way takes next. -/
def storeEvent (x : Store) : State → Out :=
  if x.done then execStoreAck x.id
  else match x.kind with
    | .plain | .put _ => execStoreAtHome x.id
    | .bfa _ => execBfaAdd x.id
    | .multi _ => execMulticastReplicate x.id
    | .red _ _ | .vec _ _ => execAtomicAtHome x.id

/-- The event that a deferred request takes next. -/
def reqEvent (r : Req) : State → Out :=
  if r.resp.isSome then execDeferredWrite r.id
  else match r.kind with
    | .load k _ => if k.isAtomic then execAtomicAtHome r.id else execLoadAtHome r.id true
    | .acrd _ _ _ _ _ _ _ _ _ _ => execAcrdRead r.id
    | .acwm _ _ _ => execAcwmResult r.id
    | .range _ _ => execCcleanCinvComplete r.id
    | .port _ _ _ _ | .precv _ => execDeferredWrite r.id
    | .coll _ _ _ => execCollAbort r.id
    | .value _ | .drain _ _ _ _ | .engine _ _ | .psend _ | .cancel _ => .next

def State.moveMemory (s : State) : State :=
  let s := s.live.foldl (fun s p => s.each (s.proc p).drainRows (execStoreDrain p)) s
  let s := s.each s.stores storeEvent
  (s.each s.reqs reqEvent).settleDrains

/-- Copies at the end of their time (R187) and lost-locality scores every 512 cycles (R94). -/
def State.ageCaches (s : State) : State :=
  let s := s.live.foldl (fun s p =>
    let r := s.proc p
    let s := s.each (r.l1.filter fun c => decide (65536 ≤ coreSpan p.site c.filled s.tick)) fun c => execCacheLineExpiry p false c.line
    let old := ({ s with tick := s.tick - 1 } : State).cycles p
    if (r.lls.any fun x => x.2 != 0) && old / 512 != s.cycles p / 512 then s.act (execLlsDecay p) else s) s
  s.sites.foldl (fun s q =>
    s.each (q.2.l2.filter fun c => decide (65536 ≤ coreSpan q.1 c.filled s.tick)) fun c => execCacheLineExpiry ⟨q.1, 0⟩ true c.line) s

/-! Engines and tiles (R235 to R253). -/

/-- The events that an engine operation takes next. -/
def opEvents (o : Op) : List (State → Out) :=
  match o.kind with
  | .bread _ _ _ _ _ _ _ _ =>
    execBurstRequest o.id :: ((o.bursts.filter (·.data.isNone)).map fun b => execBurstArrival o.id b.seq) ++
      [execLastBurst o.id]
  | .copy _ _ | .copyIn _ _ _ | .copyOut _ _ _ => [execCopyUnit o.id, execCopyComplete o.id]
  | .tileAdd _ _ _ _ => [execTileAddLand o.id, execCopyComplete o.id]
  | .bupd _ _ _ _ _ => [execBupdElement o.id o.next]

/-- Handlers of a processor are admitted, up to `n` in lanes that none of them has taken yet (R88, R236). -/
def State.admitTurn (s : State) (p : PId) : Nat → List Nat → State
  | 0, _ => s
  | n + 1, used =>
    match s.handlerSlot p with
    | some t => if used.contains t.lane then s else (s.act (execHandlerAdmit p)).admitTurn p n (t.lane :: used)
    | none => s.act (execHandlerAdmit p)

def State.moveEngines (s : State) : State :=
  let s := s.ops.foldl (fun s o => s.each (opEvents o) id) s
  let s := ((s.ops.filter (·.kind.isBread)).map (·.t.p)).eraseDups.foldl (fun s p => s.admitTurn p 4 []) s
  s.live.foldl (fun s p => s.each ((s.proc p).tiles.filter (·.2.scrub)) fun t => execTileScrubEnd p t.1) s

/-! The matrix unit (R263 to R268). -/

/-- Squares of an XOUT leave for its norm register, one NORM_ACC each: in a turn as many as a free number says, up to a row of them
(log 1), so that any prefix may have arrived when something else moves (R270, R368). -/
def State.drainRow (s : State) (p : PId) (w : StreamWork) : State :=
  if w.squares.isEmpty then s else
  let (n, s) := s.draw
  let k := (Config.freeWord n).toNat % 64 + 1
  (s.each (w.squares.take k) (execNormAcc p.site (w.norm % 16))).modSeq p fun q =>
    { q with work := q.work.map fun y => if y.id = w.id then { y with squares := y.squares.drop k } else y }

def State.moveMatrix (s : State) : State :=
  s.live.foldl (fun s p =>
    let s := s.each (s.proc p).seq.work fun w s =>
      if w.isArray && decide (w.rows < 64) then execArrayRowFinal p (w.accs.headD 0) s
      else execStreamInstrComplete p w.id (s.drainRow p w)
    s.seqWake p) s

/-! The fabric (R284 to R316). -/

/-- The event of a packet at its destination. -/
def arrivalEvent (k : Packet) : State → Out :=
  match k.kind with
  | .desc _ => execCollAccept k.id
  | .done _ _ => execDoneDelivery k.id
  | _ => execPpPacketArrival k.id

/-- The events that a packet takes next. -/
def packetEvents (k : Packet) : List (State → Out) :=
  [execPacketHop k.id, arrivalEvent k, execVersionHoldTimeout k.id, execPortWaitTimeout k.id]

def State.moveFabric (s : State) : State :=
  let s := s.packets.foldl (fun s k => s.each (packetEvents k) id) s
  let s := s.sites.foldl (fun s q =>
    s.each (q.2.links.filter fun l => l.2.st == .train || l.2.st == .degrade) fun l => execLinkStateTimeout q.1 l.1.1 l.1.2) s
  let s := s.threads.foldl (fun s t => match t.2.wait with
    | .chan c => s.wakeChan t.1.p c
    | .version _ => s.wakeVersion t.1.p.site
    | .event _ => s.serveEvent t.1.p.site
    | _ => s) s
  s.live.foldl (fun s p => s.each (s.proc p).closing fun c s => execBandNumberRelease p c.num (s.act (execChunkSend p c.num))) s

/-! The truss (R111, R112, R392). -/

def State.moveTruss (s : State) : State :=
  let s := s.each s.trel fun x => execTrussReleaseArrival x.1 (BitVec.ofNat 4 x.2)
  let s := s.each ((List.range 16).filter fun c => s.procs.any fun r => r.2.tarr.get false c) fun c =>
    execTrussRelease (BitVec.ofNat 4 c)
  s.each (s.sites.filter fun q => !q.2.maskNext.isEmpty) fun q => execPartMaskWrite q.1

/-! Scheduling and contexts (R327 to R346, R358). -/

/-- The events that a slot-table entry takes next. -/
def entryEvents (p : PId) (e : Nat) (n : Entry) : List (State → Out) :=
  if n.killing then [execEntryKillDone p e] else
  match n.st with
  | .empty | .done => []
  | .wait => [execEntryActivate p e]
  | .active => [execEntryDone p e, execQuantumExpiry p e]
  | .stopping => [execEntryStopped p e]
  | .stopped => [execScanOut p e, execEntryRestore p e]

def State.schedule (s : State) : State :=
  let s := s.live.foldl (fun s p => (s.proc p).slots.foldl (fun s x =>
    let s := s.each (entryEvents p x.1 x.2) id
    if x.2.st = .stopped then s.mirrorOut p x.1 else s) s) s
  let s := s.live.foldl (fun s p => match (s.proc p).move with
    | some m => s.act (if m.load then execCtxloadDone p m.entry else execCtxsaveDone p m.entry)
    | none => s) s
  s.sites.foldl (fun s q =>
    let s := s.each (q.2.ctxs.filter fun c => c.2.st == 2) fun c => execCtxFree q.1 c.1
    if q.2.scrub.busy then s.act (execScrubDone q.1) else s) s

/-! The device (R377, R380). -/

def State.moveDevice (s : State) : State :=
  let s := if s.sites.any fun q => q.2.alarm == 2 then s.act execAlarmContextsKilled else s
  let s := if s.sites.any fun q => q.2.alarm == 3 then s.act execKeyEraseDone else s
  if !s.released && s.sites.any fun q => q.2.master then s.act execWaferRelease else s

/-! Threads and pipes (R91, R97, R338). -/

/-- A hold that nothing more stands against ends. -/
def settleHold (t : TId) (s : State) : Out := .next (s.settle t)

/-- The events that a thread takes next outside its clauses. -/
def threadEvents (t : TId) (th : Thread) : List (State → Out) :=
  (if (match th.wait with | .sleep _ => true | _ => false) then [execSleepWake t] else []) ++
  (if th.hold.icinv.isSome then [execIcinvComplete t] else []) ++
  (if th.hold.tlbi.isSome then [execTlbiComplete t] else []) ++
  (if th.hold != Hold.empty then [settleHold t] else []) ++
  (if !th.pend.isEmpty then [execAsyncTrapDelivery t] else []) ++
  (if th.cand.isSome && th.starved.isNone then [execStarvation t] else [])

def State.moveThreads (s : State) : State := s.threads.foldl (fun s t => s.each (threadEvents t.1 t.2) id) s

/-- Each pipe of each processor that has a READY thread chooses a group. -/
def State.issueAll (s : State) : State :=
  s.live.foldl (fun s p =>
    let s := s.each (s.proc p).hints fun h => execRjhTimeout p h.row
    if (s.liveThreads p).any fun t => t.2.st == .ready then
      s.each [Pipe.s, .w, .m, .y] fun pipe => execIssueGroup p pipe
    else s) s

/-- One sequencer that may begin a word fetches it; they take turns. -/
def State.feedStream (s : State) : State :=
  let ps := s.live.filter fun p => s.seqReady p
  match ps[s.tick % max 1 ps.length]? with
  | some p => s.fetchStream p
  | none => s

/-- Clauses that waited to commit try again (R246): they are in flight before any new clause. A lane whose entry is stopping
stands at its clause boundary again, with nothing done and the requests it had sent done with (log 33). -/
def State.retryStalled (s : State) : State :=
  let goes (f : Flight) (l : LaneRun) : Bool := ((s.proc f.p).entry l.t0.entry).st != .stopping
  let kept := s.stalled.map fun f => { f with lanes := f.lanes.filter (goes f) }
  let cut (s : State) (f : Flight) : State :=
    (f.lanes.filter fun l => !goes f l).foldl (fun s l => s.dropAsksOf f.p l.t0.ctx l.t0.gen) s
  let t := s.stalled.foldl cut s
  { t with flights := s.flights ++ kept.filter fun f => !f.lanes.isEmpty, stalled := [] }

/-- One turn of the wafer: a tick passes and every unit moves. Slots go to launch before the burst engine (R88). -/
def State.turn (s : State) : State :=
  let s := s.bump.countCycles
  let s := (s.moveMemory.ageCaches).moveMatrix
  let s := (s.moveFabric.moveTruss).schedule
  let s := s.moveEngines.moveDevice
  (s.moveThreads.retryStalled.issueAll).feedStream

/-! Words of a clause (R356). -/

/-- The OP byte of the record a SLOTW names, as its thread reads it. -/
def State.slotwOp (s : State) (b : BForm) : Option Nat :=
  match s.flights with
  | f :: _ => match f.lanes with
    | l :: _ =>
      let e : Env := ⟨s, f, l⟩
      match (s.readVirt e.tid e.t.ctx l.queued (e.g b.a) 32).1 with
      | .ok rcd _ => rcd.head?.map (·.toNat)
      | _ => none
    | [] => none
  | [] => none

/-- The row of the table that a word stands for: the five operations of SLOTW share one word (R347), and the record in
memory names the operation. -/
def resolve (i : Instr) (s : State) : Instr :=
  match i with
  | .slotwBind b =>
    match s.slotwOp b with
    | some 1 => .slotwStop b
    | some 2 => .slotwRelease b
    | some 3 => .slotwKill b
    | some 4 => .slotwSet b
    | _ => i
  | _ => i

/-- A word in flight that is no instruction: every lane meets its fault. A clause is decoded before it issues, so this is
met only in states that no issue reaches. -/
def State.badWord (s : State) (e : DecErr) (w : Word) : State :=
  s.mapLanes fun f l => l.trap f.idx (match e with | .illegalOpcode => 2 | .reservedField => 3 | .illegalOperand => 5) w

end Sys2Proof.Machine
end

