-- ==== Sys2Proof/Machine/Step.lean ====
section
/-! DEFINITION. One step: the turn that stands first on the agenda, else the stream word a sequencer has fetched, else the
next word of the clause in flight, else a turn of the wafer. -/
namespace Sys2Proof.Machine

/-- A turn of the agenda. -/
def takeTurn (t : Turn) (s : State) : Host.Outcome State Fault Refusal :=
  match t with
  | .event i => exec i s
  | .stream p => .next (s.fetchStream p)

/-- The stream word that stands fetched. -/
def streamWord (p : PId) (w : Word) (s : State) : Host.Outcome State Fault Refusal :=
  match decodeX w with
  | .ok i => exec i s
  | .error .illegalOpcode => execStreamWordFault p 1 s
  | .error _ => execStreamWordFault p 2 s

/-- The next word of a clause in flight, or its commit. -/
def clauseWord (f : Flight) (s : State) : Host.Outcome State Fault Refusal :=
  match f.words[f.idx]? with
  | none => execClauseCommit s
  | some w =>
    match decodeWord f.hdr.pipe w with
    | .ok i => exec (resolve i s) s
    | .error e => .next (s.badWord e w)

/-- One step of the machine. -/
def step (s : State) : Host.Outcome State Fault Refusal :=
  match s.agenda with
  | t :: rest => takeTurn t { s with agenda := rest }
  | [] =>
    if s.power then
      match s.stream, s.flights with
      | some (p, w), _ => streamWord p w s
      | none, f :: _ => clauseWord f s
      | none, [] => .next s.turn
    else .fault .poweredOff

/-- The kind of processor that carries an instruction: a core, or the port processor or the framer of its site. -/
def carrier (pipe : Pipe) (op : Nat) : PId :=
  if !inRanges (lackCore pipe) op then ⟨0, 0⟩
  else if !inRanges (lackPort pipe) op then ⟨0, 101⟩ else ⟨0, 96⟩

/-- A state that fetches the instruction next: a clause of that one word in flight for one thread, or the word fetched by
the sequencer, which is RUNNING. Words that no header leads are stream words. -/
def State.withFetchWord (s : State) (nbits w : Nat) : State :=
  let v := w % 2 ^ nbits
  let s : State := { s with agenda := [], power := true, stream := none }
  match decodeHeader (BitVec.ofNat 64 v) with
  | .error _ =>
    { s.modSeq ⟨0, 0⟩ (fun q => { q with st := .running, ending := false }) with stream := some (⟨0, 0⟩, BitVec.ofNat 64 v) }
  | .ok h =>
    let x : Word := BitVec.ofNat 64 (v / 2 ^ 64)
    let p := carrier h.pipe (x.extractLsb' 56 8).toNat
    let s := s.modTh ⟨p, 0, 0⟩ fun th => if th.st = .free then { th with st := .ready } else th
    let th := s.th ⟨p, 0, 0⟩
    { s with flights := [⟨p, 0, th.pc, { h with cnt := 0 }, [x], 0, [laneOf ⟨⟨p, 0, 0⟩, th, some h⟩], s.tick⟩] }

end Sys2Proof.Machine
end

