-- ==== Sys2Proof/Safety.lean ====
section
/-! DEFINITION. The terms in which claims speak of a run: what a safe step is, the form of the state that every step keeps,
and how an instruction stands in the clause in flight and leaves its lanes. -/
namespace Sys2Proof.Machine

/-! Safe steps. -/

/-- A step that answers a next state. -/
def State.safe (s : State) : Prop := ∃ t, step s = .next t

/-- Memory in its canonical form: addresses rising, no zero listed. -/
def State.canonical (s : State) : Prop := Memory.wf s.mem = true

/-- The instruction answers a next state, of which `post` holds. -/
def Leads (i : Instr) (s : State) (post : State → Prop) : Prop := ∃ t : State, exec i s = .next t ∧ post t

/-! The lanes of the clause at the head of those in flight. -/

/-- The thread that a lane of a flight runs. -/
def Flight.tid (f : Flight) (l : LaneRun) : TId := ⟨f.p, l.lane, f.row⟩

/-- A lane after the instruction at index `idx` of its clause. A lane that no longer computes is left alone; a lane whose
guard is false shifts its latches and places `old` in b0; any other lane meets the fault, or takes the value in b0, its
register writes, the conditions raised and the random state. -/
structure LaneAfter (idx : Nat) (pn : Bool) (pr : BitVec 3) (old : Option LVal) (r : Res (Option LVal × List RegW))
    (l l' : LaneRun) : Prop where
  idle : l.active = false → l' = l
  skipped : l.active = true → l.guard pn pr = false → l' = { l with lat := (old :: l.lat).take 4 }
  faulted : l.active = true → l.guard pn pr = true → ∀ c i, r = .trap c i →
    l' = { l with fault := some ⟨idx, c, i, false⟩ }
  taken : l.active = true → l.guard pn pr = true → ∀ v ws fl seed, r = .ok (v, ws) fl seed →
    l' = { l with lat := (v :: l.lat).take 4, writes := ws ++ l.writes, flags := l.flags ||| fl, seed := seed }

/-- An instruction that acts in its lanes alone: it answers a next state that differs in the flight at the head only,
which goes on to its next word, and there each lane is as `res` says. -/
def Computes (o : Out) (s : State) (pn : Bool) (pr : BitVec 3) (old : Thread → Option LVal)
    (res : Env → Res (Option LVal × List RegW)) : Prop :=
  ∀ (f : Flight) (rest : List Flight), s.flights = f :: rest → ∃ ls : List LaneRun,
    o = .next { s with flights := { f with idx := f.idx + 1, lanes := ls } :: rest } ∧
    ls.length = f.lanes.length ∧
    ∀ (k : Nat) (l : LaneRun), f.lanes[k]? = some l → ∃ l' : LaneRun, ls[k]? = some l' ∧ LaneAfter f.idx pn pr (old l.t0) (res ⟨s, f, l⟩) l l'

/-- A result in file g: in b0, and with NW 0 in the register. -/
def resG (b : BForm) (v : Word) : Option LVal × List RegW := (some (.g v), if b.nw then [] else [.g b.dst.toNat v])
def resP (b : BForm) (v : Bool) : Option LVal × List RegW := (some (.p v), if b.nw then [] else [.p b.dst.toNat v])
def resW (b : BForm) (v : Gran) : Option LVal × List RegW := (some (.w v), if b.nw then [] else [.w b.dst.toNat v])
def resM (b : BForm) (v : Word) : Option LVal × List RegW := (some (.m v), if b.nw then [] else [.m b.dst.toNat v])

/-- What stands in the destination at clause start. -/
def oldG (b : BForm) (t : Thread) : Option LVal := some (.g (t.g b.dst.toNat))
def oldP (b : BForm) (t : Thread) : Option LVal := some (.p (t.p b.dst.toNat))
def oldW (b : BForm) (t : Thread) : Option LVal := some (.w (t.w b.dst.toNat))
def oldM (b : BForm) (t : Thread) : Option LVal := some (.m (t.m b.dst.toNat))

/-- A result in file g that raises no condition. -/
def GivesG (o : Out) (s : State) (b : BForm) (v : Env → Word) : Prop :=
  Computes o s b.pn b.pr (oldG b) fun e => .ok (resG b (v e)) 0 e.l.seed
/-- A result in file p that raises no condition. -/
def GivesP (o : Out) (s : State) (b : BForm) (v : Env → Bool) : Prop :=
  Computes o s b.pn b.pr (oldP b) fun e => .ok (resP b (v e)) 0 e.l.seed
/-- A result in file w that raises no condition. -/
def GivesW (o : Out) (s : State) (b : BForm) (v : Env → Gran) : Prop :=
  Computes o s b.pn b.pr (oldW b) fun e => .ok (resW b (v e)) 0 e.l.seed

/-- An instruction that acts in its lanes alone completes: where every lane that takes it is `sound`, it answers a next state
in which the flight at the head goes on to its next word, no lane meets a fault, and each that takes it has a result: the
value in b0, and the write of it. -/
def Finishes (o : Out) (s : State) (b : BForm) (result : Word → Option LVal × List RegW) (sound : Env → Prop) : Prop :=
  ∀ (f : Flight) (rest : List Flight), s.flights = f :: rest →
    (∀ l ∈ f.lanes, l.active = true → l.guard b.pn b.pr = true → sound ⟨s, f, l⟩) → ∃ ls : List LaneRun,
      o = .next { s with flights := { f with idx := f.idx + 1, lanes := ls } :: rest } ∧
      ls.length = f.lanes.length ∧
      ∀ (k : Nat) (l : LaneRun), f.lanes[k]? = some l → ∃ l' : LaneRun, ls[k]? = some l' ∧ l'.fault = l.fault ∧
        (l.active = true → l.guard b.pn b.pr = true → ∃ v : Word,
          l'.lat = ((result v).1 :: l.lat).take 4 ∧ l'.writes = (result v).2 ++ l.writes)

/-- A result that an operation with conditions and draws gives. -/
def Res.map {α β : Type} (f : α → β) : Res α → Res β
  | .ok v fl seed => .ok (f v) fl seed
  | .trap c i => .trap c i

/-! An instruction that ends its clause, or asks for something at commit, in a group of one lane. -/

/-- The head flight has the one lane `l`, which still computes and whose guard is true. -/
structure OneLane (s : State) (pn : Bool) (pr : BitVec 3) (f : Flight) (rest : List Flight) (l : LaneRun) : Prop where
  head : s.flights = f :: rest
  lanes : f.lanes = [l]
  active : l.active = true
  taken : l.guard pn pr = true

/-- The state in which the lane has committed (R35). -/
def State.committed (s : State) (f : Flight) (l : LaneRun) : State := (s.commitLane f l).1

/-- The end of the instruction: the lane of the head flight is `l`, and the flight goes on to its next word. -/
def State.left (s : State) (l : LaneRun) : State := (s.setLane l).nextWord

/-- The end of an instruction that ended the clause in its lane. -/
def State.ended (s : State) (l : LaneRun) : State := s.left { l with done := true }

/-- A lane that met a fault at the flight's current word. -/
def LaneRun.stopped (l : LaneRun) (f : Flight) (cause : Nat) (info : Word) : LaneRun :=
  { l with fault := some ⟨f.idx, cause, info, false⟩ }

/-- A lane that asks for actions at commit and leaves b0 empty. -/
def LaneRun.asks (l : LaneRun) (a : List Act) : LaneRun :=
  { l with lat := ((none : Option LVal) :: l.lat).take 4, acts := l.acts ++ a }

/-! Integer results (R128). -/

/-- An operation of the low 32 bits, sign-extended, or of all 64. -/
def atWidth (w : Bool) (a b : Word) (op : (n : Nat) → BitVec n → BitVec n → BitVec n) : Word :=
  if w then (op 32 (a.setWidth 32) (b.setWidth 32)).signExtend 64 else op 64 a b

/-- The nearest signed `n`-bit number. -/
def clamp (n : Nat) (v : Int) : BitVec n := BitVec.ofInt n (max (-2 ^ (n - 1)) (min (2 ^ (n - 1) - 1) v))

end Sys2Proof.Machine
end

