-- ==== Sys2Proof/Certificates/Slice0/Obligations.lean ====
section
/-! DEFINITION. The statements about this model: each formalises rules of the spec, or says that it rests on a reading named
in the assumption log. -/
open Sys2Proof Sys2Proof.Machine

/-! Integer and address instructions. -/

/-- R134 to R137 at both widths: sums, differences, negation, absolute value with and without saturation; products, their
high halves and the multiply-add, modulo 2^w; the quotient truncated toward zero and its remainder, with every case of a zero
divisor and of overflow; minimum and maximum. Nothing but the lanes of the clause in flight changes (R133). -/
def Obligations.IntegerArithmetic : Prop :=
  (∀ (s : State) (b : BForm) (m : IntMod),
     GivesG (exec (.iadd b m) s) s b (fun e => atWidth m.w (e.g b.a) (e.g b.b) fun n x y =>
       if m.sat then clamp n (x.toInt + y.toInt) else x + y) ∧
     GivesG (exec (.isub b m) s) s b (fun e => atWidth m.w (e.g b.a) (e.g b.b) fun n x y =>
       if m.sat then clamp n (x.toInt - y.toInt) else x - y) ∧
     GivesG (exec (.ineg b m) s) s b (fun e => atWidth m.w (e.g b.a) 0 fun n x _ =>
       if m.sat then clamp n (-x.toInt) else -x) ∧
     GivesG (exec (.iabs b m) s) s b (fun e => atWidth m.w (e.g b.a) 0 fun n x _ =>
       if m.sat then clamp n x.toInt.natAbs else if x.msb then -x else x) ∧
     GivesG (exec (.imul b m) s) s b (fun e => atWidth m.w (e.g b.a) (e.g b.b) fun _ x y => x * y) ∧
     GivesG (exec (.imulh b m) s) s b (fun e => atWidth m.w (e.g b.a) (e.g b.b) fun n x y =>
       if m.u then (x.setWidth (2 * n) * y.setWidth (2 * n)).extractLsb' n n
       else (x.signExtend (2 * n) * y.signExtend (2 * n)).extractLsb' n n) ∧
     GivesG (exec (.imad b m) s) s b (fun e => atWidth m.w (e.g b.a * e.g b.b) (e.g b.c) fun _ x y => x + y)) ∧
  (∀ (s : State) (b : BForm) (m : IntMod),
     GivesG (exec (.idiv b m) s) s b (fun e => atWidth m.w (e.g b.a) (e.g b.b) fun n x y =>
       if y = 0 then BitVec.allOnes n else if m.u then x / y else x.sdiv y) ∧
     GivesG (exec (.irem b m) s) s b (fun e => atWidth m.w (e.g b.a) (e.g b.b) fun _ x y =>
       if y = 0 then x else if m.u then x % y else x.srem y) ∧
     GivesG (exec (.imin b m) s) s b (fun e => atWidth m.w (e.g b.a) (e.g b.b) fun _ x y =>
       if (if m.u then x.ule y else x.sle y) then x else y) ∧
     GivesG (exec (.imax b m) s) s b (fun e => atWidth m.w (e.g b.a) (e.g b.b) fun _ x y =>
       if (if m.u then y.ule x else y.sle x) then x else y))

/-- R138 to R141 at both widths: bitwise logic; shifts by gB read in full or by POS, where a count of the width or more leaves
zeros or copies of the sign; rotation by the count modulo the width; leading and trailing zeros, set bits, reversal; bit fields
that lie in the width (R131 refuses the others at decode). -/
def Obligations.LogicShiftsAndFields : Prop :=
  (∀ (s : State) (b : BForm) (m : IntMod),
     let count (e : Env) : Nat := if m.i then m.pos.toNat else (e.g b.b).toNat
     GivesG (exec (.and b m) s) s b (fun e => atWidth m.w (e.g b.a) (e.g b.b) fun _ x y => x &&& y) ∧
     GivesG (exec (.or b m) s) s b (fun e => atWidth m.w (e.g b.a) (e.g b.b) fun _ x y => x ||| y) ∧
     GivesG (exec (.xor b m) s) s b (fun e => atWidth m.w (e.g b.a) (e.g b.b) fun _ x y => x ^^^ y) ∧
     GivesG (exec (.andn b m) s) s b (fun e => atWidth m.w (e.g b.a) (e.g b.b) fun _ x y => x &&& ~~~y) ∧
     GivesG (exec (.shl b m) s) s b (fun e => atWidth m.w (e.g b.a) 0 fun _ x _ => x <<< count e) ∧
     GivesG (exec (.shr b m) s) s b (fun e => atWidth m.w (e.g b.a) 0 fun _ x _ => x >>> count e) ∧
     GivesG (exec (.sar b m) s) s b (fun e => atWidth m.w (e.g b.a) 0 fun _ x _ => x.sshiftRight (count e)) ∧
     GivesG (exec (.rol b m) s) s b (fun e => atWidth m.w (e.g b.a) 0 fun n x _ => x.rotateLeft (count e % n))) ∧
  (∀ (s : State) (b : BForm) (m : IntMod),
     let len := m.lenm1.toNat + 1
     GivesG (exec (.clz b m) s) s b (fun e => atWidth m.w (e.g b.a) 0 fun _ x _ => x.clz) ∧
     GivesG (exec (.ctz b m) s) s b (fun e => atWidth m.w (e.g b.a) 0 fun _ x _ => x.ctz) ∧
     GivesG (exec (.popc b m) s) s b (fun e => atWidth m.w (e.g b.a) 0 fun _ x _ => x.cpop) ∧
     GivesG (exec (.brev b m) s) s b (fun e => atWidth m.w (e.g b.a) 0 fun _ x _ => x.reverse) ∧
     ((Instr.bfx b m).wellFormed → GivesG (exec (.bfx b m) s) s b (fun e => atWidth m.w (e.g b.a) 0 fun n x _ =>
       if m.u then (x.extractLsb' m.pos.toNat len).signExtend n else (x.extractLsb' m.pos.toNat len).setWidth n)) ∧
     ((Instr.bfi b m).wellFormed → GivesG (exec (.bfi b m) s) s b (fun e => atWidth m.w (e.g b.a) (e.g b.b) fun n x y =>
       let mask : BitVec n := ((BitVec.allOnes len).setWidth n) <<< m.pos.toNat
       (x &&& ~~~mask) ||| ((y <<< m.pos.toNat) &&& mask))))

/-- R132 and R143: the long-immediate forms, at 64 bits, with the immediate sign-extended from 32 bits (ICMP: from 28 bits,
codes 0 to 5 signed and 6 to 9 unsigned), LEA from the address of the clause's header. -/
def Obligations.LongImmediateForms : Prop :=
  ∀ (s : State) (l : LForm),
    let b : BForm := ⟨l.pn, l.pr, l.dst, l.nw, l.a, .reg 0, .reg 0⟩
    let i : Word := l.imm.signExtend 64
    let j : Word := (l.imm.extractLsb' 0 28).signExtend 64
    GivesG (exec (.iaddImm l) s) s b (fun e => e.g l.a + i) ∧
    GivesG (exec (.imulImm l) s) s b (fun e => e.g l.a * i) ∧
    GivesG (exec (.andImm l) s) s b (fun e => e.g l.a &&& i) ∧
    GivesG (exec (.orImm l) s) s b (fun e => e.g l.a ||| i) ∧
    GivesG (exec (.xorImm l) s) s b (fun e => e.g l.a ^^^ i) ∧
    GivesG (exec (.iminImm l) s) s b (fun e => if (e.g l.a).sle i then e.g l.a else i) ∧
    GivesG (exec (.imaxImm l) s) s b (fun e => if i.sle (e.g l.a) then e.g l.a else i) ∧
    GivesG (exec (.movi l) s) s b (fun _ => i) ∧
    GivesG (exec (.movh l) s) s b (fun e => l.imm ++ (e.g l.a).setWidth 32) ∧
    GivesG (exec (.leaImm l) s) s b (fun e => e.f.addr + 8 * i + e.g l.a) ∧
    ((Instr.icmpImm l).wellFormed → GivesP (exec (.icmpImm l) s) s b (fun e =>
      match (l.imm.extractLsb' 28 4).toNat with
      | 0 => e.g l.a == j
      | 1 => e.g l.a != j
      | 2 => (e.g l.a).slt j
      | 3 => (e.g l.a).sle j
      | 4 => j.slt (e.g l.a)
      | 5 => j.sle (e.g l.a)
      | 6 => (e.g l.a).ult j
      | 7 => (e.g l.a).ule j
      | 8 => j.ult (e.g l.a)
      | _ => j.ule (e.g l.a)))

/-- R142 to R145: comparison at both widths, selection by a predicate read per lane, the move of 64 bits, the effective
address of a scaled index of 64 or 32 bits, and predicate logic with negated sources. -/
def Obligations.CompareSelectMoveAddress : Prop :=
  ∀ (s : State) (b : BForm) (m : IntMod),
    ((Instr.icmp b m).wellFormed → GivesP (exec (.icmp b m) s) s b (fun e =>
      let x : Word := if m.w then (if m.u then ((e.g b.a).setWidth 32).setWidth 64 else ((e.g b.a).setWidth 32).signExtend 64)
        else e.g b.a
      let y : Word := if m.w then (if m.u then ((e.g b.b).setWidth 32).setWidth 64 else ((e.g b.b).setWidth 32).signExtend 64)
        else e.g b.b
      match m.cond.toNat with
      | 0 => x == y
      | 1 => x != y
      | 2 => if m.u then x.ult y else x.slt y
      | 3 => if m.u then x.ule y else x.sle y
      | 4 => if m.u then y.ult x else y.slt x
      | _ => if m.u then y.ule x else y.sle x)) ∧
    GivesG (exec (.sel b) s) s b (fun e => if e.pr b.c then e.g b.a else e.g b.b) ∧
    GivesG (exec (.mov b) s) s b (fun e => e.g b.a) ∧
    ((Instr.lea b m).wellFormed → GivesG (exec (.lea b m) s) s b (fun e =>
      let i : Word := match m.w, m.u with
        | false, _ => e.g b.b
        | true, false => ((e.g b.b).setWidth 32).signExtend 64
        | true, true => ((e.g b.b).setWidth 32).setWidth 64
      e.g b.a + BitVec.ofNat 64 (i.toNat * 2 ^ m.cond.toNat))) ∧
    GivesP (exec (.pand b m) s) s b (fun e => xor (e.pr b.a) m.w && xor (e.pr b.b) m.u) ∧
    GivesP (exec (.por b m) s) s b (fun e => xor (e.pr b.a) m.w || xor (e.pr b.b) m.u) ∧
    GivesP (exec (.pxor b m) s) s b (fun e => xor (xor (e.pr b.a) m.w) (xor (e.pr b.b) m.u)) ∧
    GivesP (exec (.pnot b) s) s b (fun e => !e.pr b.a)

/-! Scalar float instructions. -/

/-- R152 to R154: minimum and maximum return one operand exactly (−0 below +0, the other operand for a NaN), magnitude and
negation act on bit 31 alone, comparison and class follow the tables; none raises a condition. -/
def Obligations.FloatOrderSignAndClass : Prop :=
  ∀ (s : State) (b : BForm) (m : FltMod),
    let code (e : Env) (x : Src) : Nat := (e.g x).toNat % 2 ^ 32
    let mag (c : Nat) : Nat := c % 2 ^ 31
    let neg (c : Nat) : Bool := decide (2 ^ 31 ≤ c)
    let nan (c : Nat) : Bool := decide (0x7F800000 < mag c)
    -- the order of the codes, with −0 just below +0
    let key (c : Nat) : Int := if neg c then -(mag c : Int) - 1 else mag c
    -- the order of the values
    let val (c : Nat) : Int := if neg c then -(mag c : Int) else mag c
    let pick (least : Bool) (x y : Nat) : Nat :=
      if nan x && nan y then 0x7FC00000 else if nan x then y else if nan y then x
      else if (if least then decide (key x ≤ key y) else decide (key y ≤ key x)) then x else y
    GivesG (exec (.fmin b m) s) s b (fun e => BitVec.ofNat 64 (pick true (code e b.a) (code e b.b))) ∧
    GivesG (exec (.fmax b m) s) s b (fun e => BitVec.ofNat 64 (pick false (code e b.a) (code e b.b))) ∧
    GivesG (exec (.fabs b m) s) s b (fun e =>
      if nan (code e b.a) then 0x7FC00000 else BitVec.ofNat 64 (mag (code e b.a))) ∧
    GivesG (exec (.fneg b m) s) s b (fun e =>
      if nan (code e b.a) then 0x7FC00000
      else BitVec.ofNat 64 (if neg (code e b.a) then mag (code e b.a) else mag (code e b.a) + 2 ^ 31)) ∧
    ((Instr.fcmp b m).wellFormed → GivesP (exec (.fcmp b m) s) s b (fun e =>
      let x := code e b.a
      let y := code e b.b
      let un := nan x || nan y
      match m.cond.toNat with
      | 0 => !un && val x == val y
      | 1 => un || val x != val y
      | 2 => !un && decide (val x < val y)
      | 3 => !un && decide (val x ≤ val y)
      | 4 => !un && decide (val y < val x)
      | 5 => !un && decide (val y ≤ val x)
      | 6 => un
      | _ => !un)) ∧
    GivesG (exec (.fclass b m) s) s b (fun e =>
      let x := code e b.a
      let n := mag x
      if nan x then 256
      else if n = 0x7F800000 then (if neg x then 1 else 128)
      else if n = 0 then (if neg x then 8 else 16)
      else if n < 0x800000 then (if neg x then 4 else 32)
      else if neg x then 2 else 64)

/-- An FP32 result of an exact value, rounded once in the mode of the word or of %fcsr at clause start (R147, R150), with the
conditions of the operation and of the rounding. -/
def roundedG (b : BForm) (r : Rnd) (e : Env) (v : X × Fl) : Res (Option LVal × List RegW) :=
  let d := rndF32 (resolveRnd r e.t.fcsr) e.l.seed v.1
  .ok (resG b (BitVec.ofNat 64 d.code)) (v.2 ||| d.fl) d.seed

/-- R151, R155 and R156: each operation takes its operands as exact values, computes exactly and rounds once; sums take the
sign of an exact zero from the mode; FCVT and FTOI round into the format they name. The special inputs of FRCP, FRSQ, FSQRT, FEX2
and FLG2 have the values and conditions of R155's table. (The exact values of roots, powers and logarithms elsewhere are log 12's.) -/
def Obligations.FloatOperationsRoundOnce : Prop :=
  ∀ (s : State) (b : BForm) (m : FltMod),
    let on (i : Instr) (v : Env → X × Fl) : Prop :=
      Computes (exec i s) s b.pn b.pr (oldG b) fun e => roundedG b m.rnd e (v e)
    let x (e : Env) (o : Src) : X := f32 (e.g o).toNat
    let down (e : Env) : Bool := decide (resolveRnd m.rnd e.t.fcsr = .rd)
    on (.fadd b m) (fun e => X.add (down e) (x e b.a) (x e b.b)) ∧
    on (.fsub b m) (fun e => X.add (down e) (x e b.a) (x e b.b).negate) ∧
    on (.fmul b m) (fun e => X.mul (x e b.a) (x e b.b)) ∧
    on (.ffma b m) (fun e =>
      let p := X.mul (x e b.a) (x e b.b)
      let q := X.add (down e) p.1 (x e b.c)
      (q.1, p.2 ||| q.2)) ∧
    on (.frcp b m) (fun e => if (x e b.a).isNan then (.nan, 0) else X.div X.one (x e b.a)) ∧
    on (.frsq b m) (fun e => frsqX (x e b.a)) ∧
    on (.fsqrt b m) (fun e => fsqrtX (x e b.a)) ∧
    on (.fex2 b m) (fun e => fex2X (x e b.a)) ∧
    on (.flg2 b m) (fun e => flg2X (x e b.a)) ∧
    on (.itof b m) (fun e => (X.ofInt (match m.w, m.u with
      | true, true => (((e.g b.a).setWidth 32).toNat : Int)
      | true, false => ((e.g b.a).setWidth 32).toInt
      | false, true => ((e.g b.a).toNat : Int)
      | false, false => (e.g b.a).toInt), 0)) ∧
    Computes (exec (.fcvt b m) s) s b.pn b.pr (oldG b) (fun e =>
      let d := rnd m.fmt2 (resolveRnd m.rnd e.t.fcsr) m.ftz e.l.seed (m.fmt.decode ((e.g b.a).toNat % 2 ^ m.fmt.bits))
      .ok (resG b (BitVec.ofNat 64 d.code)) d.fl d.seed) ∧
    Computes (exec (.ftoi b m) s) s b.pn b.pr (oldG b) (fun e =>
      let mode := resolveRnd m.rnd e.t.fcsr
      let d := withDraw mode e.l.seed (x e b.a) fun u =>
        let v := roundInt (ftoiLo m) (ftoiHi m) mode u (x e b.a)
        ((BitVec.ofInt 64 v.1).toNat, v.2)
      .ok (resG b (if m.w then (BitVec.ofNat 32 d.code).signExtend 64 else BitVec.ofNat 64 d.code)) d.fl d.seed) ∧
    -- the table of R155: zeros, infinities, negative values, NaN
    (∀ (n : Bool) (k : Nat) (i : Int),
      let z : X := .fin n 0 i false
      let nan : X × Fl := (.nan, flNV)
      X.div X.one z = (.inf n, flDZ) ∧ frsqX z = (.inf n, flDZ) ∧ fsqrtX z = (X.zero n, 0) ∧ fex2X z = (X.one, 0) ∧
      flg2X z = (.inf true, flDZ) ∧
      X.div X.one (.inf n) = (X.zero n, 0) ∧ frsqX (.inf n) = (if n then nan else (X.zero false, 0)) ∧
      fsqrtX (.inf n) = (if n then nan else (.inf false, 0)) ∧
      fex2X (.inf n) = (if n then X.zero false else .inf false, 0) ∧ flg2X (.inf n) = (if n then nan else (.inf false, 0)) ∧
      (0 < k → frsqX (.fin true k i false) = nan ∧ fsqrtX (.fin true k i false) = nan ∧ flg2X (.fin true k i false) = nan)) ∧
    frsqX .nan = (.nan, 0) ∧ fsqrtX .nan = (.nan, 0) ∧ fex2X .nan = (.nan, 0) ∧ flg2X .nan = (.nan, 0)

/-! Wide and moment instructions. -/

/-- A packed result in file w (R157), or the scale-operand fault of the first operand whose scale is refused. -/
def packedW (b : BForm) (m : WideMod) (e : Env) (fmt : Fmt) (ops : List (Nat × Src)) (scale : BitVec 16)
    (v : List X) (fl : Fl) : Res (Option LVal × List RegW) :=
  match firstBad m.fmt (ops.map fun o => (o.1, o.2, e.w o.2)) with
  | some i => .trap 13 i
  | none =>
    let p := pack fmt scale (resolveRnd m.rnd e.t.fcsr) m.ftz v fl e.l.seed
    .ok (resW b p.w) p.fl p.seed

/-- R160 and R161: element by element the operands are exact values, the results exact, and the whole is packed under the
scale of the first operand or, with SC, the scale chosen for the results; a refused scale is the scale-operand fault. -/
def Obligations.WideElementArithmetic : Prop :=
  ∀ (s : State) (b : BForm) (m : WideMod),
    let down (e : Env) : Bool := decide (resolveRnd m.rnd e.t.fcsr = .rd)
    let on (i : Instr) (ops : List (Nat × Src)) (f : Env → (Src → X) → X × Fl) : Prop :=
      Computes (exec i s) s b.pn b.pr (oldW b) fun e =>
        let r := (List.range m.fmt.count).map fun k => f e fun o => elemVal m.fmt (e.w o) k
        let v := r.map (·.1)
        packedW b m e m.fmt ops (if m.sc then chooseScale m.fmt m.p2 v else (e.w b.a).scale) v
          (r.foldl (fun a x => a ||| x.2) 0)
    let ab := [(0, b.a), (1, b.b)]
    on (.wadd b m) ab (fun e x => X.add (down e) (x b.a) (x b.b)) ∧
    on (.wsub b m) ab (fun e x => X.add (down e) (x b.a) (x b.b).negate) ∧
    on (.wmul b m) ab (fun _ x => X.mul (x b.a) (x b.b)) ∧
    on (.wfma b m) [(0, b.a), (1, b.b), (2, b.c)] (fun e x =>
      let p := X.mul (x b.a) (x b.b)
      let q := X.add (down e) p.1 (x b.c)
      (q.1, p.2 ||| q.2)) ∧
    on (.wmin b m) ab (fun _ x => (minMaxX false (x b.a) (x b.b), 0)) ∧
    on (.wmax b m) ab (fun _ x => (minMaxX true (x b.a) (x b.b), 0)) ∧
    Computes (exec (.wact b m) s) s b.pn b.pr (oldW b) (fun e =>
      packedW b m e m.fmt [(0, b.a)] (e.w b.a).scale ((elemVals m.fmt (e.w b.a)).map (actX m.fn.toNat)) 0)

/-- R69, R162, R163 and R165: reductions add gC to the exact element values and round once; conversions pack the values of their
source under scale 1, the scale given or the scale chosen; comparison sets one bit per element (R166). A moved element keeps its
code: element `i` of the result of each move is the element that the table of the instruction names, and the scale is that of the
first source (for a broadcast of a g value, 1). WSCL reads the scale or sets it (R164). -/
def Obligations.WideReductionsAndMoves : Prop :=
  (∀ (s : State) (b : BForm) (m : WideMod),
     let down (e : Env) : Bool := decide (resolveRnd m.rnd e.t.fcsr = .rd)
     let vals (e : Env) (o : Src) : List X := elemVals m.fmt (e.w o)
     let c (e : Env) : X := f32 (e.g b.c).toNat
     let group : List (Nat × Src) := (convGroup m b.a).map fun o => (0, o)
     let src (e : Env) : List X :=
       (((convGroup m b.a).flatMap fun o => vals e o).drop (m.idx.toNat * m.fmt2.count)).take m.fmt2.count
     Computes (exec (.wrsum b m) s) s b.pn b.pr (oldG b) (fun e =>
       match firstBad m.fmt [(0, b.a, e.w b.a)] with
       | some i => .trap 13 i
       | none => roundedG b m.rnd e (rsumX m.fn.toNat (down e) (c e) (vals e b.a))) ∧
     Computes (exec (.wdot b m) s) s b.pn b.pr (oldG b) (fun e =>
       match firstBad m.fmt [(0, b.a, e.w b.a), (1, b.b, e.w b.b)] with
       | some i => .trap 13 i
       | none => roundedG b m.rnd e (dotX (down e) (c e) (vals e b.a) (vals e b.b))) ∧
     Computes (exec (.wcvt b m) s) s b.pn b.pr (oldW b) (fun e => packedW b m e m.fmt2 group 0x7F00 (src e) 0) ∧
     Computes (exec (.wdq b m) s) s b.pn b.pr (oldW b) (fun e => packedW b m e m.fmt2 group 0x7F00 (src e) 0) ∧
     Computes (exec (.wqnt b m) s) s b.pn b.pr (oldW b) (fun e =>
       packedW b m e m.fmt2 group (if m.sc then (e.w b.b).scale else chooseScale m.fmt2 m.p2 (src e)) (src e) 0) ∧
     Computes (exec (.wcmp b m) s) s b.pn b.pr (oldG b) (fun e =>
       match firstBad m.fmt [(0, b.a, e.w b.a), (1, b.b, e.w b.b)] with
       | some i => .trap 13 i
       | none => .ok (resG b (BitVec.ofNat 64 ((List.range m.fmt.count).foldl (fun a k =>
           a + boolN (floatRel m.fn.toNat (elemVal m.fmt (e.w b.a) k) (elemVal m.fmt (e.w b.b) k)) * 2 ^ k) 0))) 0 e.l.seed)) ∧
  (∀ (s : State) (b : BForm) (m : WideMod),
     let n := m.fmt.count
     let on (i : Instr) (scale : Env → BitVec 16) (code : Env → Nat → Nat) : Prop :=
       ∃ v : Env → Gran, GivesW (exec i s) s b v ∧ ∀ e, (v e).scale = scale e ∧
         ∀ k, k < n → elemCode m.fmt (v e).pay k = code e k % 2 ^ m.fmt.bits
     let a (e : Env) (k : Nat) : Nat := elemCode m.fmt (e.w b.a).pay k
     on (.wprm b m) (fun e => (e.w b.a).scale) (fun e k => a e (match m.fn.toNat with
       | 0 => ((e.w b.b).pay.extractLsb' (8 * k) 8).toNat % n
       | 1 => (k + m.idx.toNat) % n
       | 2 => k ^^^ m.idx.toNat
       | _ => n - 1 - k)) ∧
     (m.fn = 0 → on (.wbc b m) (fun e => (e.w b.a).scale) (fun e _ => a e m.idx.toNat)) ∧
     (m.fn ≠ 0 → on (.wbc b m) (fun _ => 0x7F00) (fun e _ => (e.g b.b).toNat)) ∧
     on (.wsel b m) (fun e => (e.w b.a).scale) (fun e k =>
       if (e.g b.c).getLsbD k then a e k else elemCode m.fmt (e.w b.b).pay k) ∧
     on (.wins b m) (fun e => (e.w b.a).scale) (fun e k => if k = m.idx.toNat then (e.g b.b).toNat else a e k) ∧
     GivesG (exec (.wext b m) s) s b (fun e => BitVec.ofNat 64 (a e m.idx.toNat)) ∧
     (m.fn = 0 → GivesG (exec (.wscl b m) s) s b (fun e => (e.w b.a).scale.setWidth 64)) ∧
     (m.fn ≠ 0 → GivesW (exec (.wscl b m) s) s b (fun e => ⟨wsclScale m.fn.toNat (e.g b.b), (e.w b.a).pay⟩)))

/-- R170, R171, R175 to R181: MSET and MMOV copy bits, MCOL takes the parts of a moment, MCHK tells of or faults a negative
variance, whose fault names the source and the variance. Every moment operation completes in each lane with the mean and
variance of its formula, or with the negative-variance fault, and leaves everything but the lanes as it was. It completes, with
no fault, where no source variance is negative and, for the sums and products, the operands are independent (CM selects it, or
%mcov does) or, for MADDC, the covariance given does not lessen the variance. Under independence the mean of a sum is the sum of
the means rounded once, its variance the sum of the variances rounded once, in that order of draws, where the variances are
finite and not negative. Where the parts are finite and no variance is negative, the mean and the variance of MADDC, MMUL, MFMA and
MSCL, and LO and HI of MCOL, round the exact values of the formulas of R176 to R178 and R180, with the covariance ρ√(a.v b.v) of
R169; DEV rounds the root, and SAMPLE moves by Φ⁻¹ of a draw. MREL, MSIG and MEXP follow the table of R179 and, for a positive
variance, its formulas, in fixed point of a precision that rises until it fixes the result (log 12). -/
def Obligations.MomentInstructions : Prop :=
  (∀ (s : State) (b : BForm) (m : MomMod),
     let lo (x : Word) : BitVec 32 := x.extractLsb' 0 32
     let hi (x : Word) : BitVec 32 := x.extractLsb' 32 32
     -- negative: the sign is set and the value is neither zero nor NaN
     let bad (v : BitVec 32) : Bool := v.msb && v.extractLsb' 0 31 != 0 && (v.extractLsb' 0 31).ule 0x7F800000
     let fault (v : BitVec 32) (k : BitVec 32) : Res (Option LVal × List RegW) := .trap 14 (v ++ k)
     Computes (exec (.mset b m) s) s b.pn b.pr (oldM b) (fun e =>
       if bad (lo (e.g b.b)) then fault (lo (e.g b.b)) 1 else .ok (resM b (lo (e.g b.b) ++ lo (e.g b.a))) 0 e.l.seed) ∧
     (m.fn = 0 → Computes (exec (.mmov b m) s) s b.pn b.pr (oldM b) fun e => .ok (resM b (e.m b.a)) 0 e.l.seed) ∧
     (m.fn = 1 → GivesG (exec (.mmov b m) s) s b fun e => e.m b.a) ∧
     (m.fn = 2 → Computes (exec (.mmov b m) s) s b.pn b.pr (oldM b) fun e => .ok (resM b (e.g b.a)) 0 e.l.seed) ∧
     (m.fn.toNat < 2 → Computes (exec (.mcol b m) s) s b.pn b.pr (oldG b) fun e =>
       let x := e.m b.a
       if bad (hi x) then fault (hi x) 0
       else .ok (resG b ((if m.fn = 0 then lo x else hi x).setWidth 64)) 0 e.l.seed) ∧
     (m.fn = 0 → GivesP (exec (.mchk b m) s) s b fun e =>
       let x := e.m b.a
       decide ((lo x).extractLsb' 23 8 ≠ 255) && decide ((hi x).extractLsb' 23 8 ≠ 255) && !bad (hi x)) ∧
     (m.fn ≠ 0 → Computes (exec (.mchk b m) s) s b.pn b.pr (fun _ => none) fun e =>
       if bad (hi (e.m b.a)) then fault (hi (e.m b.a)) 0 else .ok (none, []) 0 e.l.seed)) ∧
  (∀ (s : State) (b : BForm) (m : MomMod),
     let on (i : Instr) (r : Env → Res Word) : Prop :=
       Computes (exec i s) s b.pn b.pr (oldM b) fun e => (r e).map (resM b)
     on (.madd b m) (fun e => e.maddsub b m false) ∧
     on (.msub b m) (fun e => e.maddsub b m true) ∧
     on (.maddc b m) (fun e => e.maddc b m) ∧
     on (.mmul b m) (fun e => e.mmul b m) ∧
     on (.mfma b m) (fun e => e.mfma b m) ∧
     on (.mscl b m) (fun e => e.mscl b m) ∧
     on (.mrel b m) (fun e => e.mnonlin b m 0) ∧
     on (.msig b m) (fun e => e.mnonlin b m 1) ∧
     on (.mexp b m) (fun e => e.mnonlin b m 2) ∧
     Computes (exec (.mcol b m) s) s b.pn b.pr (oldG b) (fun e => (e.mcol b m).map (resG b))) ∧
  (∀ (s : State) (b : BForm) (m : MomMod),
     let sound (e : Env) (o : Src) : Prop := negVar (momVar (e.m o)) = false
     let apart (e : Env) : Prop := cvMode m.cm e.t.mcov = 0
     let two (e : Env) : Prop := sound e b.a ∧ sound e b.b
     -- the covariance of MADDC, not of the sign that lessens the variance
     let more (e : Env) : Prop :=
       let g := f32 (e.g b.c).toNat
       g.isNan = true ∨ g.isZero = true ∨ g.neg? = m.n
     let onM (i : Instr) (p : Env → Prop) : Prop := Finishes (exec i s) s b (resM b) p
     onM (.mset b m) (fun e => negVar (f32 (e.g b.b).toNat) = false) ∧
     (m.fn ≠ 1 → onM (.mmov b m) fun _ => True) ∧
     (m.fn = 1 → Finishes (exec (.mmov b m) s) s b (resG b) fun _ => True) ∧
     Finishes (exec (.mcol b m) s) s b (resG b) (fun e => sound e b.a) ∧
     onM (.madd b m) (fun e => apart e ∧ two e) ∧
     onM (.msub b m) (fun e => apart e ∧ two e) ∧
     onM (.mmul b m) (fun e => apart e ∧ two e) ∧
     onM (.mfma b m) (fun e => apart e ∧ two e ∧ sound e b.c) ∧
     onM (.maddc b m) (fun e => more e ∧ two e) ∧
     onM (.mscl b m) (fun e => sound e b.a) ∧
     onM (.mrel b m) (fun e => sound e b.a) ∧
     onM (.msig b m) (fun e => sound e b.a) ∧
     onM (.mexp b m) (fun e => sound e b.a) ∧
     (m.fn = 0 → Finishes (exec (.mchk b m) s) s b (fun v => resP b (v.getLsbD 0)) fun _ => True) ∧
     (m.fn ≠ 0 → Finishes (exec (.mchk b m) s) s b (fun _ => (none, [])) fun e => sound e b.a)) ∧
  (∀ (e : Env) (b : BForm) (m : MomMod), cvMode m.cm e.t.mcov = 0 →
     let x := e.m b.a
     let y := e.m b.b
     (momMean x).isFin → (momMean y).isFin → (momVar x).isFin → (momVar y).isFin →
     negVar (momVar x) = false → negVar (momVar y) = false →
     let mode := resolveRnd m.rnd e.t.fcsr
     let down := decide (mode = .rd)
     ∀ sub : Bool,
       let mu := rndF32 mode e.l.seed (X.add down (momMean x) (if sub then (momMean y).negate else momMean y)).1
       let v := rndF32 mode mu.seed (X.add down (momVar x) (momVar y)).1
       e.maddsub b m sub = .ok (momOf mu.code (if v.code = 2 ^ 31 then 0 else v.code)) (mu.fl ||| v.fl) v.seed) ∧
  (∀ (e : Env) (b : BForm) (m : MomMod),
     let mode := resolveRnd m.rnd e.t.fcsr
     let good (w : Word) : Prop := (momMean w).isFin ∧ (momVar w).isFin ∧ negVar (momVar w) = false
     let mean (o : Src) : Dy := (momMean (e.m o)).dy
     let var (o : Src) : Dy := (momVar (e.m o)).dy
     let g (o : Src) : Dy := (f32 (e.g o).toNat).dy
     let two : Dy := ⟨2, 0⟩
     -- the same real number
     let same (x y : Dy) : Prop := x.lt y = false ∧ y.lt x = false
     -- a moment whose mean and variance are the exact values p + q √c, each rounded once, mean first
     let rounds (c p q p' q' : Dy) (r : Res Word) : Prop := ∃ (x y x' y' : Dy) (z z' : Bool),
       same x p ∧ same y q ∧ same x' p' ∧ same y' q' ∧
       (0 ≤ qsgn x' y' c →
         let mu := rndF32 mode e.l.seed (V.toX c (.fin x y z))
         let v := rndF32 mode mu.seed (V.toX c (.fin x' y' z'))
         r = .ok (momOf mu.code (if v.code = 2 ^ 31 then 0 else v.code)) (mu.fl ||| v.fl) v.seed)
     let c := (var b.a).mul (var b.b)
     -- the covariance of R169 is ρ √c
     let rho : Dy := match cvMode m.cm e.t.mcov with | 0 => Dy.zero | 1 => (f32 e.t.mrho.toNat).dy | _ => ⟨1, 0⟩
     let ab : Dy := (mean b.a).mul (mean b.b)
     let spread : Dy := ((((mean b.a).mul (mean b.a)).mul (var b.b)).add (((mean b.b).mul (mean b.b)).mul (var b.a))).add
       (((var b.a).mul (var b.b)).add ((rho.mul rho).mul c))
     let cross : Dy := (two.mul ab).mul rho
     (good (e.m b.a) → good (e.m b.b) → (f32 (e.g b.c).toNat).isFin →
       let k : Dy := two.mul (if m.n then (g b.c).neg else g b.c)
       rounds Dy.zero ((mean b.a).add (if m.n then (mean b.b).neg else mean b.b)) Dy.zero
         (((var b.a).add (var b.b)).add k) Dy.zero (e.maddc b m)) ∧
     (good (e.m b.a) → good (e.m b.b) → cvMode m.cm e.t.mcov ≤ 2 → (f32 e.t.mrho.toNat).isFin →
       rounds c ab rho spread cross (e.mmul b m) ∧
       (good (e.m b.c) →
         rounds c (ab.add (mean b.c)) rho (spread.add (var b.c)) cross (e.mfma b m))) ∧
     (good (e.m b.a) → (f32 (e.g b.b).toNat).isFin → (f32 (e.g b.c).toNat).isFin →
       rounds Dy.zero (((g b.b).mul (mean b.a)).add (g b.c)) Dy.zero (((g b.b).mul (g b.b)).mul (var b.a)) Dy.zero
         (e.mscl b m)) ∧
     (good (e.m b.a) →
       let v := var b.a
       let gives (d : Rd) : Prop := e.mcol b m = .ok (BitVec.ofNat 64 d.code) d.fl d.seed
       -- DEV, LO and HI
       (m.fn = 2 → v.m ≠ 0 → gives (rndF32 mode e.l.seed (sqrtX v))) ∧
       (m.fn = 3 ∨ m.fn = 4 → (f32 (e.g b.b).toNat).isFin → ∃ (x y : Dy) (z : Bool),
         same x (mean b.a) ∧ same y (if m.fn = 3 then (g b.b).neg else g b.b) ∧
         gives (rndF32 mode e.l.seed (V.toX v (.fin x y z)))) ∧
       -- SAMPLE, its own draw first
       (m.fn = 5 → let d := nextDraw e.l.seed
         gives (rndF32 mode d.2 (if v.m = 0 then momMean (e.m b.a) else sampleX (mean b.a) v d.1))))) ∧
  (∀ (e : Env) (b : BForm) (m : MomMod) (fn : Nat), fn < 3 →
     let mode := resolveRnd m.rnd e.t.fcsr
     let mu := momMean (e.m b.a)
     let v := momVar (e.m b.a)
     let rounds (x y : X) (fl : Fl) : Prop :=
       let p := rndF32 mode e.l.seed x
       let q := rndF32 mode p.seed y
       e.mnonlin b m fn = .ok (momOf p.code (if q.code = 2 ^ 31 then 0 else q.code)) (fl ||| p.fl ||| q.fl) q.seed
     negVar v = false →
     -- the table of R179
     (mu.isFin → v.isZero → rounds (match fn with
       | 0 => if mu.neg? then X.zero false else mu
       | 1 => sigX mu.dy
       | _ => expX mu.dy) (X.zero false) 0) ∧
     (mu = .inf false → v.isFin → match fn with
       | 0 => rounds (.inf false) v 0
       | 1 => rounds X.one (X.zero false) 0
       | _ => rounds (.inf false) (.inf false) 0) ∧
     (mu = .inf true → v.isFin → rounds (X.zero false) (X.zero false) 0) ∧
     (mu.isFin → v = .inf false → match fn with
       | 1 => rounds (.fin false 1 (-1) false) (.fin false 1 (-2) false) 0
       | _ => rounds (.inf false) (.inf false) 0) ∧
     (mu.isInf → v = .inf false → rounds .nan .nan flNV) ∧
     (mu.isNan ∨ v.isNan → rounds .nan .nan 0) ∧
     -- its formulas at scale w, away from the ends of the functions
     (mu.isFin → v.isFin → v.isZero = false →
       let m0 (w : Nat) : Int := fixDy w mu.dy
       let s (w : Nat) : Int := fixSqrt w v.dy
       let a (w : Nat) : Int := fdivW w (m0 w) (s w)
       let big := (v.dy.mul (dyInt 1764)).lt (mu.dy.mul mu.dy)
       let rm (w : Nat) : Int := fmul w (m0 w) (fixPhi w (a w)) + fmul w (s w) (fixPdf w (a w))
       let rq (w : Nat) : Int := fmul w (fixDy w ((mu.dy.mul mu.dy).add v.dy)) (fixPhi w (a w)) +
         fmul w (m0 w) (fmul w (s w) (fixPdf w (a w)))
       let far := ((dyInt 490000).mul ((dyInt 1).add (v.dy.mul ⟨1, -1⟩))).lt (mu.dy.mul mu.dy)
       let kap (w : Nat) : Int := fdivW w (2 ^ w) (fsqrtW w (2 ^ w + fmul w (fixPi w) (fixDy w v.dy) / 8))
       let sm (w : Nat) : Int := fixSig w (fmul w (kap w) (m0 w))
       let t := (mu.dy.mul (dyInt 2)).add v.dy
       let u := t.add v.dy
       (fn = 0 → big = false →
         rounds (ziv false rm zivBits) (ziv false (fun w => rq w - fmul w (rm w) (rm w)) zivBits) 0) ∧
       (fn = 1 → far = false → mu.isZero = false →
         rounds (ziv false sm zivBits) (ziv false (fun w => fmul w (fmul w (sm w) (2 ^ w - sm w)) (2 ^ w - kap w)) zivBits) 0) ∧
       (fn = 2 → Dy.lt (dyInt 700) u = false → u.lt (dyInt (-700)) = false → u.isZero = false →
         rounds (expX (mu.dy.add (v.dy.mul ⟨1, -1⟩)))
           (ziv false (fun w => fixExp w (fixDy w u) - fixExp w (fixDy w t)) zivBits) 0)))

/-! Control, threads, bands, barriers and the truss. -/

/-- R117, R124, R125 and R126: NOP changes nothing but b0; the participating lanes of a vote are those of the group whose guard
is true; a shuffle reads gA as the source lane reads it; TRQ reads the mask, the arrival and the phase of a channel: its register
takes what they are at commit. -/
def Obligations.GroupQueries : Prop :=
  ∀ (s : State) (b : BForm),
    let part (e : Env) : List LaneRun := e.f.lanes.filter fun l => l.guard b.pn b.pr
    let yes (e : Env) (l : LaneRun) : Bool := Env.pr ⟨e.s, e.f, l⟩ b.a
    (∀ f rest, s.flights = f :: rest → exec (.nop b) s = .next { s with flights :=
      { f with idx := f.idx + 1, lanes := f.lanes.map fun l =>
          if l.active then { l with lat := ((none : Option LVal) :: l.lat).take 4 } else l } :: rest }) ∧
    GivesP (exec (.vote b 0) s) s b (fun e => decide (∀ l ∈ part e, yes e l = true)) ∧
    GivesP (exec (.vote b 1) s) s b (fun e => decide (∃ l ∈ part e, yes e l = true)) ∧
    GivesP (exec (.vote b 2) s) s b (fun e =>
      decide (∀ l ∈ part e, yes e l = true) || decide (∀ l ∈ part e, yes e l = false)) ∧
    GivesG (exec (.vote b 3) s) s b (fun e =>
      BitVec.ofNat 64 (((part e).filter (yes e)).map fun l => 2 ^ l.lane).sum) ∧
    (∀ (mode : BitVec 2) (seg : BitVec 3), seg.toNat ≤ 5 → GivesG (exec (.shfl b mode seg) s) s b (fun e =>
      let w := 32 / 2 ^ seg.toNat
      let l := e.l.lane
      let base := l - l % w
      let v := (e.g b.b).toNat
      let src := match mode.toNat with
        | 0 => base + v % w
        | 1 => if v < w ∧ v ≤ l - base then l - v else l
        | 2 => if v < w ∧ l + v < base + w then l + v else l
        | _ => base + ((l - base) ^^^ (v % w))
      match (part e).find? fun x => x.lane == src with
      | some x => Env.g ⟨e.s, e.f, x⟩ b.a
      | none => e.g b.a)) ∧
    ∀ ch : BitVec 4,
      let shows (u : State) (p : PId) : Word := (0 : BitVec 30) ++ BitVec.ofBool (((u.site p.site).mask ch.toNat).getLsbD p.core) ++
        BitVec.ofBool ((u.proc p).tarr.get false ch.toNat) ++ (u.proc p).tgen.get 0 ch.toNat
      (∀ f rest l, OneLane s b.pn b.pr f rest l → exec (.trq b ch) s = .next (s.left { l with
        lat := (some (.g (shows s f.p)) :: l.lat).take 4
        writes := (if b.nw then [] else [.g b.dst.toNat (shows s f.p)]) ++ l.writes
        acts := l.acts ++ if b.nw then [] else [.trq ch.toNat b.dst.toNat (l.writes.length + 1)] })) ∧
      ∀ (u : State) (t : TId) (dst k : Nat), u.enact t (.trq ch.toNat dst k) = u.modTh t fun th => th.setG dst (shows u t.p)

/-- R35, R36, R38 and R46: at its commit a lane's thread takes the register results in program order, the random state, the
conditions raised (the negative variance clipped among them, in %mcov, R170) and the fall-through header as its pc; with YLD it
takes the youngest age. Where the clause asked for nothing more, nothing else changes. An instruction that ends its clause does nothing in a lane whose guard is false, or that met
a fault, or whose clause has already committed there. -/
def Obligations.CommitAndGuards : Prop :=
  (∀ (s : State) (f : Flight) (l : LaneRun), l.acts = [] →
     let t := s.committed f l
     t = s.setTh (f.tid l) (t.th (f.tid l)) ∧
     (∀ u, u ≠ f.tid l → t.th u = s.th u) ∧
     (t.th (f.tid l)).pc = f.addr + BitVec.ofNat 64 (8 * (f.hdr.cnt.toNat + 2)) ∧
     (t.th (f.tid l)).seed = l.seed ∧
     (t.th (f.tid l)).fcsr = raiseFlags (s.th (f.tid l)).fcsr l.flags ∧
     (t.th (f.tid l)).age = (if f.hdr.yld then s.cycles f.p else (s.th (f.tid l)).age) ∧
     (let w := (s.th (f.tid l)).writes l.writes
      (t.th (f.tid l)).gr = w.gr ∧ (t.th (f.tid l)).pr = w.pr ∧ (t.th (f.tid l)).wr = w.wr ∧ (t.th (f.tid l)).mr = w.mr) ∧
     (t.th (f.tid l)).mrho = (s.th (f.tid l)).mrho ∧ (t.th (f.tid l)).gsd = (s.th (f.tid l)).gsd ∧
     (t.th (f.tid l)).sb = (s.th (f.tid l)).sb ∧ (t.th (f.tid l)).band = (s.th (f.tid l)).band ∧
     (t.th (f.tid l)).frames = (s.th (f.tid l)).frames ∧ (t.th (f.tid l)).lnk = (s.th (f.tid l)).lnk ∧
     (t.th (f.tid l)).st = (s.th (f.tid l)).st ∧ (t.th (f.tid l)).tst = (s.th (f.tid l)).tst ∧
     (t.th (f.tid l)).tp = (s.th (f.tid l)).tp ∧ (t.th (f.tid l)).tc = (s.th (f.tid l)).tc ∧
     (t.th (f.tid l)).ti = (s.th (f.tid l)).ti ∧
     (t.th (f.tid l)).mcov = (if l.flags.getLsbD 7 then (s.th (f.tid l)).mcov ||| 256 else (s.th (f.tid l)).mcov) ∧
     (t.th (f.tid l)).walks = (s.th (f.tid l)).walks ∧ (t.th (f.tid l)).spilled = (s.th (f.tid l)).spilled ∧
     (t.th (f.tid l)).wsp = (s.th (f.tid l)).wsp ∧ (t.th (f.tid l)).tk0 = (s.th (f.tid l)).tk0 ∧
     (t.th (f.tid l)).tk1 = (s.th (f.tid l)).tk1 ∧ (t.th (f.tid l)).wait = (s.th (f.tid l)).wait ∧
     (t.th (f.tid l)).handler = (s.th (f.tid l)).handler ∧ (t.th (f.tid l)).erec = (s.th (f.tid l)).erec ∧
     (t.th (f.tid l)).prec = (s.th (f.tid l)).prec ∧ (t.th (f.tid l)).pend = (s.th (f.tid l)).pend ∧
     (t.th (f.tid l)).hold = (s.th (f.tid l)).hold ∧ (t.th (f.tid l)).acqRet = (s.th (f.tid l)).acqRet ∧
     (t.th (f.tid l)).acqWaf = (s.th (f.tid l)).acqWaf ∧ (t.th (f.tid l)).seen = (s.th (f.tid l)).seen ∧
     (t.th (f.tid l)).ctx = (s.th (f.tid l)).ctx ∧ (t.th (f.tid l)).entry = (s.th (f.tid l)).entry ∧
     (t.th (f.tid l)).kin = (s.th (f.tid l)).kin) ∧
  (∀ (s : State) (b : BForm) (j : JForm) (q : QForm) (f : Flight) (rest : List Flight) (l : LaneRun),
     s.flights = f :: rest → f.lanes = [l] →
     let off (pn : Bool) (pr : BitVec 3) : Prop := l.active = false ∨ l.guard pn pr = false
     (off b.pn b.pr → exec (.yield_ b) s = .next (s.left l) ∧ exec (.exit b) s = .next (s.left l) ∧
       exec (.brx b) s = .next (s.left l) ∧ exec (.callx b) s = .next (s.left l) ∧ exec (.ret b) s = .next (s.left l) ∧
       exec (.bandnew b) s = .next (s.left l) ∧ exec (.join b) s = .next (s.left l) ∧
       exec (.leave b) s = .next (s.left l) ∧ exec (.eret b) s = .next (s.left l) ∧ exec (.halt b) s = .next (s.left l) ∧
       exec (.waitev b) s = .next (s.left l) ∧ exec (.klaunch b) s = .next (s.left l)) ∧
     (off j.pn j.pr → exec (.bra j) s = .next (s.left l) ∧ exec (.brc j) s = .next (s.left l) ∧
       exec (.call j) s = .next (s.left l)) ∧
     (off q.pn q.pr → exec (.tfree q) s = .next (s.left l) ∧ exec (.unpin q) s = .next (s.left l) ∧
       ∀ err, exec (.hexit q err) s = .next (s.left l)))

/-- R89, R90, R117 and R251: YIELD makes its thread the youngest; SLEEP parks it until %clk reaches its value at commit plus c,
and with c = 0 yields; EXIT and HEXIT retire it, HEXIT.ERR with the low eight bits of gA as its code. A thread that retires
leaves its band (the last member ends it) and the rejoin registers of its row; its slot is FREE, in the state of R87, once every
scoreboard reads zero, and EXITING till then. Memory, the poison and every other processor stay. -/
def Obligations.ThreadsYieldAndEnd : Prop :=
  (∀ (s : State) (b : BForm) (q : QForm) (cycles : BitVec 24) (f : Flight) (rest : List Flight) (l : LaneRun),
     let e : Env := ⟨s, f, l⟩
     let c := s.committed f l
     let t := f.tid l
     let young := c.modTh t fun th => { th with age := c.cycles f.p }
     let n := (e.g b.a).toNat % 2 ^ 32 + cycles.toNat
     (OneLane s b.pn b.pr f rest l →
       exec (.yield_ b) s = .next (young.ended l) ∧
       (n = 0 → exec (.sleep b cycles) s = .next (young.ended l)) ∧
       (n ≠ 0 → (c.th t).faultWaits = false → exec (.sleep b cycles) s = .next
         ((c.modTh t fun th => { th with st := .parked, wait := .sleep (c.cycles f.p + n) }).ended l)) ∧
       exec (.exit b) s = .next ((c.retire t false 0).ended l)) ∧
     (OneLane s q.pn q.pr f rest l →
       exec (.hexit q false) s = .next ((c.retire t false 0).ended l) ∧
       exec (.hexit q true) s = .next ((c.retire t true ((e.g q.a).toNat % 256)).ended l))) ∧
  (∀ (s : State) (t : TId) (err : Bool) (code : Nat),
     let u := s.retire t err code
     ((s.th t).sb.toList.all (fun n => n == 0) = true → u.th t = Thread.free) ∧
     ((s.th t).sb.toList.all (fun n => n == 0) = false → (u.th t).st = .exiting ∧ (u.th t).sb = (s.th t).sb ∧
       (u.th t).pend = []) ∧
     (u.th t).band = none ∧
     (∀ br x, (s.th t).band = some br → (s.proc t.p).band br = some x →
       let m := x.members.filter (· != (t.lane, t.slot))
       (m ≠ [] → (u.proc t.p).band br = some { x with members := m }) ∧
       (m = [] → ∃ k ∈ (u.proc t.p).closing, k.num = br.num ∧ k.epoch = x.epoch ∧ k.killed = false)) ∧
     (∀ j, j < 8 → ((u.proc t.p).rejoin t.slot j).1.getLsbD t.lane = false) ∧
     u.mem = s.mem ∧ u.poison = s.poison ∧ ∀ p, p ≠ t.p → u.proc p = s.proc p)

/-- R119: the control transfers, with the target checked before the window: CALL and CALLX open a frame linked to the
fall-through header, RET closes one; a seventh held frame is window-spill, a return with none held window-fill, whose %ti
tells that none is spilled either. -/
def Obligations.ControlTransfers : Prop :=
  ∀ (s : State) (b : BForm) (j : JForm) (f : Flight) (rest : List Flight) (l : LaneRun),
    let e : Env := ⟨s, f, l⟩
    let c := s.committed f l
    let t := f.tid l
    let rel : Word := f.addr + 8 * j.off.signExtend 64
    let fall : Word := f.addr + BitVec.ofNat 64 (8 * (f.hdr.cnt.toNat + 2))
    let goes (a : Word) : State := c.modTh t fun th => { th with pc := a }
    let opened (a : Word) : State := ({ c with nextId := c.nextId + 1 }).modTh t fun th =>
      { th.openFrame (c.nextId + 1) fall with pc := a }
    (OneLane s j.pn j.pr f rest l →
      exec (.bra j) s = .next ((goes rel).ended l) ∧
      (e.g j.a ≠ 0 → exec (.brc j) s = .next ((goes rel).ended l)) ∧
      (e.g j.a = 0 → exec (.brc j) s = .next (c.ended l)) ∧
      (rel.toNat % 8 ≠ 0 → exec (.call j) s = .next (s.left (l.stopped f 1 rel))) ∧
      (rel.toNat % 8 = 0 → l.t0.frames.length = 6 → exec (.call j) s = .next (s.left (l.stopped f 17 0))) ∧
      (rel.toNat % 8 = 0 → l.t0.frames.length ≠ 6 → exec (.call j) s = .next ((opened rel).ended l))) ∧
    (OneLane s b.pn b.pr f rest l →
      let a := e.g b.a
      let k := l.t0.lnk
      (a.toNat % 8 = 0 → exec (.brx b) s = .next ((goes a).ended l)) ∧
      (a.toNat % 8 ≠ 0 → exec (.brx b) s = .next (s.left (l.stopped f 1 a)) ∧
        exec (.callx b) s = .next (s.left (l.stopped f 1 a))) ∧
      (a.toNat % 8 = 0 → l.t0.frames.length = 6 → exec (.callx b) s = .next (s.left (l.stopped f 17 0))) ∧
      (a.toNat % 8 = 0 → l.t0.frames.length ≠ 6 → exec (.callx b) s = .next ((opened a).ended l)) ∧
      (k.toNat % 8 ≠ 0 → exec (.ret b) s = .next (s.left (l.stopped f 1 k))) ∧
      (k.toNat % 8 = 0 → l.t0.frames = [] →
        exec (.ret b) s = .next (s.left (l.stopped f 18 (if l.t0.spilled = 0 then 1 else 0)))) ∧
      (k.toNat % 8 = 0 → l.t0.frames ≠ [] →
        exec (.ret b) s = .next ((c.modTh t fun th => { th.closeFrame with pc := k }).ended l)))

/-- R98: a new frame passes g24 to g31 of the caller as its g8 to g15, keeps g0 to g7 and reads zero in g16 to g31; closing it
brings back the caller's g8 to g23 and link, and its g24 to g31 are the g8 to g15 that the callee leaves. Nothing else of the
thread changes but the frame's identity, and at its close the record that it is closed (MODEL'S OWN, for R101). -/
def Obligations.RegisterWindowsOverlap : Prop :=
  ∀ (t : Thread) (id : Nat) (link : Word),
    let o := t.openFrame id link
    (∀ n, n < 8 → o.g n = t.g n) ∧ (∀ n, 8 ≤ n → n < 16 → o.g n = t.g (n + 16)) ∧
    (∀ n, 16 ≤ n → n < 32 → o.g n = 0) ∧ o.lnk = link ∧ o.frames.length = t.frames.length + 1 ∧
    -- every field but the registers of the frame, its link and its place among the frames
    o = { t with gr := o.gr, lnk := o.lnk, frames := o.frames, fid := o.fid, parent := o.parent } ∧
    ∀ u : Thread, u.frames = o.frames →
      let c := u.closeFrame
      c.frames = t.frames ∧ c.lnk = t.lnk ∧ c.fid = t.fid ∧ c.parent = t.parent ∧
      (∀ n, n < 8 → c.g n = u.g n) ∧ (∀ n, 8 ≤ n → n < 24 → c.g n = t.g n) ∧
      (∀ n, 24 ≤ n → n < 32 → c.g n = u.g (n - 16)) ∧
      c = { u with gr := c.gr, lnk := c.lnk, frames := c.frames, fid := c.fid, parent := c.parent, closed := c.closed }

/-- R120: SPAWN answers by the lowest row of its table that applies; a granted slot holds a READY thread at gA with the
spawner's g1 to g7 of clause start, gC in g8, its %fcsr, %mcov and %mrho as they stand at the spawner's commit (DEDUCED, log 16),
zero in the other registers, and with .B the spawner's band. -/
def Obligations.SpawnCreatesAThread : Prop :=
  ∀ (s : State) (b : BForm) (join : Bool) (f : Flight) (rest : List Flight) (l : LaneRun),
    OneLane s b.pn b.pr f rest l →
    let e : Env := ⟨s, f, l⟩
    let c := s.committed f l
    let t := f.tid l
    let lane := (e.g b.b).toNat
    let gives (v : Word) : Prop := exec (.spawn b join) s = .next ((c.putG t b.dst v).ended l)
    let full : Prop := join = true ∧ ∃ br, l.t0.band = some br ∧ ∃ x, (c.proc f.p).band br = some x ∧ 512 ≤ x.members.length
    ((e.g b.a).toNat % 8 ≠ 0 → gives 0xFFFFFFFFFFFFFFFD) ∧
    ((e.g b.a).toNat % 8 = 0 → lanesOf f.p ≤ lane → gives 0xFFFFFFFFFFFFFFFE) ∧
    ((e.g b.a).toNat % 8 = 0 → lane < lanesOf f.p → full → gives 0xFFFFFFFFFFFFFFFC) ∧
    ((e.g b.a).toNat % 8 = 0 → lane < lanesOf f.p → ¬ full →
      (c.spawnSlot f.p l.t0.entry lane = none → gives 0xFFFFFFFFFFFFFFFF) ∧
      ∀ k, c.spawnSlot f.p l.t0.entry lane = some k → (⟨f.p, lane, k⟩ : TId) ≠ t →
        ∃ u : State, exec (.spawn b join) s = .next (u.ended l) ∧
          (u.th t).g b.dst.toNat = (if b.dst = 0 then 0 else if b.dst.toNat < 32 then BitVec.ofNat 64 k else 0) ∧
          let n := u.th ⟨f.p, lane, k⟩
          n.st = .ready ∧ n.pc = e.g b.a ∧ n.ctx = (c.th t).ctx ∧
          (∀ r, 1 ≤ r → r ≤ 7 → n.g r = l.t0.g r) ∧ n.g 8 = e.g b.c ∧ (∀ r, 9 ≤ r → r < 32 → n.g r = 0) ∧
          n.fcsr = (c.th t).fcsr ∧ n.mcov = (c.th t).mcov ∧ n.mrho = (c.th t).mrho ∧
          (∀ r, n.w r = ⟨0, 0⟩) ∧ (∀ r, n.m r = 0) ∧ (∀ r, r < 7 → n.p r = false) ∧
          (join = false → n.band = none) ∧
          (join = true → ∀ br x, (c.th t).band = some br → (c.proc f.p).band br = some x → n.band = some br ∧
            ∃ y, (u.proc f.p).band br = some y ∧ y.members = x.members ++ [(lane, k)]) ∧
          u.mem = c.mem ∧ ∀ v, v ≠ t → v ≠ ⟨f.p, lane, k⟩ → u.th v = c.th v)

/-- R102 to R104, R121 and R345: BANDNEW takes the lowest free number (one that a STOPPED entry holds is freed for the claim),
counts its epoch on and makes its thread the one member; JOIN and LEAVE change the membership; each raises the band-state fault
where the rule says. The LEAVE of the last member ends the band: its tiles are freed (one with work in flight once that is done,
log 20; the tile of a BOUND launch once its chunk is read), its pins and its hold of the sequencer go, its number is closed, and each
thread parked on one of its barriers is READY with a pending barrier-dead fault. BANDQ answers by its table, and zero for a stale
handle. -/
def Obligations.BandMembership : Prop :=
  ∀ (s : State) (b : BForm) (f : Flight) (rest : List Flight) (l : LaneRun),
    OneLane s b.pn b.pr f rest l →
    let e : Env := ⟨s, f, l⟩
    let c := s.committed f l
    let t := f.tid l
    let all : Word := BitVec.allOnes 64
    let d := c.claimBands f.p l.t0.entry 1
    ((s.th t).band ≠ none → exec (.bandnew b) s = .next (s.left (l.stopped f 15 all)) ∧
      exec (.join b) s = .next (s.left (l.stopped f 15 (e.g b.a)))) ∧
    ((s.th t).band = none → (d.proc f.p).freeBand = none → exec (.bandnew b) s = .next ((d.putG t b.dst all).ended l)) ∧
    ((c.proc f.p).freeBand ≠ none → d = c) ∧
    (∀ k, (s.th t).band = none → (d.proc f.p).freeBand = some k →
      ∃ u : State, exec (.bandnew b) s = .next (u.ended l) ∧
        let n := ((d.proc f.p).epochs.get 0 k + 1) % 65536
        let h : Word := BitVec.ofNat 64 (n * 2 ^ 16 + k)
        (u.th t).band = some ⟨k, n⟩ ∧ ((u.proc f.p).epochs.get 0 k) = n ∧
        (u.proc f.p).bands.find k = some ⟨n, (e.g b.a).extractLsb' 0 48, [(l.lane, f.row)], [], l.t0.entry⟩ ∧
        (b.dst ≠ 0 → b.dst.toNat < 32 → (u.th t).g b.dst.toNat = h) ∧
        u.mem = c.mem ∧ (∀ v, v ≠ t → u.th v = c.th v) ∧ ∀ p, p ≠ f.p → u.proc p = c.proc p) ∧
    ((s.th t).band = none → ((s.proc f.p).handle (e.g b.a)).bind (s.proc f.p).band = none →
      exec (.join b) s = .next (s.left (l.stopped f 15 (e.g b.a)))) ∧
    (∀ br x, (s.th t).band = none → (s.proc f.p).handle (e.g b.a) = some br → (s.proc f.p).band br = some x →
      (512 ≤ x.members.length → exec (.join b) s = .next (s.left (l.stopped f 15 (e.g b.a)))) ∧
      (x.members.length < 512 → l.acts = [] → exec (.join b) s = .next
        (((c.setProc f.p ((c.proc f.p).putBand br { x with members := x.members ++ [(l.lane, f.row)] })).modTh t
          fun th => { th with band := some br }).ended l))) ∧
    ((s.th t).band = none → exec (.leave b) s = .next (s.left (l.stopped f 15 all))) ∧
    ((s.th t).band ≠ none → ∃ u : State, exec (.leave b) s = .next (u.ended l) ∧ (u.th t).band = none ∧ u.mem = c.mem ∧
      u.reqs = c.reqs ∧ u.stores = c.stores ∧ (∀ p, p ≠ f.p → u.proc p = c.proc p) ∧
      ∀ br x, (s.th t).band = some br → (c.proc f.p).band br = some x →
        let m := x.members.filter (· != (l.lane, f.row))
        let r := c.proc f.p
        let bound := recordBound (r.entry x.entry).record
        (m ≠ [] → u = (c.setProc f.p (r.putBand br { x with members := m })).modTh t fun th => { th with band := none }) ∧
        (m = [] →
          (∀ k, let mine := (r.tile k).st ≠ .empty ∧ (r.tile k).band = br ∧ bound.map (·.1) ≠ some k
            (mine → (r.tile k).cnt = 0 → (u.proc f.p).tile k = Tile.empty) ∧
            (mine → (r.tile k).cnt ≠ 0 → (u.proc f.p).tile k = { r.tile k with ending := true }) ∧
            (¬ mine → (u.proc f.p).tile k = r.tile k)) ∧
          (r.seq.band = some br → r.seq.st ≠ .unbound → r.seq.work = [] →
            (u.proc f.p).seq.st = .unbound ∧ (u.proc f.p).seq.band = none) ∧
          (r.seq.band = some br → r.seq.st ≠ .unbound → r.seq.work ≠ [] → (u.proc f.p).seq = { r.seq with ending := true }) ∧
          (r.seq.band ≠ some br → (u.proc f.p).seq = r.seq) ∧
          (u.site f.p.site).pins = (c.site f.p.site).pins.filter (fun y => y.1 != .band f.p br) ∧
          (u.proc f.p).closing = r.closing ++
            [⟨br.num, x.epoch, x.coord, (c.th t).ctx, (r.entry x.entry).record, false, bound.isSome⟩] ∧
          (u.proc f.p).freeBand ≠ some br.num ∧
          ∀ (w : TId) (i n : Nat), w.p = f.p → (c.th w).st = .parked → (c.th w).wait = .barrier br i n →
            (u.th w).st = .ready ∧
            (⟨16, handleOf br + BitVec.ofNat 64 (i * 2 ^ 32), false⟩ : Pend) ∈ (u.th w).pend)) ∧
    (∀ query, GivesG (exec (.bandq b query) s) s b (fun e' => e'.s.bandqWord e'.p query.toNat (e'.g b.a) (e'.g b.b))) ∧
    (∀ p query h row, (s.proc p).handle h = none → s.bandqWord p query h row = 0) ∧
    ∀ p h row br x, (s.proc p).handle h = some br → (s.proc p).band br = some x →
      s.bandqWord p 0 h row = BitVec.ofNat 64 x.members.length ∧
      s.bandqWord p 1 h row = x.coord.setWidth 64 ∧
      (16 ≤ row.toNat → s.bandqWord p 2 h row = 0) ∧
      (row.toNat < 16 → ∀ k, (s.bandqWord p 2 h row).getLsbD k = (decide (k < 32) && x.members.contains (k, row.toNat))) ∧
      ∀ k, (s.bandqWord p 3 h row).getLsbD k =
        if k < 16 then (x.bar k).exp != 0
        else if k = 16 then true
        else decide (k = 17) && (s.proc p).seq.band == some br && (s.proc p).seq.st != .unbound

/-- R106 and R122: RJEN enrols the lane, RJWAIT marks the arrival of an enrolled lane and parks it, RJSTRIKE takes it out; then the
check releases every arrived lane once all that are enrolled have arrived, and clears the register. -/
def Obligations.RejoinRegisters : Prop :=
  ∀ (s : State) (b : BForm) (j : BitVec 3) (f : Flight) (rest : List Flight) (l : LaneRun),
    OneLane s b.pn b.pr f rest l →
    let c := s.committed f l
    let t := f.tid l
    let v := (c.proc f.p).rejoin f.row j.toNat
    let bit : BitVec 32 := 1#32 <<< l.lane
    exec (.rjen b j) s = .next ((c.setRj f.p f.row j.toNat (v.1 ||| bit) v.2).ended l) ∧
    exec (.rjstrike b j) s = .next
      ((((c.setRj f.p f.row j.toNat (v.1 &&& ~~~bit) (v.2 &&& ~~~bit)).ended l)).rjCheck f.p f.row j.toNat) ∧
    (v.1.getLsbD l.lane = false → exec (.rjwait b j) s = .next ((c.ended l).rjCheck f.p f.row j.toNat)) ∧
    (v.1.getLsbD l.lane = true → (c.th t).faultWaits = false → exec (.rjwait b j) s = .next
      ((((c.setRj f.p f.row j.toNat v.1 (v.2 ||| bit)).modTh t fun th =>
        { th with st := .parked, wait := .rejoin j.toNat }).ended l).rjCheck f.p f.row j.toNat)) ∧
    ∀ (u : State) (p : PId) (row k : Nat),
      let w := (u.proc p).rejoin row k
      (w.1 = 0 ∨ w.2 ≠ w.1 → u.rjCheck p row k = u) ∧
      (w.1 ≠ 0 → w.2 = w.1 → ((u.rjCheck p row k).proc p).rejoin row k = (0, 0) ∧
        ∀ lane, lane < 32 → (u.th ⟨p, lane, row⟩).st = .parked →
          ((u.rjCheck p row k).th ⟨p, lane, row⟩).st = if w.1.getLsbD lane then .ready else .parked)

/-- R107 to R109: an arrival counts in the current phase (ARR has ten bits) and widens its scope; a byte posting lowers TXP; the phase completes
when every expected arrival has come and no byte is outstanding: GEN counts on, ARR reads zero, and every thread that waits
for a phase now complete is READY. -/
def Obligations.BarrierPhases : Prop :=
  ∀ (s : State) (p : PId) (br : BandRef) (i scope bytes : Nat) (bo : Bar), s.bar p br i = some bo →
    let sc := max bo.scope scope
    let after (w : Bar) : Bar :=
      if w.exp ≠ 0 ∧ w.arr = w.exp ∧ w.txp = 0 then { w with gen := w.gen + 1, arr := 0, scope := 0, last := w.scope } else w
    let arrived : Bar := { bo with arr := (bo.arr + 1) % 1024, scope := sc }
    let posted : Bar := { bo with txp := bo.txp - BitVec.ofNat 32 bytes, scope := sc }
    (s.barArrive p br i scope).bar p br i = some (after arrived) ∧
    (s.barPost p br i bytes scope).bar p br i = some (after posted) ∧
    (s.tryComplete p br i).bar p br i = some (after bo) ∧
    (bo.exp ≠ 0 → (bo.arr + 1) % 1024 = bo.exp → bo.txp = 0 → ∀ (t : TId) (n : Nat), t.p = p →
      (s.th t).st = .parked → (s.th t).wait = .barrier br i n → phaseDone (bo.gen + 1) (BitVec.ofNat 32 n) = true →
      ((s.barArrive p br i scope).th t).st = .ready) ∧
    (s.barArrive p br i scope).mem = s.mem ∧ (s.barPost p br i bytes scope).mem = s.mem

/-- R123: each barrier instruction acts at commit on the object of the thread's own band, with its faults; a phase is complete
when GEN has passed it modulo 2^32; BARA and BARW park their thread where it is not. The scope acquired for a phase older than the
last (`Bar.scopeOf`) is the model's choice (log 16). -/
def Obligations.BarrierInstructions : Prop :=
  ∀ (s : State) (b : BForm) (i : BitVec 4) (wait : Bool) (scope : BitVec 2) (f : Flight) (rest : List Flight) (l : LaneRun),
    OneLane s b.pn b.pr f rest l → l.acts = [] →
    let e : Env := ⟨s, f, l⟩
    let c := s.committed f l
    let t := f.tid l
    let a := e.g b.a
    let n : BitVec 32 := a.setWidth 32
    let all : Word := BitVec.allOnes 64
    let passed (gen n : BitVec 32) : Bool := !(gen - n - 1).msb
    let fault (j : Instr) (cause : Nat) (info : Word) : Prop := exec j s = .next (s.left (l.stopped f cause info))
    let does (j : Instr) (u : State) : Prop := exec j s = .next (u.ended l)
    (s.ownBar t i = none → fault (.bari b i) 15 all ∧ fault (.bara b i wait scope) 15 all ∧ fault (.barx b i) 15 all) ∧
    ((s.th t).band = none → fault (.barw b i false) 15 all ∧ fault (.bart b i false) 15 all) ∧
    (∀ br, (s.th t).band = some br → s.bar f.p br i.toNat = none →
      let info : Word := BitVec.ofNat 64 (i.toNat * 2 ^ 32 + (handleOf br).toNat % 2 ^ 32)
      fault (.barw b i false) 16 info ∧ fault (.bart b i false) 16 info) ∧
    (∀ br bo, s.ownBar t i = some (br, bo) →
      (a = 0 ∨ 512 < a.toNat → fault (.bari b i) 15 all) ∧
      (a ≠ 0 → a.toNat ≤ 512 →
        does (.bari b i) (c.setBar f.p br i.toNat { bo with exp := a.toNat, arr := 0, txp := 0 })) ∧
      (bo.exp = 0 → fault (.bara b i wait scope) 15 all) ∧
      (bo.exp ≠ 0 →
        let u := (c.barArrive f.p br i.toNat scope.toNat).putG t b.dst (bo.gen.setWidth 64)
        does (.bara b i false scope) u ∧
        ∀ bo', u.bar f.p br i.toNat = some bo' →
          (passed bo'.gen bo.gen = true → does (.bara b i true scope) (u.acquire t (bo'.scopeOf bo.gen))) ∧
          (passed bo'.gen bo.gen = false → (u.th t).faultWaits = false → does (.bara b i true scope)
            (u.modTh t fun th => { th with st := .parked, wait := .barrier br i.toNat bo.gen.toNat }))) ∧
      does (.barx b i) ((c.setBar f.p br i.toNat { bo with txp := bo.txp + n }).tryComplete f.p br i.toNat) ∧
      (passed bo.gen n = true → does (.barw b i false) (c.acquire t (bo.scopeOf n)) ∧
        does (.bart b i false) ((c.acquire t (bo.scopeOf n)).putG t b.dst 1)) ∧
      (passed bo.gen n = false → does (.bart b i false) (c.putG t b.dst 0) ∧
        ((c.th t).faultWaits = false → does (.barw b i false)
          (c.modTh t fun th => { th with st := .parked, wait := .barrier br i.toNat n.toNat })))) ∧
    ((s.proc f.p).handle (e.g b.b) = none →
      let info : Word := BitVec.ofNat 64 (i.toNat * 2 ^ 32 + (e.g b.b).toNat % 2 ^ 32)
      fault (.barw b i true) 16 info ∧ fault (.bart b i true) 16 info) ∧
    ∀ br bo, (s.proc f.p).handle (e.g b.b) = some br → s.bar f.p br i.toNat = some bo →
      (passed bo.gen n = true → does (.barw b i true) (c.acquire t (bo.scopeOf n)) ∧
        does (.bart b i true) ((c.acquire t (bo.scopeOf n)).putG t b.dst 1)) ∧
      (passed bo.gen n = false → does (.bart b i true) (c.putG t b.dst 0) ∧
        ((c.th t).faultWaits = false → does (.barw b i true)
          (c.modTh t fun th => { th with st := .parked, wait := .barrier br i.toNat n.toNat })))

/-- R126, R127 and R325: TRA sets the core's arrival and gives the phase; TRW waits for a phase; KLAUNCH reads 256 aligned bytes
before commit and places them with its selector in a free entry of the device-launch buffer, which the framer hears of. The model's
choices (log 14): the entry is the lowest that is free, and a lane that finds none free once its clause is in flight waits there to
commit, where R127 has the group held before issue. -/
def Obligations.TrussArrivalAndLaunch : Prop :=
  ∀ (s : State) (b : BForm) (ch : BitVec 4) (f : Flight) (rest : List Flight) (l : LaneRun),
    OneLane s b.pn b.pr f rest l →
    let e : Env := ⟨s, f, l⟩
    let c := s.committed f l
    let t := f.tid l
    let r := c.proc f.p
    let gen := r.tgen.get 0 ch.toNat
    let n : BitVec 32 := (e.g b.a).setWidth 32
    exec (.tra b ch) s = .next (((c.setProc f.p { r with
      tarr := r.tarr.put ch.toNat true
      tpart := if r.tarr.get false ch.toNat then r.tpart
        else r.tpart.put ch.toNat (((c.site f.p.site).mask ch.toNat).getLsbD f.p.core) }).putG t b.dst (gen.setWidth 64)).ended l) ∧
    ((gen - n - 1).msb = false → exec (.trw b ch) s = .next ((c.acquire t 2).ended l)) ∧
    ((gen - n - 1).msb = true → (c.th t).faultWaits = false → exec (.trw b ch) s = .next
      ((c.modTh t fun th => { th with st := .parked, wait := .truss ch.toNat n.toNat }).ended l)) ∧
    ((e.g b.a).toNat % 256 ≠ 0 → exec (.klaunch b) s = .next (s.left (l.stopped f 7 (e.g b.a)))) ∧
    ((e.g b.a).toNat % 256 = 0 →
      (∀ cause va u, s.readVirt t l.t0.ctx l.queued (e.g b.a) 256 = (.trap cause va, u) →
        exec (.klaunch b) s = .next (u.left (l.stopped f cause va))) ∧
      ∀ bytes u, s.readVirt t l.t0.ctx l.queued (e.g b.a) 256 = (.ok bytes false, u) →
        ((u.site f.p.site).freeDl = none → exec (.klaunch b) s = .next (u.left { l with stall := true })) ∧
        ∀ k, (u.site f.p.site).freeDl = some k →
          let q := e.g b.b
          let d : DLaunch := ⟨bytes, true, decide (64 ≤ q.toNat), if 64 ≤ q.toNat then 0 else q.toNat⟩
          exec (.klaunch b) s = .next ((((u.committed f l).modSite f.p.site fun x =>
            { x with dlaunch := x.dlaunch.put k d }).raiseTh t 2 k).ended l))

/-! Traps and system registers. -/

/-- R336 to R338, R340 and R341: a trap saves the pc of the clause header in %tp, the index and the cause in %tc (bit 16 for an
asynchronous one) and its information in %ti, sets %tst.IN and goes to the handler the vector table names; nothing else of the thread
changes, no register and no byte of memory. One that a clause raises while %tst.IN is set, a fault of the vector's read, poison in it,
or a vector that is zero or misaligned is a double fault, which holds the thread, saves the trap, and tells the framer in a DFAULT
event of both causes (dropped into LOST and PEND where its queue is full); an asynchronous one waits while IN is set. While the read
of the vector is on its way to another site the trap waits with nothing written (log 30). -/
def Obligations.TakingATrap : Prop :=
  ∀ (s : State) (t : TId) (cause idx : Nat) (info : Word) (async : Bool), cause < 256 → idx < 16 →
    let th := s.th t
    let tc : Word := BitVec.ofNat 64 ((if async then 65536 else 0) + idx * 256 + cause)
    let v := s.deliver t cause idx info async
    let apart : Prop := (∀ w, w ≠ t → v.th w = s.th w) ∧ v.mem = s.mem ∧ v.poison = s.poison ∧ v.flights = s.flights
    let doubly (fault : Nat) : Prop :=
      (v.th t).st = .held ∧ (v.th t).why = 1 ∧ (v.th t).tst = th.tst ||| 1 ∧ (v.th t).pc = th.pc ∧ (v.th t).tp = th.pc ∧
      (v.th t).tc = tc ∧ (v.th t).ti = info ∧ apart ∧
      let q := s.site t.p.site
      let word : Word := 5#6 ++ BitVec.ofNat 7 t.p.core ++ BitVec.ofNat 5 t.lane ++ BitVec.ofNat 4 t.slot ++
        BitVec.ofNat 16 th.ctx ++ BitVec.ofNat 26 (cause * 256 + fault)
      let q' := v.site t.p.site
      (q.events.length < 256 → q'.events = q.events ++ [word]) ∧
      (256 ≤ q.events.length → q'.events = q.events ∧ q'.lost = min (q.lost + 1) 65535 ∧ q'.pend = q.pend ||| 16)
    (th.tst.getLsbD 0 = true → async = false → doubly cause) ∧
    (th.tst.getLsbD 0 = true → async = true → v = s.modTh t fun th => { th with pend := th.pend ++ [⟨cause, info, false⟩] }) ∧
    ∀ x u, th.tst.getLsbD 0 = false → (s.site t.p.site).liveCtx th.ctx = some x →
      let read := s.readVirt t th.ctx [] (((s.site t.p.site).ctx x).tvec + BitVec.ofNat 64 (8 * cause)) 8
      (∀ bytes, read = (.ok bytes false, u) →
        let h : Word := BitVec.ofNat 64 (ofBytes bytes)
        (h ≠ 0 → h.toNat % 8 = 0 → apart ∧ v.th t = { th with
          tp := th.pc, tc := tc, ti := info, tst := th.tst ||| 1, pc := h, entering := some cause }) ∧
        (h = 0 ∨ h.toNat % 8 ≠ 0 → doubly 1)) ∧
      (∀ bytes, read = (.ok bytes true, u) → doubly 12) ∧
      (∀ fault va, read = (.trap fault va, u) → doubly fault) ∧
      (read = (.wait, u) → v = u ∧ apart ∧ v.th t = th)

/-- R348, R349, R355: TRAP faults with cause 22 and its code; BRK faults with 23, or holds the thread for the framer where
%tst bit 1 says so; HALT holds it; ERET goes back to %tp and clears %tst.IN, and an unaligned %tp is illegal-header. -/
def Obligations.TrapInstructionsAndReturn : Prop :=
  ∀ (s : State) (b : BForm) (code : BitVec 24) (f : Flight) (rest : List Flight) (l : LaneRun),
    OneLane s b.pn b.pr f rest l →
    let c := s.committed f l
    let t := f.tid l
    let held (why : Nat) : State := c.modTh t fun th => { th with st := .held, why := why, wait := .none }
    exec (.trap b code) s = .next (s.left (l.stopped f 22 (code.setWidth 64))) ∧
    (l.t0.tst.getLsbD 1 = false → exec (.brk b code) s = .next (s.left (l.stopped f 23 (code.setWidth 64)))) ∧
    (l.t0.tst.getLsbD 1 = true → exec (.brk b code) s = .next (((held 3).raiseTh t 7 code.toNat).ended l)) ∧
    exec (.halt b) s = .next (((held 2).raiseTh t 6 0).ended l) ∧
    (l.t0.tp.toNat % 8 ≠ 0 → exec (.eret b) s = .next (s.left (l.stopped f 1 l.t0.tp))) ∧
    (l.t0.tp.toNat % 8 = 0 → exec (.eret b) s = .next
      ((c.modTh t fun th => { th with pc := th.tp, tst := th.tst &&& ~~~1#64, entering := none }).ended l))

/-- R43, R82, R99, R100, R167, R334, R350 and R351: GETS reads every register of the special space, each from its own place, %clk as
it stood at clause start; where the context is absent its registers and counters read as those of entry 0 (log 25). TIME reads the
timebase, zero until the master has booted (log 6). SETS writes at commit the register it names and nothing else, with the bits that
the register keeps; a write of %wst sets SPILLED, and with a command spills the oldest saved frame to memory or fills one from there,
or faults with nothing written. A number that is reserved, absent on the kind of processor (%tver for SETS off the framer), or for
SETS read-only, is refused at decode. -/
def Obligations.SpecialRegisters : Prop :=
  (∀ (s : State) (b : BForm),
     (∀ x ∈ ([(19, Thread.mcov), (20, Thread.mrho), (21, Thread.fcsr), (22, Thread.tp), (23, Thread.tc), (24, Thread.ti),
         (32, Thread.wst), (33, Thread.wsp), (34, Thread.seed), (35, Thread.gsd), (37, Thread.tst), (40, Thread.tk0),
         (41, Thread.tk1), (44, Thread.lnk), (7, Thread.bandWord), (42, fun t => t.erec.word),
         (43, fun t => t.prec.word)] : List (Nat × (Thread → Word))),
       GivesG (exec (.gets b (BitVec.ofNat 12 x.1)) s) s b (fun e => x.2 e.t)) ∧
     (∀ x ∈ ([(0, fun t => t.lane), (1, fun t => t.slot), (2, fun t => t.p.core), (3, fun t => t.p.site % 8),
         (4, fun t => t.p.site / 8 % 8)] : List (Nat × (TId → Nat))),
       GivesG (exec (.gets b (BitVec.ofNat 12 x.1)) s) s b (fun e => BitVec.ofNat 64 (x.2 e.tid))) ∧
     GivesG (exec (.gets b 5) s) s b (fun e => e.s.wafer.setWidth 64) ∧
     GivesG (exec (.gets b 6) s) s b (fun e => BitVec.ofNat 64 e.t.ctx) ∧
     GivesG (exec (.gets b 25) s) s b (fun e => BitVec.ofNat 64 (({ e.s with tick := e.f.start } : State).cycles e.p)) ∧
     GivesG (exec (.gets b 36) s) s b (fun e => (e.s.site e.p.site).verWord) ∧
     GivesG (exec (.gets b 56) s) s b (fun e => (e.s.site e.p.site).evs) ∧
     (∀ k, k < 3 → GivesG (exec (.gets b (BitVec.ofNat 12 (8 + k))) s) s b (fun e =>
       ((e.s.bandCoord e.p e.t).extractLsb' (16 * k) 16).setWidth 64)) ∧
     (∀ k, k < 6 → GivesG (exec (.gets b (BitVec.ofNat 12 (11 + k))) s) s b (fun e =>
       match e.t.handler with | some h => BitVec.ofNat 64 ((h.bc[k]?).getD 0) | none => 0)) ∧
     GivesG (exec (.gets b 17) s) s b (fun e => match e.t.handler with | some h => BitVec.ofNat 64 h.seq | none => 0) ∧
     GivesG (exec (.gets b 18) s) s b (fun e => match e.t.handler with | some h => h.bid | none => 0) ∧
     (∀ k, k < 8 → GivesG (exec (.gets b (BitVec.ofNat 12 (48 + k))) s) s b (fun e =>
       ((e.s.proc e.p).perfOf (((e.s.site e.p.site).ctxIdx e.t.ctx).getD 0) k).count)) ∧
     GivesG (exec (.gets b 38) s) s b (fun e =>
       ((e.s.site e.p.site).ctx (((e.s.site e.p.site).ctxIdx e.t.ctx).getD 0)).tvec) ∧
     GivesG (exec (.gets b 39) s) s b (fun e =>
       ((e.s.site e.p.site).ctx (((e.s.site e.p.site).ctxIdx e.t.ctx).getD 0)).ptroot) ∧
     GivesG (exec (.time b) s) s b (fun e => if e.s.timeBase = 0 then 0 else BitVec.ofNat 64 (nanoSpan e.s.timeBase e.f.start))) ∧
  (∀ (s : State) (b : BForm) (f : Flight) (rest : List Flight) (l : LaneRun), OneLane s b.pn b.pr f rest l →
     let v := Env.g ⟨s, f, l⟩ b.a
     let c := s.committed f l
     let sets (n : BitVec 12) (u : Thread → Thread) : Prop := exec (.sets b n) s = .next ((c.modTh (f.tid l) u).ended l)
     sets 22 (fun t => { t with tp := v }) ∧
     sets 23 (fun t => { t with tc := v &&& 0x10FFF }) ∧
     sets 24 (fun t => { t with ti := v }) ∧
     sets 33 (fun t => { t with wsp := v &&& 0xFFFFFFFFFFFFFFF8 }) ∧
     sets 34 (fun t => { t with seed := if v = 0 then 0x9E3779B97F4A7C15 else v }) ∧
     sets 35 (fun t => { t with gsd := v }) ∧
     sets 37 (fun t => { t with tst := v &&& 3 }) ∧
     sets 40 (fun t => { t with tk0 := v }) ∧
     sets 41 (fun t => { t with tk1 := v }) ∧
     sets 44 (fun t => { t with lnk := v }) ∧
     sets 21 (fun t => { t with fcsr := writeFcsr t.fcsr v }) ∧
     sets 20 (fun t => { t with mrho := writeMrho v }) ∧
     sets 19 (fun t => { t with mcov := BitVec.ofNat 64 (boolN (v.getLsbD 8) * 256 +
       (if v.toNat % 4 = 3 then t.mcov.toNat % 4 else v.toNat % 4)) }) ∧
     (let n := v.toNat / 2 ^ 16 % 2 ^ 16
      let t := f.tid l
      let cmd := v.toNat / 2 ^ 62
      let plain : Prop := sets 32 fun t => { t with spilled := n }
      (cmd = 0 ∨ cmd = 3 → plain) ∧
      (cmd = 1 → l.t0.frames = [] ∨ n = 65535 → plain) ∧
      (cmd = 1 → ∀ fr, l.t0.frames.getLast? = some fr → n ≠ 65535 →
        (s.spillHeld t l.t0 fr = true → exec (.sets b 32) s = .next (s.left { l with stall := true })) ∧
        (s.spillHeld t l.t0 fr = false →
          let words := (fr.regs.toList ++ [fr.lnk]).zipIdx.map fun x => (l.t0.wsp + BitVec.ofNat 64 (8 * x.2), toBytes 8 x.1.toNat)
          (∀ cause va u, s.storeParts ⟨s, f, l⟩ none words = (.trap cause va, u) →
            exec (.sets b 32) s = .next (u.left (l.stopped f cause va))) ∧
          ∀ es u, s.storeParts ⟨s, f, l⟩ none words = (.ok es, u) → exec (.sets b 32) s = .next
            ((((u.committed f l).modTh t fun th => { th with
              frames := th.frames.dropLast, spilled := n + 1, wsp := th.wsp + 136 }).enact t (.store es none)).ended l))) ∧
      (cmd = 2 → l.t0.frames.length = 6 ∨ n = 0 → plain) ∧
      (cmd = 2 → l.t0.frames.length ≠ 6 → n ≠ 0 →
        let base := l.t0.wsp - 136
        (∀ cause va u, s.readVirt t l.t0.ctx l.queued base 136 = (.trap cause va, u) →
          exec (.sets b 32) s = .next (u.left (l.stopped f cause va))) ∧
        ∀ bytes u, s.readVirt t l.t0.ctx l.queued base 136 = (.ok bytes false, u) →
          let w := u.committed f l
          exec (.sets b 32) s = .next ((({ w with nextId := w.nextId + 1 } : State).modTh t fun th => { th with
            frames := th.frames ++ [⟨match th.frames.getLast? with | some x => x.parent | none => th.parent, w.nextId + 1,
              Vector.ofFn fun k : Fin 16 => wordAt bytes k.val, wordAt bytes 16⟩]
            spilled := n - 1, wsp := base }).ended l))) ∧
     exec (.sets b 36) s = .next ((c.modSite f.p.site fun q => q.writeVersion v).ended l) ∧
     (∀ n : BitVec 12, 56 ≤ n.toNat ∨ n.toNat < 19 ∨ (24 < n.toNat ∧ n.toNat < 32) ∨ (44 < n.toNat ∧ n.toNat < 48) ∨
       n = 38 ∨ n = 39 ∨ n = 42 ∨ n = 43 → ∀ kind, sysBad kind (.sets b n) = true) ∧
     (∀ kind, sysBad kind (.sets b 36) = decide (kind ≠ .framer)) ∧
     (∀ (n : BitVec 12) (kind : PKind), (19 ≤ n.toNat ∧ n.toNat ≤ 24) ∨ (32 ≤ n.toNat ∧ n.toNat ≤ 35) ∨ n = 37 ∨ n = 40 ∨ n = 41 ∨
       n = 44 ∨ (48 ≤ n.toNat ∧ n.toNat ≤ 55) → sysBad kind (.sets b n) = false) ∧
     (∀ (kind : PKind) (n : BitVec 12), 57 ≤ n.toNat ∨ (25 < n.toNat ∧ n.toNat < 32) ∨ (44 < n.toNat ∧ n.toNat < 48) ∨
       (n = 56 ∧ kind ≠ .framer) → sysBad kind (.gets b n) = true) ∧
     ∀ k x, k < 8 → (c.site f.p.site).ctxIdx (c.th (f.tid l)).ctx = some x →
       exec (.sets b (BitVec.ofNat 12 (48 + k))) s = .next ((c.modProc f.p fun r =>
         { r with perf := r.perf.put (x, k) { r.perfOf x k with count := v } }).ended l))

/-- R352 to R354 and R359: PERF selects the event of a counter and enables it, or zeroes the counters of a mask; TLBI, and by the
model's choice ICINV too (log 19: R353 does not say so), leave their invalidation to be done once the thread's earlier stores are
acknowledged; WAITEV takes the oldest event word (a LAUNCH word with an acquire, R375) or parks. -/
def Obligations.CountersInvalidationsEvents : Prop :=
  ∀ (s : State) (b : BForm) (f : Flight) (rest : List Flight) (l : LaneRun), OneLane s b.pn b.pr f rest l →
    let e : Env := ⟨s, f, l⟩
    let v := e.g b.a
    let c := s.committed f l
    let t := f.tid l
    let base : Hold := { Hold.empty with acked := true, before := c.nextId + 1 }
    let holds (h : Hold) : State := c.modTh t fun th => { th with hold := h }
    (∀ (k : BitVec 3) (x : Nat), (c.site f.p.site).ctxIdx l.t0.ctx = some x →
      let counter : Perf := { (c.proc f.p).perfOf x k.toNat with
        event := v.toNat % 256, en := v.getLsbD 8 && decide (v.toNat % 256 ≤ 11) }
      exec (.perf b k false) s = .next ((c.modProc f.p fun r => { r with perf := r.perf.put (x, k.toNat) counter }).ended l) ∧
      ∃ u : State, exec (.perf b k true) s = .next (u.ended l) ∧ u.mem = c.mem ∧ u.threads = c.threads ∧
        ∀ n, n < 8 → (u.proc f.p).perfOf x n =
          { (c.proc f.p).perfOf x n with count := if v.getLsbD n then 0 else ((c.proc f.p).perfOf x n).count }) ∧
    (∀ ret, exec (.icinv b true ret) s = .next ((holds { base with icinv := some (ret, none) }).ended l)) ∧
    (∀ ret, exec (.icinv b false ret) s = .next ((holds { base with icinv := some (ret, some (v, (e.g b.b).toNat % 2 ^ 32)) }).ended l)) ∧
    (∀ kind waf, exec (.tlbi b kind waf) s = .next ((holds { base with tlbi := some (kind, v, waf) }).ended l)) ∧
    (∀ w q, (c.site f.p.site).events = w :: q →
      let u := (c.modSite f.p.site fun x => { x with events := q }).putG t b.dst w
      (w.toNat / 2 ^ 58 ≠ 1 → exec (.waitev b) s = .next (u.ended l)) ∧
      (w.toNat / 2 ^ 58 = 1 → exec (.waitev b) s = .next ((u.acquire t 3).ended l))) ∧
    ((c.site f.p.site).events = [] → (c.th t).faultWaits = false → exec (.waitev b) s = .next
      ((c.modTh t fun th => { th with st := .parked, wait := .event b.dst.toNat }).ended l))

/-- R332, R356 and R358: SLOTW reads its record before commit, answers with the first code of R356's table that applies, and with code
0 does what its OP says (a bind reads its launch record too); CTXSAVE and CTXLOAD answer by their table and with 0 start a copy, the
windows of the image being asked before commit. Readings of the model: an ENTRY above 31, a PRIO above 7 and a port processor under a
context other than 0 answer 6 (log 13), and other bits set in CTXSAVE's gA answer 1 (log 24). -/
def Obligations.SlotTableInstructions : Prop :=
  ∀ (s : State) (b : BForm) (f : Flight) (rest : List Flight) (l : LaneRun), OneLane s b.pn b.pr f rest l →
    let e : Env := ⟨s, f, l⟩
    let t := f.tid l
    let gs := f.p.site
    (∀ cause va u, s.readVirt t l.t0.ctx l.queued (e.g b.a) 32 = (.trap cause va, u) →
      ∀ i ∈ [Instr.slotwBind b, .slotwStop b, .slotwRelease b, .slotwKill b, .slotwSet b, .ctxload b],
        exec i s = .next (u.left (l.stopped f cause va))) ∧
    (∀ rcd u, s.readVirt t l.t0.ctx l.queued (e.g b.a) 32 = (.ok rcd false, u) →
      let c := u.committed f l
      let done (launch : List Byte) : State :=
        let code := c.slotwCode gs rcd launch
        ((if code = 0 then c.slotwDo gs rcd launch else c).putG t b.dst (BitVec.ofNat 64 code)).ended l
      (fieldAt rcd 0 1 = 1 → exec (.slotwStop b) s = .next (done [])) ∧
      (fieldAt rcd 0 1 = 2 → exec (.slotwRelease b) s = .next (done [])) ∧
      (fieldAt rcd 0 1 = 3 → exec (.slotwKill b) s = .next (done [])) ∧
      (fieldAt rcd 0 1 = 4 → exec (.slotwSet b) s = .next (done [])) ∧
      (4 < fieldAt rcd 0 1 → exec (.slotwBind b) s = .next ((c.putG t b.dst 6).ended l)) ∧
      (fieldAt rcd 0 1 = 0 → ∀ launch w, u.readPhys e (fieldAt rcd 16 8) 256 = (.ok launch false, w) →
        let code := (w.committed f l).slotwCode gs rcd launch
        exec (.slotwBind b) s = .next (((if code = 0 then (w.committed f l).slotwDo gs rcd launch else w.committed f l).putG t b.dst
          (BitVec.ofNat 64 code)).ended l)) ∧
      ((u.proc ⟨gs, fieldAt rcd 1 1⟩).move = none → ∀ v w, u.imageVerdict ⟨u, f, l⟩ (e.g b.b).toNat .read = (v, w) → v ≠ .wait →
        let r := (w.committed f l).ctxload ⟨u, f, l⟩ rcd (e.g b.b) (v == .pass)
        exec (.ctxload b) s = .next ((r.2.putG t b.dst r.1).ended l))) ∧
    -- the table of R356
    (∀ rcd launch : List Byte,
      let at' (k n : Nat) : Nat := fieldAt rcd k n
      let p : PId := ⟨gs, at' 1 1⟩
      let r := s.proc p
      let en := r.entry (at' 2 1)
      let code := s.slotwCode gs rcd launch
      let there : Prop := usable p = true ∧ (kindOf p = .core ∨ (kindOf p = .port ∧ at' 6 2 = 0))
      let r6 : Prop := zeroAt rcd 13 16 = false ∨ zeroAt rcd 24 32 = false ∨ 4 < at' 0 1 ∨ ¬ there ∨ 31 < at' 2 1 ∨ 7 < at' 3 1
      let r3 : Prop := (s.site gs).liveCtx (at' 6 2) = none
      let r1 : Prop := (at' 0 1 = 0 ∧ (en.st ≠ .empty ∨ ∃ m, r.move = some m ∧ m.load = true ∧ m.entry = at' 2 1)) ∨
        (at' 0 1 = 1 ∧ en.st ≠ .active) ∨ (at' 0 1 = 2 ∧ en.st ≠ .wait ∧ en.st ≠ .done) ∨ (2 < at' 0 1 ∧ en.st = .empty)
      let r2 : Prop := at' 0 1 = 0 ∧ (at' 5 1 < at' 4 1 ∨ 15 < at' 5 1 ∨ (kindOf p = .core ∧ r.hres = true ∧ r.hlo ≤ at' 5 1))
      let r4 : Prop := at' 0 1 = 0 ∧ (recordValid launch = false ∨ fieldAt launch 8 2 ≠ at' 6 2 ∨
        fieldAt launch 11 1 ≤ at' 12 1 ∨ at' 5 1 - at' 4 1 + 1 ≠ fieldAt launch 13 1)
      (r6 → code = 6) ∧ (¬ r6 → r3 → code = 3) ∧ (¬ r6 → ¬ r3 → r1 → code = 1) ∧ (¬ r6 → ¬ r3 → ¬ r1 → r2 → code = 2) ∧
      (¬ r6 → ¬ r3 → ¬ r1 → ¬ r2 → r4 → code = 4) ∧ (¬ r6 → ¬ r3 → ¬ r1 → ¬ r2 → ¬ r4 → code = 0)) ∧
    -- CTXSAVE
    let ref := e.g b.a
    let image := e.g b.b
    let p : PId := ⟨gs, ref.toNat % 128⟩
    let n := ref.toNat / 256 % 32
    (s.proc p).move = none → ∀ v u, s.imageVerdict e image.toNat .write = (v, u) → v ≠ .wait →
      let c := u.committed f l
      let known : Prop := ref.toNat < 2 ^ 13 ∧ ref.getLsbD 7 = false ∧ ((c.proc p).entry n).st = .stopped ∧
        ((c.proc p).entry n).killing = false
      let good : Prop := image.toNat % 4096 = 0 ∧ v = .pass
      (¬ known → exec (.ctxsave b) s = .next ((c.putG t b.dst 1).ended l)) ∧
      (known → ¬ good → exec (.ctxsave b) s = .next ((c.putG t b.dst 2).ended l)) ∧
      (known → good → exec (.ctxsave b) s = .next
        (((({ c with nextId := c.nextId + 1 } : State).setProc p { c.proc p with
          move := some ⟨n, image.toNat, false, false, ((c.proc p).entry n).ctx, c.nextId + 1⟩ }).putG t b.dst 0).ended l))

/-! Memory instructions. -/

/-- R24, R183, R197, R208, R214 and R306: a load checks alignment, translation, region and verdict before commit, in this order,
and then asks for its bytes under its scoreboard. Its request goes to the target before commit: while it is on its way the word
waits in flight and is taken again (log 30), and one that the fabric discards faults as one refused (R290); a load of another
site's bytes whose verdict the grant cache holds and which a copy may serve needs no request. LD.G asks for the scale and the
elements, LD.GS for the scale alone; RGET is served by no copy. -/
def Obligations.LoadsAskTheirHomes : Prop :=
  ∀ (s : State) (m : MForm) (f : Flight) (rest : List Flight) (l : LaneRun), OneLane s m.pn m.pr f rest l →
    let e : Env := ⟨s, f, l⟩
    let ea : Word := e.g m.a + m.off.signExtend 64
    let sa : Word := (ea >>> 4) + l.t0.gsd
    let d := m.dst.toNat
    let part (va : Word) (pa n : Nat) (nc : Bool) : Part :=
      let c := !nc && regionOf (paSite pa) (paLocal pa) == some .dram
      ⟨va, pa, n, c, c && m.inv, c && m.rc, none, false⟩
    let req (k : LoadKind) (ps : List Part) : Act := .req (reqOf (some m.sb.toNat) (.load k m.acq) ps none)
    let stops (i : Instr) (u : State) (cause : Nat) (va : Word) : Prop := exec i s = .next (u.left (l.stopped f cause va))
    -- how far the request of the thread for the bytes at `pa` has come
    let way (u : State) (pa : Nat) : Way := u.wayOf f.p l.t0.ctx (.access (u.th (f.tid l)).gen pa) pa
    let near (u : State) (x : Part) : Bool := u.near (f.tid l) l.t0.ctx x
    let passes (u : State) (x : Part) : Prop := near u x = true ∨
      (way u x.pa = .here ∧ u.windowFor f.p l.t0.ctx x.pa x.n .read = true)
    let again (i : Instr) (u : State) : Prop := exec i s = .next { u with flights := rest, stalled := u.stalled ++ [f] }
    (∀ x ∈ ([(.ldU8 m, 1, .scalar 1 false d), (.ldS8 m, 1, .scalar 1 true d), (.ldU16 m, 2, .scalar 2 false d),
        (.ldS16 m, 2, .scalar 2 true d), (.ldU32 m, 4, .scalar 4 false d), (.ldS32 m, 4, .scalar 4 true d),
        (.ld64 m, 8, .scalar 8 false d), (.ldGE m, 32, .granE d), (.mld m, 8, .moment d)] : List (Instr × Nat × LoadKind)),
      (ea.toNat % x.2.1 ≠ 0 → stops x.1 s 7 ea) ∧
      (ea.toNat % x.2.1 = 0 →
        (∀ cause u, s.place e ea x.2.1 .read = (.trap cause, u) → stops x.1 u cause ea) ∧
        ∀ pa nc u, s.place e ea x.2.1 .read = (.ok pa nc, u) →
          let y := part ea pa x.2.1 nc
          (passes u y → exec x.1 s = .next (u.left (l.asks [req x.2.2 [y]]))) ∧
          (near u y = false →
            (way u pa = .here → u.windowFor f.p l.t0.ctx pa x.2.1 .read = false → stops x.1 u 11 ea) ∧
            (way u pa = .lost → stops x.1 u 11 ea) ∧
            (way u pa = .coming → again x.1 u) ∧
            (way u pa = .unasked → again x.1 (u.sendPacket
              (packetOf (.access (u.th (f.tid l)).gen pa) l.t0.ctx f.p (u.th (f.tid l)).gen ⟨paSite pa, 127⟩ 0 [] none 0)))))) ∧
    (ea.toNat % 32 ≠ 0 → stops (.ldG m) s 7 ea ∧ stops (.ldGS m) s 7 ea) ∧
    (ea.toNat % 32 = 0 → ∀ pa nc u, s.place e ea 32 .read = (.ok pa nc, u) → passes u (part ea pa 32 nc) →
      (sa.toNat % 2 ≠ 0 → stops (.ldG m) u 7 sa) ∧
      (sa.toNat % 2 = 0 → ∀ pa2 nc2 u2, u.place e sa 2 .read = (.ok pa2 nc2, u2) → passes u2 (part sa pa2 2 nc2) →
        exec (.ldG m) s = .next (u2.left (l.asks [req (.gran d) [part sa pa2 2 nc2, part ea pa 32 nc]])))) ∧
    (ea.toNat % 32 = 0 → sa.toNat % 2 = 0 → ∀ pa nc u, s.place e sa 2 .read = (.ok pa nc, u) → passes u (part sa pa 2 nc) →
      exec (.ldGS m) s = .next (u.left (l.asks [req (.granS d) [part sa pa 2 nc]]))) ∧
    let n := 64 * 2 ^ (firstOf m.b % 4)
    (ea.toNat % n ≠ 0 → stops (.rget m) s 7 ea) ∧
    (ea.toNat % n = 0 → ∀ pa nc u, s.place e ea n .read = (.ok pa nc, u) →
      (way u pa = .here → u.windowFor f.p l.t0.ctx pa n .read = true →
        exec (.rget m) s = .next (((u.committed f l).enact (f.tid l)
          (req (.get d) [{ part ea pa n nc with cached := false, inv := false, rc := false }])).ended l)) ∧
      (way u pa = .here → u.windowFor f.p l.t0.ctx pa n .read = false → stops (.rget m) u 11 ea) ∧
      (way u pa = .lost → stops (.rget m) u 11 ea) ∧
      (way u pa = .coming → exec (.rget m) s = .next (u.left { l with stall := true })))

/-- R25, R183, R215, R216 and R305: a store checks alignment, translation and region before commit and then queues its bytes for
the address it computes; part of a control-space word is an alignment fault; STN also adds the squares of the granule to its
norm register. -/
def Obligations.StoresQueueTheirBytes : Prop :=
  ∀ (s : State) (m : MForm) (f : Flight) (rest : List Flight) (l : LaneRun), OneLane s m.pn m.pr f rest l →
    let e : Env := ⟨s, f, l⟩
    let ea : Word := e.g m.a + m.off.signExtend 64
    let sa : Word := (ea >>> 4) + l.t0.gsd
    let v := (e.g m.b).toNat
    let w := e.w m.b
    let entry (va : Word) (pa : Nat) (b : List Byte) : Store := storeOf va pa b .plain m.rel
    let stops (i : Instr) (u : State) (cause : Nat) (va : Word) : Prop := exec i s = .next (u.left (l.stopped f cause va))
    let asks (i : Instr) (u : State) (x : List Store) : Prop := exec i s = .next (u.left (l.asks [.store x m.sbUse]))
    (∀ x ∈ ([(.st8 m, toBytes 1 v), (.st16 m, toBytes 2 v), (.st32 m, toBytes 4 v), (.st64 m, toBytes 8 v),
        (.stGE m, toBytes 32 w.pay.toNat), (.mst m, toBytes 8 (e.m m.b).toNat)] : List (Instr × List Byte)),
      let n := x.2.length
      (ea.toNat % n ≠ 0 → stops x.1 s 7 ea) ∧
      (ea.toNat % n = 0 →
        (∀ cause u, s.place e ea n .write = (.trap cause, u) → stops x.1 u cause ea) ∧
        ∀ pa nc u, s.place e ea n .write = (.ok pa nc, u) →
          (isControl pa = true → n % 8 ≠ 0 → stops x.1 u 7 ea) ∧
          (isControl pa = false ∨ n % 8 = 0 → asks x.1 u [entry ea pa x.2]))) ∧
    (ea.toNat % 32 ≠ 0 → stops (.stG m) s 7 ea ∧ stops (.stGS m) s 7 ea) ∧
    (ea.toNat % 32 = 0 → sa.toNat % 2 = 0 → ∀ pa nc u pa2 nc2 u2, s.place e ea 32 .write = (.ok pa nc, u) →
      u.place e sa 2 .write = (.ok pa2 nc2, u2) → isControl pa2 = false →
      asks (.stG m) u2 [entry ea pa (toBytes 32 w.pay.toNat), entry sa pa2 (toBytes 2 w.scale.toNat)]) ∧
    (ea.toNat % 32 = 0 → sa.toNat % 2 = 0 → ∀ pa nc u, s.place e sa 2 .write = (.ok pa nc, u) → isControl pa = false →
      asks (.stGS m) u [entry sa pa (toBytes 2 w.scale.toNat)]) ∧
    let fmt := stnFmt m.dst
    (∀ i, firstBad fmt [(1, m.b, w)] = some i → stops (.stn m) s 13 i) ∧
    (firstBad fmt [(1, m.b, w)] = none → ea.toNat % 32 = 0 → ∀ pa nc u, s.place e ea 32 .write = (.ok pa nc, u) →
      exec (.stn m) s = .next ((((u.committed f l).enact (f.tid l) (.store [entry ea pa (toBytes 32 w.pay.toNat)]
        m.sbUse)).setNorm f.p.site (m.dst.toNat % 16) fun k =>
          (elemVals fmt w).foldl (fun k x => k.acc (BitVec.ofNat 36 (rnFp36 x).1)) k).ended l)) ∧
    let n := 64 * 2 ^ (m.dst.toNat % 4)
    let bytes := (List.range (n / 32)).flatMap fun k => toBytes 32 (l.t0.w (firstOf m.b + k)).pay.toNat
    (ea.toNat % n ≠ 0 → stops (.rput m) s 7 ea) ∧
    (ea.toNat % n = 0 → ∀ pa nc u, s.place e ea n .write = (.ok pa nc, u) →
      exec (.rput m) s = .next (((u.committed f l).enact (f.tid l)
        (.store [{ entry ea pa bytes with kind := .put (m.dst.getLsbD 2) }] m.sbUse)).ended l))

/-- R213, R217, R223 and R308: ATOM, CAS and RATOM ask their home for the old value, RED, RATOM.NR and BRED queue a reduction; each
is checked for alignment, translation for reading and writing, and a region that takes it. The request of ATOM, CAS and RATOM goes to
its target before commit, and while it is on its way the lane waits in flight (log 30); one refused or discarded faults (R290). -/
def Obligations.AtomicsAskTheirHomes : Prop :=
  ∀ (s : State) (m : MForm) (q : QForm) (f : Flight) (rest : List Flight) (l : LaneRun),
    let e : Env := ⟨s, f, l⟩
    let t := f.tid l
    let stops (i : Instr) (u : State) (cause : Nat) (va : Word) : Prop := exec i s = .next (u.left (l.stopped f cause va))
    let way (u : State) (pa : Nat) : Way := u.wayOf f.p l.t0.ctx (.access (u.th t).gen pa) pa
    let passes (u : State) (pa n : Nat) : Prop := way u pa = .here ∧ u.windowFor f.p l.t0.ctx pa n .rmw = true
    (OneLane s m.pn m.pr f rest l →
      let va := e.g m.a
      let n := if m.off.getLsbD 4 then 4 else 8
      let b := e.g m.b
      let rel := m.ord == 2 && m.scope != 0
      let req (k : LoadKind) (pa n : Nat) : Act :=
        .req (reqOf (some m.sb.toNat) (.load k m.acq) [⟨va, pa, n, false, false, rel, none, false⟩] none)
      let does (i : Instr) (u : State) (a : Act) : Prop := exec i s = .next (((u.committed f l).enact t a).ended l)
      (va.toNat % n ≠ 0 → stops (.atom m) s 7 va ∧ stops (.cas m) s 7 va ∧ stops (.red m) s 7 va) ∧
      (va.toNat % n = 0 →
        (∀ cause u, s.place e va n .rmw = (.trap cause, u) →
          stops (.atom m) u cause va ∧ stops (.cas m) u cause va ∧ stops (.red m) u cause va) ∧
        ∀ pa nc u, s.place e va n .rmw = (.ok pa nc, u) →
          (isControl pa = true → stops (.atom m) u 8 va ∧ stops (.cas m) u 8 va ∧ stops (.red m) u 8 va) ∧
          (isControl pa = false →
            does (.red m) u (.store [storeOf va pa (toBytes n b.toNat) (.red m.aop m.w32) m.rel] m.sbUse) ∧
            (way u pa = .lost ∨ (way u pa = .here ∧ u.windowFor f.p l.t0.ctx pa n .rmw = false) →
              stops (.atom m) u 11 va ∧ stops (.cas m) u 11 va) ∧
            (way u pa = .coming → exec (.atom m) s = .next (u.left { l with stall := true }) ∧
              exec (.cas m) s = .next (u.left { l with stall := true })) ∧
            (passes u pa n →
              does (.atom m) u (req (.atom m.aop m.w32 b m.dst.toNat) pa n) ∧
              does (.cas m) u (req (.cas m.w32 (l.t0.g m.dst.toNat) b m.dst.toNat) pa n)))) ∧
      (va.toNat % 32 ≠ 0 → stops (.ratom m) s 7 va) ∧
      (va.toNat % 32 = 0 → ∀ pa nc u, s.place e va 32 .rmw = (.ok pa nc, u) → isControl pa = false →
        let v := (e.w m.b).pay
        (m.off.getLsbD 5 = true → does (.ratom m) u
          (.store [storeOf va pa (toBytes 32 v.toNat) (.vec (vecAop m) (vecTy m)) m.rel] m.sbUse)) ∧
        (m.off.getLsbD 5 = false → passes u pa 32 →
          does (.ratom m) u (req (.vec (vecAop m) (vecTy m) v m.dst.toNat) pa 32)))) ∧
    (OneLane s q.pn q.pr f rest l → ∀ (fmt : Fmt) (part : BitVec 2),
      let va := e.g q.a
      let w := e.w q.b
      (∀ i, firstBad fmt [(1, q.b, w)] = some i → stops (.bred q fmt part) s 13 i) ∧
      (firstBad fmt [(1, q.b, w)] = none →
        (va.toNat % 128 ≠ 0 → stops (.bred q fmt part) s 7 va) ∧
        (va.toNat % 128 = 0 → ∀ pa nc u, s.place e va 128 .rmw = (.ok pa nc, u) →
          (regionOf (paSite pa) (paLocal pa) ≠ some .poolSram → stops (.bred q fmt part) u 8 va) ∧
          (regionOf (paSite pa) (paLocal pa) = some .poolSram →
            exec (.bred q fmt part) s = .next (((u.committed f l).enact t (.store [storeOf va pa [] (.bfa
              ((List.range fmt.count).map fun k => (part.toNat * fmt.count + k, rnF32 (elemVal fmt w k)))) none]
              q.sbUse)).ended l)))))

/-- R36, R37 and R189: at commit a store enters the end of its row's queue under a number of its own, and a deferred instruction
the list of those in flight; each counts once in its scoreboard. Memory stays as it is. -/
def Obligations.CommitQueuesStoresAndRequests : Prop :=
  ∀ (s : State) (t : TId) (x : Store) (r : Req) (sb : Option Nat),
    let th := s.th t
    let u := s.enact t (.store [x] sb)
    let v := s.enact t (.req r)
    (u.proc t.p).queues.get [] t.slot = (s.proc t.p).queues.get [] t.slot ++
      [{ x with id := s.nextId + 2, t := t, gen := th.gen, ctx := th.ctx, grp := s.nextId + 1, sb := sb }] ∧
    (∀ row, row ≠ t.slot → (u.proc t.p).queues.get [] row = (s.proc t.p).queues.get [] row) ∧
    v.reqs = s.reqs ++ [{ r with id := s.nextId + 1, t := t, gen := th.gen, ctx := th.ctx, fid := th.fid }] ∧
    (∀ k j, k < 8 → j < 8 →
      (sb = some k → (u.th t).sbOf j = if j = k then th.sbOf k + 1 else th.sbOf j) ∧
      (r.sb = some k → (v.th t).sbOf j = if j = k then th.sbOf k + 1 else th.sbOf j)) ∧
    (sb = none → u.th t = th) ∧ (r.sb = none → v.th t = th) ∧
    u.mem = s.mem ∧ v.mem = s.mem ∧ (∀ w, w ≠ t → u.th w = s.th w ∧ v.th w = s.th w)

/-- R206, R218 to R222: FENCE leaves a hold that names what it waits for; UNPIN drops the owner's pins in the range; CCLEAN and
CINV leave their range to be done under a scoreboard; PREF asks for a line and never faults; PROBE answers as a walk finds. While a
table entry or the target's answer is on its way, a lane waits in flight (log 30). -/
def Obligations.FencesRangesAndHints : Prop :=
  ∀ (s : State) (m : MForm) (q : QForm) (f : Flight) (rest : List Flight) (l : LaneRun),
    let e : Env := ⟨s, f, l⟩
    let t := f.tid l
    let c := s.committed f l
    (OneLane s q.pn q.pr f rest l →
      let len := (e.g q.b).toNat % 2 ^ 32
      (∀ scope kind : BitVec 2,
        let wide := decide (kind.toNat ≠ 1 ∧ 1 ≤ scope.toNat)
        let h : Hold := ⟨decide (kind.toNat ≠ 2), decide (kind.toNat = 0), wide, c.nextId + 1, wide,
          if kind.toNat ≠ 2 then some scope.toNat else none, none, none⟩
        exec (.fence q scope kind) s = .next (((c.modTh t fun th => { th with hold := h }).settle t).ended l)) ∧
      -- the range is translated before commit (R194)
      (∀ ps u, s.rangePieces f.p l.t0.ctx (e.g q.a) len = (some ps, u) →
        let d := u.committed f l
        let whole (inv : Bool) : State := d.enact t (.req (reqOf q.sbUse (.range inv (ps.map fun x => (x.1, x.2.1))) [] none))
        exec (.unpin q) s = .next ((d.modSite f.p.site fun x => { x with pins := x.pins.filter fun p =>
          !(p.1 == d.pinOwner t && (pinLines e ps).contains p.2) }).ended l) ∧
        exec (.cclean q) s = .next ((whole false).ended l) ∧
        exec (.cinv q) s = .next ((whole true).ended l)) ∧
      ∀ u, s.rangePieces f.p l.t0.ctx (e.g q.a) len = (none, u) →
        ∀ i ∈ [Instr.unpin q, .pin q, .cclean q, .cinv q], exec i s = .next (u.left { l with stall := true })) ∧
    (OneLane s m.pn m.pr f rest l →
      let ea : Word := e.g m.a + m.off.signExtend 64
      (∀ pa nc u, s.place e ea 1 .read = (.ok pa nc, u) →
        let own := paSite pa == f.p.site
        let wants := !nc && regionOf (paSite pa) (paLocal pa) == some .dram && (own || m.rc)
        let way := u.wayOf f.p l.t0.ctx (.access (u.th t).gen pa) pa
        let ok := u.windowFor f.p l.t0.ctx pa 1 .read
        let asks (a : List Act) : Prop := exec (.pref m) s = .next (u.left (l.asks a))
        (wants = true → way = .here → ok = true → asks [.pref ea pa (!own)]) ∧
        (wants = false ∨ way = .lost ∨ (way = .here ∧ ok = false) → asks []) ∧
        (wants = true → way = .coming → exec (.pref m) s = .next { u with flights := rest, stalled := u.stalled ++ [f] })) ∧
      (∀ cause u, s.place e ea 1 .read = (.trap cause, u) → exec (.pref m) s = .next (u.left (l.asks []))) ∧
      (∀ x r u, (s.site f.p.site).liveCtx l.t0.ctx = some x →
        s.walkOn f.p l.t0.ctx ((s.site f.p.site).ctx x).ptroot.toNat ea = (r, u) → (∀ a, r ≠ .wait a) →
        exec (.probe m) s = .next (u.left (l.asks
          [.req (reqOf (some m.sb.toNat) (.value true) [] (some [.g m.dst.toNat (probeWord ea r)]))]))))

/-- R219: PIN pins for the thread's band, else its context, lines of its own site's DRAM in the range, and answers with 128 bytes
for each new one; while the capacity holds none is left out. -/
def Obligations.PinCountsNewLines : Prop :=
  ∀ (s : State) (q : QForm) (f : Flight) (rest : List Flight) (l : LaneRun), OneLane s q.pn q.pr f rest l →
    let e : Env := ⟨s, f, l⟩
    ∀ ps u, s.rangePieces f.p l.t0.ctx (e.g q.a) ((e.g q.b).toNat % 2 ^ 32) = (some ps, u) →
    let c := u.committed f l
    let owner := c.pinOwner (f.tid l)
    let lines := pinLines e ps
    let old := (c.site f.p.site).pins
    ∃ pins : List (PinOwner × Nat), ∃ n : Nat,
      exec (.pin q) s = .next (((c.modSite f.p.site fun x => { x with pins := pins }).enact (f.tid l)
        (.req (reqOf q.sbUse (.value true) [] (some [.g q.dst.toNat (BitVec.ofNat 64 (128 * n))])))).ended l) ∧
      pins.length = old.length + n ∧ (∀ x ∈ old, x ∈ pins) ∧
      (∀ x ∈ pins, x ∈ old ∨ (x.1 = owner ∧ x.2 ∈ lines)) ∧
      (old.length + lines.length ≤ 2 ^ 21 → ∀ k ∈ lines, (owner, k) ∈ pins)

/-! Engines and tiles. -/

/-- R224 to R231, R246, R249 to R252: the instructions that start an engine operation, with their checks before commit; each starts
at commit what it names, with its timeline, its scope and its operands of clause start. MODEL'S READINGS: BUPD checks its own fields
before its arrays (log 31), and a walk that is misaligned reports the address log 20 names. -/
def Obligations.EngineInstructions : Prop :=
  (∀ (s : State) (q : QForm) (f : Flight) (rest : List Flight) (l : LaneRun), OneLane s q.pn q.pr f rest l →
     let e : Env := ⟨s, f, l⟩
     let t := f.tid l
     let c := s.committed f l
     let stops (i : Instr) (u : State) (cause : Nat) (va : Word) : Prop := exec i s = .next (u.left (l.stopped f cause va))
     let walk (k : BitVec 2) : Option Walk := (l.t0.walks[k.toNat]?).getD none
     -- WKSET
     (∀ wk : BitVec 2,
       ((e.g q.a).toNat % 64 ≠ 0 → stops (.wkset q wk) s 7 (e.g q.a)) ∧
       ((e.g q.a).toNat % 64 = 0 → ∀ b u, s.readVirt t l.t0.ctx l.queued (e.g q.a) 192 = (.ok b false, u) →
         (walkBad b = true → stops (.wkset q wk) u 20 (e.g q.a)) ∧
         (walkBad b = false → exec (.wkset q wk) s = .next (((u.committed f l).modTh t fun th =>
           { th with walks := th.walks.setIfInBounds wk.toNat (some (Walk.parse b)) }).ended l)))) ∧
     -- BREAD
     (∀ (tl : BitVec 4) (bs wk scp : BitVec 2) (jb : Bool),
       let pc := e.g q.a
       let z := 64 * 2 ^ bs.toNat
       let n := (e.g q.c).toNat
       let i := Instr.bread q tl bs wk scp jb
       (pc.toNat % 8 ≠ 0 → stops i s 1 pc) ∧
       (pc.toNat % 8 = 0 → walk wk = none → stops i s 20 (slotInfo 0 wk.toNat)) ∧
       (pc.toNat % 8 = 0 → ∀ w, walk wk = some w →
         (∀ a, w.misaligned z = some a → stops i s 7 a) ∧
         (w.misaligned z = none → jb = true → (s.th t).band = none → stops i s 15 (BitVec.allOnes 64)) ∧
         (w.misaligned z = none → (jb = true → (s.th t).band ≠ none) → exec i s = .next ((c.issueOp t (some tl.toNat) scp.toNat
           (.bread w z pc ((List.range 4).map fun k => l.t0.g (firstOf q.b + k)) ((List.range 7).map fun k => l.t0.g (k + 1))
             (if n = 0 ∨ 512 < n then 512 else n) l.t0.gsd (if jb then (c.th t).band else none))
           none q.sbUse q.dst.toNat).ended l)))) ∧
     -- ACOPY
     (∀ (tl : BitVec 4) (ws wd scp : BitVec 2) (be : Bool) (bar : BitVec 4),
       let i := Instr.acopy q tl ws wd scp be bar
       (walk ws = none → stops i s 20 (slotInfo 0 ws.toNat)) ∧
       (∀ a, walk ws = some a → walk wd = none → stops i s 20 (slotInfo 0 wd.toNat)) ∧
       ∀ a b, walk ws = some a → walk wd = some b →
         (a.unit ≠ b.unit → stops i s 20 (slotInfo 1 wd.toNat)) ∧
         (a.unit = b.unit → a.points ≠ b.points → stops i s 20 (slotInfo 2 wd.toNat)) ∧
         (a.unit = b.unit → a.points = b.points →
           (∀ v, a.misaligned a.unitBytes = some v → stops i s 7 v) ∧
           (∀ v, a.misaligned a.unitBytes = none → b.misaligned b.unitBytes = some v → stops i s 7 v) ∧
           (a.misaligned a.unitBytes = none → b.misaligned b.unitBytes = none → (be = true → (s.th t).band ≠ none) →
             exec i s = .next ((c.issueOp t (some tl.toNat) scp.toNat (.copy a b) (if be then some bar.toNat else none)
               q.sbUse q.dst.toNat).ended l)))) ∧
     -- ACOPYT
     (∀ (tl : BitVec 4) (mode : BitVec 3) (wk scp : BitVec 2) (be : Bool) (bar : BitVec 4) (br : BandRef) (tile' : Tile),
       let i := Instr.acopyt q tl mode wk scp be bar
       let k := firstOf q.c % 64
       let off := (e.g q.a).toNat
       let tile := (s.proc f.p).tile k
       let starts (kind : OpKind) (md len z : Nat) : Prop :=
         (s.th t).band = some br → tile.st ≠ .empty → tile.band = br → off % z = 0 → off + len ≤ 512 * tile.size →
         (tile.enter md = some tile' →
           exec i s = .next (((c.setTile f.p k tile').issueOp t (some tl.toNat) scp.toNat kind
             (if be then some bar.toNat else none) q.sbUse q.dst.toNat).ended l)) ∧
         (tile.enter md = none → exec i s = .next (s.left { l with stall := true }))
       ((s.th t).band = none → stops i s 15 (BitVec.allOnes 64)) ∧
       (∀ w, walk wk = some w → w.misaligned w.unitBytes = none →
         (mode = 0 → starts (.copyIn w k off) 0 (w.points * w.unitBytes) w.unitBytes) ∧
         (mode = 1 → starts (.copyOut w k off) 1 (w.points * w.unitBytes) w.unitBytes)) ∧
       (2 ≤ mode.toNat →
         let n := 2 * 2 ^ wk.toNat
         (mode.toNat = 2 → ∀ j, j < n → badScale .f32 (l.t0.w (firstOf q.b + j)) = false) →
         starts (.tileAdd (mode.toNat == 2) k off ((List.range n).map fun j => (l.t0.w (firstOf q.b + j)).pay)) 2 (32 * n) 64) ∧
       (tile.st = .empty → (s.th t).band = some br → 2 < mode.toNat → stops i s 19 (BitVec.ofNat 64 k))) ∧
     -- BUPD
     (∀ tl : BitVec 4,
       ((e.g q.a).toNat % 128 ≠ 0 → stops (.bupd q tl) s 7 (e.g q.a)) ∧
       ((e.g q.a).toNat % 128 = 0 → ∀ d u, s.readVirt t l.t0.ctx l.queued (e.g q.a) 128 = (.ok d false, u) →
         (bupdBad d = true → stops (.bupd q tl) u 20 (e.g q.a)) ∧
         (bupdBad d = false →
           let n := fieldAt d 32 4
           let gb := (gradFmt d).bits / 8
           let a (off : Nat) : Word := BitVec.ofNat 64 (fieldAt d off 8)
           ∀ w m v g u2, u.arrays e (e.g q.a)
               [(a 0, 4 * n, .rmw), (a 8, 4 * n, .rmw), (a 16, 4 * n, .rmw), (a 24, gb * n, .read)] = (.ok [w, m, v, g], u2) →
             paSite m = paSite w → paSite v = paSite w → paSite g = paSite w →
             exec (.bupd q tl) s = .next (((u2.committed f l).issueOp t (some tl.toNat) 2 (.bupd d w m v g) none q.sbUse
               q.dst.toNat).ended l))))) ∧
  (∀ (s : State) (t : TId) (tl scope x : Nat) (kind : OpKind) (bar sb : Option Nat) (dst : Nat),
     (s.site t.p.site).ctxIdx (s.th t).ctx = some x → (s.th t).handler = none →
     let u := s.issueOp t (some tl) scope kind bar sb dst
     let n := ((s.proc t.p).timeline x tl).issued + 1
     ((u.proc t.p).timeline x tl).issued = n ∧ ((u.proc t.p).timeline x tl).dn = ((s.proc t.p).timeline x tl).dn ∧
     (∃ o : Op, u.ops = s.ops ++ [o] ∧ o.num = n ∧ o.tl = some tl ∧ o.kind = kind ∧ o.t = t ∧ o.ctx = (s.th t).ctx ∧
       o.scope = scope ∧ o.next = 0 ∧ o.failed = 0 ∧ o.cancel = false ∧
       ∃ r : Req, u.reqs = s.reqs ++ [r] ∧ r.kind = .engine o.id dst ∧ r.sb = sb ∧ r.resp = none) ∧
     u.mem = s.mem ∧ ∀ p, p ≠ t.p → u.proc p = s.proc p)

/-- R245 to R247, R253, R254 and R345: TALLOC takes the lowest room for its tile and answers with its offset, with 1 where the size
is out of range and 2 where no room is found once the units of STOPPED entries are claimed; against a tile that is not EMPTY it is the
tile-state fault, or waits to commit where a STOPPED entry's tile cannot yet be scanned out. TFREE empties a READY tile of the thread's
band and waits to commit against one in use; TSTAT, TLREAD and CSTAT answer with what the tables hold, with 0 for an EMPTY tile (the
model's choice, log 31); TLWAIT waits for a number and acquires at SYS (the model's choice, log 19); CCANCEL cancels and waits under its
scoreboard. -/
def Obligations.TilesAndTimelines : Prop :=
  ∀ (s : State) (q : QForm) (f : Flight) (rest : List Flight) (l : LaneRun), OneLane s q.pn q.pr f rest l →
    let e : Env := ⟨s, f, l⟩
    let t := f.tid l
    let c := s.committed f l
    let k := firstOf q.c % 64
    let tile := (s.proc f.p).tile k
    let n := (e.g q.a).toNat
    let stops (i : Instr) (cause : Nat) (v : Word) : Prop := exec i s = .next (s.left (l.stopped f cause v))
    let value (v : Word) : Act := .req (reqOf q.sbUse (.value false) [] (some [.g q.dst.toNat v]))
    let info : Word := BitVec.ofNat 64 (tile.st.code * 256 + k)
    let tlOf (tl : BitVec 4) : Timeline := match (s.site f.p.site).ctxIdx l.t0.ctx with
      | some x => (s.proc f.p).timeline x tl.toNat
      | none => ⟨0, 0, [], []⟩
    (∀ span : BitVec 3,
      ((s.th t).band = none → stops (.talloc q span) 15 (BitVec.allOnes 64)) ∧
      (tile.st = .empty → ∀ br, (s.th t).band = some br → l.acts = [] →
        (n = 0 ∨ 2 ^ 19 < n → exec (.talloc q span) s = .next ((c.putG t q.dst 0x8000000000000001).ended l)) ∧
        (∀ run, 0 < n → n ≤ 2 ^ 19 → (s.proc f.p).findRun ((n + 511) / 512) = some run →
          exec (.talloc q span) s = .next (((c.setTile f.p k
            ⟨.filling, span.toNat, 1, false, br, (n + 511) / 512, 512 * run, false, true⟩).putG t q.dst
              (BitVec.ofNat 64 (512 * run))).ended l)) ∧
        (let u := c.claimRun f.p l.t0.entry ((n + 511) / 512) (List.range 64)
         0 < n → n ≤ 2 ^ 19 → (u.proc f.p).findRun ((n + 511) / 512) = none →
          exec (.talloc q span) s = .next ((u.putG t q.dst 0x8000000000000002).ended l))) ∧
      (tile.st ≠ .empty → (s.th t).band ≠ none →
        ((s.proc f.p).stoppedOwner tile.band l.t0.entry = none → stops (.talloc q span) 19 info) ∧
        ((s.proc f.p).stoppedOwner tile.band l.t0.entry ≠ none → s.tileClaim f.p l.t0.entry k = none →
          exec (.talloc q span) s = .next (s.left { l with stall := true })))) ∧
    ((s.th t).band = none → stops (.tfree q) 15 (BitVec.allOnes 64)) ∧
    (∀ br, (s.th t).band = some br →
      (tile.st = .empty ∨ tile.band ≠ br → stops (.tfree q) 19 info) ∧
      (tile.st = .ready → tile.band = br → exec (.tfree q) s = .next ((c.setTile f.p k Tile.empty).ended l)) ∧
      (tile.st = .filling ∨ tile.st = .draining → tile.band = br → exec (.tfree q) s = .next (s.left { l with stall := true })) ∧
      (tile.st = .empty → exec (.tstat q) s = .next (s.left (l.asks [value 0]))) ∧
      (tile.st ≠ .empty → tile.band = br → exec (.tstat q) s = .next (s.left (l.asks [value tile.word])))) ∧
    (∀ tl : BitVec 4,
      exec (.tlread q tl true) s = .next (s.left (l.asks [value (BitVec.ofNat 64 (tlOf tl).issued)])) ∧
      exec (.tlread q tl false) s = .next (s.left (l.asks [value (BitVec.ofNat 64 (tlOf tl).dn)])) ∧
      exec (.cstat q tl) s = .next (s.left (l.asks [value ((tlOf tl).query n)])) ∧
      (let h : Hold := { Hold.empty with acked := true, before := c.nextId + 1, report := true }
       let u := (c.modTh t fun th => { th with hold := h }).settle t
       (n ≤ (u.tlOf e tl.toNat).dn → exec (.tlwait q tl) s = .next ((u.acquire t 3).ended l)) ∧
       ((u.tlOf e tl.toNat).dn < n → (u.th t).faultWaits = false → exec (.tlwait q tl) s = .next
         ((u.modTh t fun th => { th with st := .parked, wait := .timeline tl.toNat n }).ended l))) ∧
      ∀ all : Bool,
        let hit (o : Op) : Bool := o.t.p == f.p && o.ctx == l.t0.ctx && o.tl == some tl.toNat &&
          (if all then decide (o.num ≤ n) else o.num == n)
        let ids := (c.ops.filter hit).map Op.id
        let u : State := { c with ops := c.ops.map fun o => if hit o then { o with cancel := true, stopped := false, paused := false, out := false } else o }
        (q.sbe = false → exec (.ccancel q tl all) s = .next (u.ended l)) ∧
        (q.sbe = true → exec (.ccancel q tl all) s = .next ((u.enact t (.req
          (reqOf (some q.sb.toNat) (.cancel ids) [] (if ids.isEmpty then some [] else none)))).ended l)))

/-! The matrix unit. -/

/-- R265 and R271 to R275: XBIND checks its address before commit and answers 0, 1 or 2 with what that code does; ACRD, ACWM and
ACOVF need a member of the bound band, and ask for an accumulator under a scoreboard. -/
def Obligations.SequencerBindingAndReads : Prop :=
  ∀ (s : State) (q : QForm) (f : Flight) (rest : List Flight) (l : LaneRun), OneLane s q.pn q.pr f rest l →
    let e : Env := ⟨s, f, l⟩
    let t := f.tid l
    let c := s.committed f l
    let a := e.g q.a
    let seq := (c.proc f.p).seq
    let band := (c.th t).band
    let gives (i : Instr) (u : State) (v : Word) : Prop := exec i s = .next
      ((u.enact t (.req (reqOf q.sbUse (.value false) [] (some [.g q.dst.toNat v])))).ended l)
    let idle := decide (seq.st = .idle ∨ seq.st = .faulted)
    (a.toNat % 8 ≠ 0 → exec (.xbind q) s = .next (s.left (l.stopped f 7 a))) ∧
    (a.toNat % 8 = 0 →
      (band = none → gives (.xbind q) c 2) ∧
      ∀ br, band = some br →
        (seq.st ≠ .unbound → (idle = false ∨ seq.band ≠ some br) → gives (.xbind q) c 1) ∧
        (idle = true → seq.band = some br →
          gives (.xbind q) (c.setProc f.p { c.proc f.p with seq :=
            { seq with st := .running, spc := a, loops := [], after := some ((c.th t).gen, c.nextId) } }) 0) ∧
        (seq.st = .unbound → gives (.xbind q) (c.bindSeq f.p br (c.th t).ctx (c.th t).gen a) 0 ∧
          let q' := ((c.bindSeq f.p br (c.th t).ctx (c.th t).gen a).proc f.p).seq
          q'.st = .running ∧ q'.spc = a ∧ q'.band = some br ∧ q'.ctx = (c.th t).ctx ∧ q'.layout = 0 ∧ q'.loops = [] ∧
          q'.after = some ((c.th t).gen, c.nextId) ∧
          (∀ b i, (c.proc f.p).band br = some b → i < 16 → q'.sph[i]? = some (b.bar i).gen) ∧
          (seq.last ≠ some br → q'.active = none ∧ q'.shadow = none ∧ q'.accs = []))) ∧
    (seq.st = .unbound → gives (.xbindU q) c 2) ∧
    (seq.st ≠ .unbound → (idle = false ∨ band = none ∨ seq.band ≠ band) → gives (.xbindU q) c 1) ∧
    (idle = true → band ≠ none → seq.band = band →
      gives (.xbindU q) (c.setProc f.p { c.proc f.p with seq := seq.unbind }) 0) ∧
    gives (.xbindQ q) c seq.status ∧
    let k := firstOf q.c % 8
    let bound := (s.th t).band ≠ none ∧ (s.proc f.p).seq.st ≠ .unbound ∧ (s.proc f.p).seq.band = (s.th t).band
    ∀ (fmt : Fmt) (rnd : Rnd) (nc : BitVec 2) (m : Bool) (aq : BitVec 3) (clr : Bool),
      ((s.th t).band = none → ∀ i ∈ [Instr.acrd q fmt rnd nc m aq, .acwm q, .acovf q clr],
        exec i s = .next (s.left (l.stopped f 15 (BitVec.allOnes 64)))) ∧
      ((s.th t).band ≠ none → ¬ bound → ∀ i ∈ [Instr.acrd q fmt rnd nc m aq, .acwm q, .acovf q clr],
        exec i s = .next (s.left (l.stopped f 19 (BitVec.ofNat 64 k)))) ∧
      (bound →
        exec (.acrd q fmt rnd nc m aq) s = .next (s.left { l.asks [.req (reqOf q.sbUse (.acrd k aq.toNat m (a.toNat % 64)
          ((e.g q.b).toNat % 64) (2 ^ nc.toNat) fmt.code (resolveRnd rnd l.t0.fcsr) q.dst.toNat l.seed) [] none)] with
          seed := ((s.proc f.p).seq.readAcc k aq.toNat m (a.toNat % 64) ((e.g q.b).toNat % 64) (2 ^ nc.toNat) fmt
            (resolveRnd rnd l.t0.fcsr) l.seed q.dst.toNat).2 }) ∧
        exec (.acwm q) s = .next (s.left (l.asks
          [.req (reqOf q.sbUse (.acwm k (min (a.toNat % 128) 64) q.dst.toNat) [] none)])) ∧
        exec (.acovf q clr) s = .next (s.left (l.asks [.acovf k clr q.sbUse q.dst.toNat])))

/-- R265, R266, R267, R276 and R277: the words that control a stream. A word begins only while the sequencer is RUNNING and its band
stands; one fetched before is dropped (the model's reading, log 21). A word that runs moves SPC to the next word, back to the start of
a loop that has rounds left; XLOOP with length 0 or a fifth level is stream fault 8; XBW waits for the phase SPH names; XBA waits for
the stream's work, and against a barrier that expects nobody is stream fault 5 (R277). -/
def Obligations.StreamControlWords : Prop :=
  ∀ (s : State) (p : PId) (w : Word), s.stream = some (p, w) →
    let o : State := { s with stream := none }
    let r := s.proc p
    let q := r.seq
    let goes (u : State) (q' : Seq) : State := u.setProc p { u.proc p with seq := q' }
    (q.st ≠ .running ∨ q.ending = true → ∀ i ∈ [Instr.xnop, .xend, .xswp], exec i s = .next o) ∧
    (q.st = .running → q.ending = false →
    (q.loops = [] → exec .xnop s = .next (goes o { q with spc := q.spc + 8 })) ∧
    (∀ x rest, q.loops = x :: rest →
      (q.spc + 8 ≠ x.stop → exec .xnop s = .next (goes o { q with spc := q.spc + 8 })) ∧
      (q.spc + 8 = x.stop → 1 < x.rem → exec .xnop s = .next
        (goes o { q with spc := x.start, loops := { x with rem := x.rem - 1, iter := x.iter + 1 } :: rest })) ∧
      (q.spc + 8 = x.stop → x.rem ≤ 1 → rest = [] → exec .xnop s = .next (goes o { q with spc := q.spc + 8, loops := [] }))) ∧
    exec .xend s = .next (goes o { q with st := .idle, loops := [], spc := q.spc + 8 }) ∧
    (∀ count len : BitVec 12,
      (len = 0 ∨ 4 ≤ q.loops.length → exec (.xloop count len) s = .next (o.streamFault p 8)) ∧
      let x : Loop := ⟨q.spc + 8, q.spc + 8 + 8 * len.setWidth 64, count.toNat + 1, 0⟩
      (len ≠ 0 → q.loops.length < 4 →
        exec (.xloop count len) s = .next (goes o { q with loops := x :: q.loops, spc := q.spc + 8 }))) ∧
    (∀ v : BitVec 4, exec (.xlay v) s = .next (goes o { q with layout := v }.advance)) ∧
    (∀ i : BitVec 4, (q.band.bind fun b => s.bar p b i.toNat) = none → q.work = [] → ∀ scope,
      exec (.xbw i) s = .next (goes o q.advance) ∧ exec (.xba i scope) s = .next (goes o q.advance)) ∧
    (∀ (i : BitVec 4) (b : BandRef) (bo : Bar), q.band = some b → s.bar p b i.toNat = some bo →
      let n := q.sph[i.toNat]?.getD 0
      ((bo.gen - n - 1).msb = false →
        exec (.xbw i) s = .next (goes o { q with sph := q.sph.set i.toNat (n + 1) }.advance)) ∧
      ((bo.gen - n - 1).msb = true →
        exec (.xbw i) s = .next (goes o { q with st := .waiting, wbar := i.toNat })) ∧
      ∀ scope : BitVec 2,
        (q.work ≠ [] → exec (.xba i scope) s = .next o) ∧
        (q.work = [] → bo.exp = 0 → exec (.xba i scope) s = .next (o.streamFault p 5)) ∧
        (q.work = [] → bo.exp ≠ 0 → exec (.xba i scope) s = .next
          (((goes o { q with sph := q.sph.set i.toNat bo.gen }).barArrive p b i.toNat scope.toNat).modSeq p Seq.advance))))

/-- R261, R263, R264, R268 and R278 to R283: the words that load planes, clear, multiply and drain. Each waits for the units it needs,
takes its tiles, meets its checks before it changes anything, and then leaves its results with the word at work, with what its
rows will raise and the squares still to reach a norm register, and the watermarks of its accumulators at 0. That the results stand at
once behind the watermark, and the order of the checks, are the model's choices (log 21). -/
def Obligations.StreamArrayWords : Prop :=
  ∀ (s : State) (p : PId) (word : Word), s.stream = some (p, word) → (s.proc p).seq.begins = true →
    let o : State := { s with stream := none }
    let q := (s.proc p).seq
    let idle := StreamWork.idle
    let step (x : Instr) (u : State) : Prop := exec x s = .next (u.modSeq p Seq.advance)
    let image (k : Nat) : Array Byte := (s.tileRead p k q.band 0 (((s.proc p).tile k).size * 512)).toArray
    let own (k : Nat) : Prop := ((s.proc p).tile k).st ≠ .empty ∧ some ((s.proc p).tile k).band = q.band
    let holds (k n : Nat) : Prop := n ≤ ((s.proc p).tile k).size * 512
    let rows := (q.active.map Plane.rows).getD []
    let cols := flipRows rows
    -- XSWP and XZERO
    (q.loaderFree = true → q.arrayFree = true →
      step .xswp (o.modSeq p fun x => { x with active := q.shadow, shadow := q.active })) ∧
    (q.loaderFree = false → exec .xswp s = .next o) ∧
    (∀ (a : BitVec 3) (int sat : Bool), q.settled a.toNat = true →
      step (.xzero a int sat) ((o.addWork p { idle with accs := [a.toNat], isZero := true }).modSeq p fun x =>
        { x with accs := x.accs.put a.toNat ⟨[], [], false, false, false, sat, int, 0⟩ })) ∧
    ∀ (ta tb : BitVec 6) (a c : BitVec 3) (fmt : Fmt) (fin sa sb : Bool),
      let k := q.tileNo ta sa
      let k2 := q.tileNo tb sb
      let acc := q.acc a.toNat
      let acc2 := q.acc c.toNat
      let x := streamed fmt (image k) (q.layout.getLsbD 0)
      let y := streamed fmt (image k2) (q.layout.getLsbD 1)
      -- XLDS
      let plane : Plane := ⟨fmt, denseCodes fmt (image k) (q.layout.getLsbD 2), denseScales fmt (image k)⟩
      (∀ u, q.loaderFree = true → own k → o.enterTiles p 1 [k] = some u → holds k (denseBytes fmt) →
        step (.xlds ta fmt sa) ((u.addWork p { idle with tiles := [k] }).modSeq p fun z => { z with shadow := some plane })) ∧
      (q.loaderFree = true → ¬ own k → exec (.xlds ta fmt sa) s = .next (o.streamFault p 4)) ∧
      -- one tile
      (∀ u, q.arrayFree = true → q.untouched a.toNat = true → own k → o.enterTiles p 1 [k] = some u →
        (holds k (denseBytes fmt) → formatBad fmt q.active acc = true →
          exec (.xmma ta a fmt fin sa) s = .next (o.streamFault p 5)) ∧
        (holds k (denseBytes fmt) → formatBad fmt q.active acc = false →
          scalesBad acc q.active (denseScales fmt (image k)) = true →
          exec (.xmma ta a fmt fin sa) s = .next (o.streamFault p 6)) ∧
        (holds k (denseBytes fmt) → formatBad fmt q.active acc = false →
          scalesBad acc q.active (denseScales fmt (image k)) = false →
          step (.xmma ta a fmt fin sa) (u.putAccs p [k] fin [(a.toNat, acc.product (present x) cols)])) ∧
        (holds k (sparseBytes fmt (livePos (image k)).length) → q.layout.getLsbD 0 = false →
          formatBad fmt q.active acc = false → scalesBad acc q.active (sparseScales fmt (image k)) = false →
          sparseOk fmt (image k) = true →
          step (.xmms ta a fmt fin sa) (u.putAccs p [k] fin [(a.toNat, acc.product (sparseRows fmt (image k)) cols)]))) ∧
      -- two tiles
      (∀ u, q.arrayFree = true → q.untouched a.toNat = true → q.untouched c.toNat = true → own k → own k2 →
        o.enterTiles p 1 [k, k2] = some u → holds k (denseBytes fmt) → holds k2 (denseBytes fmt) → a ≠ c →
        acc.int = false → acc2.int = false → formatBad fmt q.active acc = false →
        step (.xdual ta tb a c fmt fin sa sb) (u.putAccs p [k, k2] fin
          [(a.toNat, acc.product (present (flipRows x)) (flipRows rows)), (c.toNat, acc2.product (present y) rows)]) ∧
        ((∀ r ∈ y, ∀ v ∈ r, negVar v = false) → step (.xmom ta tb a c fmt fin sa sb) (u.putAccs p [k, k2] fin
          [(a.toNat, acc.product (present x) cols),
            (c.toNat, acc2.product (present y) (cols.map fun r => r.map fun v => (X.mul v v).1))])) ∧
        ((∃ r ∈ y, ∃ v ∈ r, negVar v = true) → exec (.xmom ta tb a c fmt fin sa sb) s = .next (o.streamFault p 7))) ∧
      -- XOUT
      (∀ (u : State) (rnd : BitVec 2) (satf ne : Bool) (norm : BitVec 4), q.drainFree = true → q.settled a.toNat = true → own k →
        o.enterTiles p 0 [k] = some u → holds k (drainBytes fmt) →
        ((acc.int = true ∧ (fmt ≠ .f32 ∨ ne = true)) → exec (.xout ta a fmt rnd satf ne norm sa) s = .next (o.streamFault p 5)) ∧
        ((acc.int = true → fmt = .f32 ∧ ne = false) → (q.layout.getLsbD 3 = true → fmt.bits ≠ 8) →
          (acc.int = false → Fmt.isInt fmt = false) →
          step (.xout ta a fmt rnd satf ne norm sa)
            ((u.tileWrite p k q.band 0 (acc.drainImage fmt (drainMode rnd) satf (q.layout.getLsbD 3))).addWork p { idle with
              tiles := [k], accs := [a.toNat], writes := true, norm := norm.toNat
              squares := if ne then (List.range 64).flatMap fun i => (List.range 64).map fun j => acc.entry i j else [] })))

/-- R85: a chunk of integer products enters an INT36 entry exactly: modulo 2^36 under WRAP; else an entry that would leave its
range keeps the nearest bound, sets its hold bit and changes no more. -/
def Obligations.IntegerAccumulation : Prop :=
  ∀ (sat : Bool) (c : Cell) (ps : List (Int × Int)),
    let out := c.addInt sat (ps.map fun x => (X.ofInt x.1, X.ofInt x.2))
    let sum := c.v.toInt + (ps.map fun x => x.1 * x.2).sum
    (c.hold = true → out = c) ∧
    (c.hold = false →
      (-2 ^ 35 ≤ sum → sum < 2 ^ 35 → out = { c with v := BitVec.ofInt 36 sum }) ∧
      (sat = false → out = { c with v := BitVec.ofInt 36 sum }) ∧
      (sat = true → sum < -2 ^ 35 → out = { c with v := BitVec.ofInt 36 (-2 ^ 35), hold := true, sat := true }) ∧
      (sat = true → 2 ^ 35 ≤ sum → out = { c with v := BitVec.ofInt 36 (2 ^ 35 - 1), hold := true, sat := true }))

/-- R256: the element order of a matrix tile is one to one: 16 elements of a 4 by 4 leaf stand together, row by row, and the
leaf's number takes its bits from the leaf's column and row in turn, the column's first: bit 2t is bit t of the column's leaf, bit
2t + 1 bit t of the row's. -/
def Obligations.MatrixTileOrder : Prop :=
  (∀ r c, r < 64 → c < 64 → elemAt r c < 4096 ∧ placeOf (elemAt r c) = (r, c)) ∧
  (∀ k, k < 4096 → (placeOf k).1 < 64 ∧ (placeOf k).2 < 64 ∧ elemAt (placeOf k).1 (placeOf k).2 = k) ∧
  ∀ r c, r < 64 → c < 64 →
    let bit (x t : Nat) : Nat := x / 4 / 2 ^ t % 2
    elemAt r c = 16 * (bit c 0 + 2 * bit r 0 + 4 * bit c 1 + 8 * bit r 1 + 16 * bit c 2 + 32 * bit r 2 + 64 * bit c 3 + 128 * bit r 3) +
      4 * (r % 4) + c % 4

/-! The fabric. -/

/-- R300, R310, R311 and R316: COLL reads its aligned descriptor before commit and sends it to its port processor; TOPOV answers
with the version register or waits for what is under way; PWAIT waits for a channel, a number or a version; PROUTE answers
with a route. MODEL'S CHOICES: what the first PWAIT of a thread counts from (log 22), the acquire of PWAIT.TL at SYS (log 19), and the
free value of PROUTE, for the bits R316 leaves open (log 2). -/
def Obligations.CollectivesVersionsWaits : Prop :=
  ∀ (s : State) (q : QForm) (f : Flight) (rest : List Flight) (l : LaneRun), OneLane s q.pn q.pr f rest l →
    let e : Env := ⟨s, f, l⟩
    let t := f.tid l
    let c := s.committed f l
    let a := e.g q.a
    let x := c.site f.p.site
    let parks (w : Wait) : State := c.modTh t fun th => { th with st := .parked, wait := w }
    let asks (u : State) (k : ReqKind) (v : Option (List RegW)) : State := u.enact t (.req (reqOf q.sbUse k [] v))
    (a.toNat % 128 ≠ 0 → exec (.coll q) s = .next (s.left (l.stopped f 7 a))) ∧
    (a.toNat % 128 = 0 →
      (∀ cause va u, s.readVirt t l.t0.ctx l.queued a 128 = (.trap cause va, u) →
        exec (.coll q) s = .next (u.left (l.stopped f cause va))) ∧
      ∀ d u, s.readVirt t l.t0.ctx l.queued a 128 = (.ok d false, u) →
        exec (.coll q) s = .next (((u.committed f l).postColl t q d).ended l)) ∧
    exec (.topov q false) s = .next ((asks c (.value false) (some [.g q.dst.toNat x.verWord])).ended l) ∧
    exec (.topov q true) s = .next ((asks c (.drain (a.toNat % 2 ^ 16) q.dst.toNat
      (c.drainSet f.p.site (a.setWidth 16)) (x.refusals (a.toNat % 2 ^ 16))) none).ended l) ∧
    (∀ n : BitVec 6,
      let ch := (c.proc f.p).chan n.toNat
      let seen := (c.th t).seen
      (ch.pkts ≠ [] ∨ seen.get 0 n.toNat < ch.count → exec (.pwait q n 0) s = .next
        ((c.modTh t fun th => { th with seen := th.seen.put n.toNat ch.count }).ended l)) ∧
      (ch.pkts = [] → ch.count ≤ seen.get 0 n.toNat → (c.th t).faultWaits = false →
        exec (.pwait q n 0) s = .next ((parks (.chan n.toNat)).ended l)) ∧
      (∀ k, x.ctxIdx l.t0.ctx = some k →
        let tl := n.toNat % 16
        (a.toNat ≤ ((c.proc f.p).timeline k tl).dn → exec (.pwait q n 1) s = .next ((c.acquire t 3).ended l)) ∧
        (((c.proc f.p).timeline k tl).dn < a.toNat → (c.th t).faultWaits = false →
          exec (.pwait q n 1) s = .next ((parks (.ptime tl a.toNat)).ended l))) ∧
      (x.active.toNat = a.toNat % 2 ^ 16 → exec (.pwait q n 2) s = .next (c.ended l)) ∧
      (x.active.toNat ≠ a.toNat % 2 ^ 16 → (c.th t).faultWaits = false →
        exec (.pwait q n 2) s = .next ((parks (.version (a.toNat % 2 ^ 16))).ended l))) ∧
    exec (.proute q) s = .next ((asks { c with freeCtr := c.freeCtr + 1 } (.value false)
      (some [.g q.dst.toNat (({ c with freeCtr := c.freeCtr + 1 } : State).routeWord f.p.site a c.freeCtr)])).ended l)

/-- R309 and R312: the sends of a port processor and the multicast put of a core, each with its checks before commit. A packet
stands at its site with the active version, the scope of its release, and the pieces of the buffer that its engine is to read. MODEL'S
CHOICE: the address that RPUTM's failure names is free (log 2). -/
def Obligations.SendsAndMulticast : Prop :=
  ∀ (s : State) (q : QForm) (f : Flight) (rest : List Flight) (l : LaneRun), OneLane s q.pn q.pr f rest l →
    let e : Env := ⟨s, f, l⟩
    let t := f.tid l
    let a := e.g q.a
    let w := e.g q.b
    let c := e.g q.c
    let n := c.toNat % 2 ^ 20
    let hi := c.toNat / 2 ^ 32
    let stops (i : Instr) (v : Word) : Prop := exec i s = .next (s.left (l.stopped f 20 v))
    -- the packet and its request, after the commit state `u`; the rest of the packet is as `packetOf` has it
    let sends (i : Instr) (u : State) (kind : PktKind) (dst : PId) (chan : Nat) (buffer : List (Nat × Nat)) (scp : Nat) : Prop :=
      let v : State := u.enact t (.req (reqOf q.sbUse (.psend q.dst.toNat) [] none))
      let k : Packet := { (packetOf kind l.t0.ctx f.p l.t0.gen dst chan [] (some v.nextId) scp) with
        id := v.nextId + 1, ver := (v.site f.p.site).active, load := buffer }
      exec i s = .next (({ v with nextId := v.nextId + 1, packets := v.packets ++ [k] } : State).ended l)
    let pieces (ps : List Part) : List (Nat × Nat) := ps.map fun x => (x.pa, x.n)
    (∀ scp : BitVec 2,
      (n < 32 ∨ 65536 < n ∨ n % 32 ≠ 0 → stops (.psendData q scp) c) ∧
      (32 ≤ n → n ≤ 65536 → n % 32 = 0 →
        (a.toNat % 32 ≠ 0 → stops (.psendData q scp) a) ∧
        (a.toNat % 32 = 0 → badDest w.toNat = true → stops (.psendData q scp) w) ∧
        (a.toNat % 32 = 0 → badDest w.toNat = false → ∀ ps u, s.spanOf e .read a n = (.ok ps, u) →
          sends (.psendData q scp) (u.committed f l) (.data hi) (ppOf w.toNat) (w.toNat / 2 ^ 26 % 64) (pieces ps) scp.toNat))) ∧
    (∀ (sec : Bool) (scp : BitVec 2),
      (n % 128 ≠ 0 → stops (.psendReduce q sec scp) c) ∧
      (n % 128 = 0 → a.toNat % 128 ≠ 0 → stops (.psendReduce q sec scp) a) ∧
      (n % 128 = 0 → a.toNat % 128 = 0 → w.toNat % 128 ≠ 0 → stops (.psendReduce q sec scp) w) ∧
      (n % 128 = 0 → a.toNat % 128 = 0 → w.toNat % 128 = 0 → badDest hi = true → stops (.psendReduce q sec scp) c) ∧
      (n % 128 = 0 → a.toNat % 128 = 0 → w.toNat % 128 = 0 → badDest hi = false →
        ∀ ps u, s.spanOf e .read a n = (.ok ps, u) →
          sends (.psendReduce q sec scp) (u.committed f l) (.reduce sec w.toNat hi) ⟨paSite w.toNat, 127⟩ 0
            (if n = 0 then [] else pieces ps) scp.toNat)) ∧
    (∀ scp : BitVec 2, sends (.psendDone q scp) (s.committed f l) (.done (w.toNat % 2 ^ 32) c) f.p 0 [] scp.toNat) ∧
    ∀ (size : BitVec 2) (rel : Bool) (scp : BitVec 2),
      let z := 64 * 2 ^ size.toNat
      let x := s.site f.p.site
      let base := (x.setWord a.toNat 0).toNat % 2 ^ 40
      let ctl := x.setWord a.toNat 1
      let good : Prop := a ≠ 0 ∧ a.toNat ≤ 255 ∧ ctl.getLsbD 16 = true ∧ ctl.toNat % 2 ^ 16 = l.t0.ctx ∧
        (base + c.toNat) % z = 0 ∧ base + c.toNat % 2 ^ 40 < 2 ^ 40
      (¬ good → stops (.rputm q size rel scp) a) ∧
      (good → exec (.rputm q size rel scp) s = .next
        (((({ s with freeCtr := s.freeCtr + 1 } : State).committed f l).enact t (.store [storeOf (Config.freeWord s.freeCtr) 0
          ((List.range (z / 32)).flatMap fun k => toBytes 32 (l.t0.w (firstOf q.b + k)).pay.toNat)
          (.multi (x.setDests a.toNat (base + c.toNat % 2 ^ 40))) (if rel then some scp.toNat else none)] q.sbUse)).ended l))

/-- R313 to R315 and R365: PRECV posts a buffer, and the oldest buffer takes the packet that waits; PRED and PQNT translate their
ranges before commit and leave their work to the engine. MODEL'S CHOICES (log 22): the engine begins once the earlier writes of the
thread stand in memory; it goes element by element and granule by granule, as far as its accesses have come, takes the sum, maximum,
minimum or copy of PRED and the granule and residual of PQNT, and answers with the count of those not written; no residual is stored
where gC reads 0. -/
def Obligations.ReceivesReductionsQuantisation : Prop :=
  (∀ (s : State) (id dst next failed : Nat) (w : PortWork) (r : Req), s.req id = some r → r.kind = .port dst w next failed →
    r.resp = none →
    (s.carried r.t.p r.gen r.id = false → exec (.deferredWrite id) s = .next s) ∧
    (s.carried r.t.p r.gen r.id = true →
      let begun : Progress := ⟨s, next, failed⟩
      let x : Progress := match w with
        | .pred op bfa fmt a b da db n => begun.pred r op bfa fmt a b da db (n - next)
        | .pqnt fmt p2 a b c gsd da db ds dc n => begun.pqnt r fmt p2 a b c gsd da db ds dc (n - next)
      let status := BitVec.ofNat 64 (2 ^ 63 + (if x.failed = 0 then 0 else 2 ^ 62) + x.failed % 2 ^ 32)
      exec (.deferredWrite id) s = .next (x.s.setReq { r with
        kind := .port dst w x.next x.failed, resp := if x.next = w.count then some [.g dst status] else none }))) ∧
  -- one element of PRED
  (∀ (x : Progress) (r : Req) (op : Nat) (bfa : Bool) (fmt : Fmt) (a b : Word) (da db : List Part) (n : Nat) (u : State),
    let w := fmt.bits / 8
    let z := if bfa then 128 else w
    let d := placesIn da (a + BitVec.ofNat 64 (w * x.next)) w
    let y := placesIn db (b + BitVec.ofNat 64 (z * (if bfa then x.next / 32 else x.next))) z
    let reach := x.s.reqReach r ([(y, .read), (d, .write)] ++ if op = 0 then [] else [(d, .read)])
    (reach = (.waits, u) → x.pred r op bfa fmt a b da db (n + 1) = { x with s := u }) ∧
    (reach = (.fails, u) → x.pred r op bfa fmt a b da db (n + 1) =
      (⟨u.endPlaces r.t.p r.ctx r.id (y ++ d), x.next + 1, x.failed + 1⟩ : Progress).pred r op bfa fmt a b da db n) ∧
    (reach = (.may, u) →
      let old := fmt.decode (ofBytes (u.placeBytes d))
      let new := if bfa then bfaValue (u.placeBytes y) (x.next % 32) else fmt.decode (ofBytes (u.placeBytes y))
      let v := match op with | 0 => new | 1 => (X.add false old new).1 | 2 => minMaxX true old new | _ => minMaxX false old new
      x.pred r op bfa fmt a b da db (n + 1) =
        (⟨(u.writePieces r.t.p d (toBytes w (fmt.round .rn false 0 v).1)).endPlaces r.t.p r.ctx r.id (y ++ d), x.next + 1, x.failed⟩ :
          Progress).pred r op bfa fmt a b da db n)) ∧
  -- one granule of PQNT
  (∀ (x : Progress) (r : Req) (fmt : Fmt) (p2 : Bool) (a b : Word) (c : Option Word) (gsd : Word) (da db ds dc : List Part)
    (n : Nat) (u : State),
    let gb := b + BitVec.ofNat 64 (32 * x.next)
    let pa := placesIn da (a + BitVec.ofNat 64 (128 * x.next)) 128
    let pb := placesIn db gb 32
    let ps := placesIn ds ((gb >>> 4) + gsd) 2
    let pc := (c.map fun v => placesIn dc (v + BitVec.ofNat 64 (128 * x.next)) 128).getD []
    let ended (t : State) (failed : Nat) : Progress :=
      (⟨t.endPlaces r.t.p r.ctx r.id (pa ++ pb ++ ps ++ pc), x.next + 1, failed⟩ : Progress).pqnt r fmt p2 a b c gsd da db ds dc n
    let reach := x.s.reqReach r [(pa, .read), (pc, .read), (pb, .write), (ps, .write), (pc, .write)]
    (reach = (.waits, u) → x.pqnt r fmt p2 a b c gsd da db ds dc (n + 1) = { x with s := u }) ∧
    (reach = (.fails, u) → x.pqnt r fmt p2 a b c gsd da db ds dc (n + 1) = ended u (x.failed + 1)) ∧
    (reach = (.may, u) →
      let v := match c with
        | some _ => ((f32sOf (u.placeBytes pa)).zip (f32sOf (u.placeBytes pc))).map fun (y : X × X) => (X.add false y.1 y.2).1
        | none => f32sOf (u.placeBytes pa)
      let g := (pack fmt (chooseScale fmt p2 v) .rn false v 0 0).w
      let left := (v.zipIdx).flatMap fun (y : X × Nat) => toBytes 4 (rnF32 (X.add false y.1 (elemVal fmt g y.2).negate).1)
      x.pqnt r fmt p2 a b c gsd da db ds dc (n + 1) = ended (((u.writePieces r.t.p pb g.payBytes).writePieces r.t.p ps
        g.scaleBytes).writePieces r.t.p pc left) x.failed)) ∧
  (∀ (s : State) (id dst n : Nat) (r : Req), s.req id = some r → r.kind = .precv dst → r.resp = none →
    (s.proc r.t.p).channelOf id = some n →
      exec (.deferredWrite id) s = .next (s.matchChan r.t.p n ((s.proc r.t.p).chan n).pkts.length)) ∧
  ∀ (s : State) (q : QForm) (f : Flight) (rest : List Flight) (l : LaneRun), OneLane s q.pn q.pr f rest l →
    let e : Env := ⟨s, f, l⟩
    let t := f.tid l
    let a := e.g q.a
    let b := e.g q.b
    let c := e.g q.c
    let stops (i : Instr) (cause : Nat) (v : Word) : Prop := exec i s = .next (s.left (l.stopped f cause v))
    let asks (i : Instr) (u : State) (w : PortWork) : Prop := exec i s = .next
      (((u.committed f l).enact t (.req (reqOf q.sbUse (.port q.dst.toNat w 0 0) [] none))).ended l)
    -- PRECV
    (a.toNat % 32 ≠ 0 → stops (.precv q) 7 a) ∧
    (a.toNat % 32 = 0 → ∀ ps u, s.spanOf e .write a (b.toNat / 2 ^ 32 % 2 ^ 20) = (.ok ps, u) →
      let v := (u.committed f l).enact t (.req (reqOf q.sbUse (.precv q.dst.toNat) [] none))
      let n := b.toNat % 64
      let ch := (v.proc f.p).chan n
      let bufs : List RecvBuf := ch.bufs ++ [⟨v.nextId, a, b.toNat / 2 ^ 32 % 2 ^ 20⟩]
      let posted := v.setChan f.p n { ch with bufs := bufs }
      let goes (y : State) (more : List ChanPkt) : Prop := exec (.precv q) s = .next
        (((y.setChan f.p n { (y.proc f.p).chan n with pkts := more }).matchChan f.p n more.length).ended l)
      (ch.pkts = [] → exec (.precv q) s = .next (posted.ended l)) ∧
      ∀ k more buf y, ch.pkts = k :: more → bufs.head? = some buf →
        (posted.fillBuffer f.p n buf k = .done y → goes (y.takeBuf f.p n) more) ∧
        (posted.fillBuffer f.p n buf k = .fails y → goes y more) ∧
        (posted.fillBuffer f.p n buf k = .waits y → exec (.precv q) s = .next (y.ended l))) ∧
    -- PRED
    (∀ (op : BitVec 2) (bfa : Bool) (fmt : Fmt),
      let n := c.toNat % 2 ^ 21
      let w := fmt.bits / 8
      let z := if bfa then 128 else w
      (n = 0 ∨ 2 ^ 20 < n ∨ (bfa = true ∧ n % 32 ≠ 0) → stops (.pred q op bfa fmt) 20 c) ∧
      (0 < n → n ≤ 2 ^ 20 → (bfa = true → n % 32 = 0) →
        (a.toNat % z ≠ 0 → stops (.pred q op bfa fmt) 7 a) ∧
        (a.toNat % z = 0 → b.toNat % z ≠ 0 → stops (.pred q op bfa fmt) 7 b) ∧
        (a.toNat % z = 0 → b.toNat % z = 0 → ∀ da u db v, s.spanOf e .write a (w * n) = (.ok da, u) →
          u.spanOf e .read b (if bfa then 4 * n else w * n) = (.ok db, v) →
          asks (.pred q op bfa fmt) v (.pred op.toNat bfa fmt a b da db n)))) ∧
    -- PQNT
    ∀ (g : BitVec 8) (fmt : Fmt) (p2 : Bool),
      let k := g.toNat + 1
      (a.toNat % 4 ≠ 0 → stops (.pqnt q g fmt p2) 7 a) ∧
      (a.toNat % 4 = 0 → b.toNat % 32 ≠ 0 → stops (.pqnt q g fmt p2) 7 b) ∧
      (a.toNat % 4 = 0 → b.toNat % 32 = 0 → c.toNat % 4 ≠ 0 → stops (.pqnt q g fmt p2) 7 c) ∧
      (a.toNat % 4 = 0 → b.toNat % 32 = 0 → c.toNat % 4 = 0 → (e.sa b).toNat % 2 ≠ 0 → stops (.pqnt q g fmt p2) 7 (e.sa b)) ∧
      (a.toNat % 4 = 0 → b.toNat % 32 = 0 → c.toNat % 4 = 0 → (e.sa b).toNat % 2 = 0 → ∀ da u db v ds x,
        s.spanOf e .read a (128 * k) = (.ok da, u) → u.spanOf e .write b (32 * k) = (.ok db, v) →
        v.span e .write (scalePieces e b k) = (.ok ds, x) →
        (c = 0 → asks (.pqnt q g fmt p2) x (.pqnt fmt p2 a b none l.t0.gsd da db ds [] k)) ∧
        (c ≠ 0 → ∀ dr y dc z, x.spanOf e .read c (128 * k) = (.ok dr, y) → y.spanOf e .write c (128 * k) = (.ok dc, z) →
          asks (.pqnt q g fmt p2) z (.pqnt fmt p2 a b (some c) l.t0.gsd da db ds dc k)))

/-! The turns of the wafer (their occasions are those of R395; which turn comes next is the model's choice, log 1). -/

/-- R196, R198, R201 to R203, R205, R215, R294, R309: the way of a store. It leaves the head of its row's queue when its
thread's earlier loads have been performed and, for a release, when what it carries has been acknowledged, and goes out in a
packet if its bytes stand at another site; it is performed once it has come to its home, where a window must let it in, else the
issuer's error record counts it; its acknowledgement takes it off the way. Each writes the bytes named and no other. -/
def Obligations.StoresOnTheirWay : Prop :=
  ∀ (s : State) (x : Store) (id : Nat),
    let there (a : Nat) : Prop := s.arrived x.t.p x.ctx x.id a = true
    let admitted (a : Nat) : Prop := there a ∧ (paRegion a x.size).isSome = true ∧ isControl a = false ∧
      s.windowFor x.t.p x.ctx a x.size x.kind.access = true
    let refusedAt (a : Nat) : Prop := there a ∧
      ((paRegion a x.size).isNone = true ∨ s.windowFor x.t.p x.ctx a x.size x.kind.access = false)
    let lands (i : Instr) (a : Nat) (b : List Byte) (no : Bool) : Prop := Leads i s fun t =>
      t.mem = Memory.write s.mem a b ∧ (t.store id).map (fun y => (y.done, y.rejected)) = some (true, no) ∧
        t.threads = s.threads ∧ t.procs = s.procs
    let fails (i : Instr) (no : Bool) : Prop := Leads i s fun t =>
      t.mem = s.mem ∧ (t.store id).map (fun y => (y.done, y.rejected)) = some (true, no) ∧
        ∀ u, s.locate x.t x.gen = some u →
          let r := (s.th u).erec
          (t.th u).erec = ⟨if r.count = 0 then x.va else r.va, r.count + 1⟩
    (∀ (p : PId) (row : Nat) (rest : List Store), (s.proc p).queues.get [] row = x :: rest → s.dead p.site = false →
      (∀ r ∈ s.reqs, r.t = x.t → r.gen = x.gen → r.id < x.id → r.waiting = false) →
      (∀ c, x.rel = some c → c = 0 ∨ ((∀ y ∈ s.stores, y.t.p = p → x.id ≤ y.id ∧ x.gen ∉ y.readers) ∧
        ∀ e ∈ (s.proc p).queues, ∀ y ∈ e.2, x.gen ∉ y.readers)) →
      Leads (.storeDrain p row) s fun t =>
        t.mem = s.mem ∧ t.stores = s.stores ++ [x] ∧ (t.proc p).queues.get [] row = rest ∧
          (x.kind = .plain → paSite x.pa ≠ x.t.p.site → ∃ k ∈ t.packets, k.kind = .access x.id x.pa ∧
            k.dst.site = paSite x.pa ∧ k.hop = x.t.p.site ∧ k.ver = (s.site x.t.p.site).active) ∧
          ∀ d, x.kind = .multi d →
            let own := (d.map (·.1)).filter fun a => siteWaf (paSite a) == siteWaf x.t.p.site && paSite a != x.t.p.site
            own ≠ [] → ∃ k ∈ t.packets, k.kind = .multi x.id own ∧ k.hop = x.t.p.site) ∧
    (s.store id = some x → s.storeReady x = true →
      (x.kind = .plain ∨ (∃ o, x.kind = .put o) →
        (admitted x.pa → lands (.storeAtHome id) x.pa x.data false) ∧ (refusedAt x.pa → fails (.storeAtHome id) true) ∧
        (¬ there x.pa → exec (.storeAtHome id) s = .next s)) ∧
      (∀ a g, x.kind = .multi [(a, g)] →
        (admitted a → lands (.multicastReplicate id) a x.data x.rejected) ∧
        (refusedAt a → fails (.multicastReplicate id) x.rejected) ∧
        (¬ there a → exec (.multicastReplicate id) s = .next s)) ∧
      (∀ adds, x.kind = .bfa adds →
        (admitted x.pa → s.poisoned x.pa 128 = false →
          lands (.bfaAdd id) x.pa ((Bfa.of (Memory.read s.mem x.pa 128)).add adds).bytes false) ∧
        (refusedAt x.pa → fails (.bfaAdd id) true)) ∧
      (∀ (aop : Nat) (w32 : Bool), x.kind = .red aop w32 → s.req id = none →
        let w := if w32 then 4 else 8
        (admitted x.pa → s.poisoned x.pa x.size = false → lands (.atomicAtHome id) x.pa
          (toBytes w (atomNew aop (8 * w) (ofBytes (Memory.read s.mem x.pa x.size)) (ofBytes x.data))) false) ∧
        (refusedAt x.pa → fails (.atomicAtHome id) true))) ∧
    (s.store id = some x → x.done = true → s.answering id = true → exec (.storeAck id) s = .next s) ∧
    (s.store id = some x → x.done = true → s.answering id = false → Leads (.storeAck id) s fun t =>
      t.mem = s.mem ∧ t.stores = s.stores.filter (·.id != id) ∧
        ((∀ y ∈ s.stores, y.id ≠ id → y.grp ≠ x.grp) →
          (∀ q ∈ s.procs, q.1 = x.t.p → ∀ r ∈ q.2.queues, ∀ y ∈ r.2, y.grp ≠ x.grp) →
          (s.th x.t).gen = x.gen → (s.th x.t).st ≠ .exiting → ∀ k, k < 8 → x.sb = some k →
          (t.th x.t).sbOf k = (s.th x.t).sbOf k - 1))

/-- R37, R101, R202, R206, R208, R214, R217: loads and atomics at their homes. Whether a turn serves a load from a copy is the
model's choice (log 1). A load takes the bytes at its home as its thread's own stores have made them, an atomic its old
value and leaves the new one, as one step; the result reaches the registers later, with the fall of the scoreboard. -/
def Obligations.LoadsAndAtomicsOnTheirWay : Prop :=
  ∀ (s : State) (r : Req) (x : Part) (k : LoadKind) (acq : Option Nat) (id : Nat), s.req id = some r →
    (r.kind = .load k acq → r.parts = [x] → x.got = none → r.resp = none → s.inOrder r = true →
      let gives (t : State) (b : List Byte) (bad : Bool) : Prop := (t.req id).map (fun q => (q.resp, q.poison)) =
        some (some (if bad then [] else k.finish [b]), if bad then some x.va else none)
      (k.isAtomic = false → s.partReady r x = true →
        (∀ fromCopy : Bool, fromCopy = false ∨ s.copyFor r.t x = none →
          (s.arrived r.t.p r.ctx r.id x.pa = true → Leads (.loadAtHome id fromCopy) s fun t =>
            t.mem = s.mem ∧ gives t (s.viewBytes r.t r.id [] x.pa x.n) (s.poisoned x.pa x.n)) ∧
          (s.arrived r.t.p r.ctx r.id x.pa = false → s.dead (paSite x.pa) = false →
            Leads (.loadAtHome id fromCopy) s fun t =>
              t.mem = s.mem ∧ t.reqs = s.reqs ∧ ∃ q ∈ t.packets, q.kind = .access r.id x.pa)) ∧
        (∀ c far, s.copyFor r.t x = some (c, far) → Leads (.loadAtHome id true) s fun t =>
          t.mem = s.mem ∧ gives t (s.copyBytes r c x) (c.poisoned x.pa x.n))) ∧
      (k.isAtomic = true → s.atomicReady r (if x.rc then some 1 else none) = true → s.arrived r.t.p r.ctx r.id x.pa = true →
        let old := Memory.read s.mem x.pa x.n
        (s.poisoned x.pa x.n = false → Leads (.atomicAtHome id) s fun t =>
          t.mem = Memory.write s.mem x.pa (k.after old) ∧ gives t old false) ∧
        (s.poisoned x.pa x.n = true → Leads (.atomicAtHome id) s fun t => t.mem = s.mem ∧ gives t old true))) ∧
    (r.resp.isSome = true → s.answering id = true → exec (.deferredWrite id) s = .next s) ∧
    (s.answering id = false →
    (∀ (u : TId) (d : BitVec 5) (v : Word), r.resp = some [.g d.toNat v] → r.poison = none → r.lost = none → s.locate r.t r.gen = some u →
      (s.th u).fid = r.fid → (s.th u).gen = r.gen → (s.th u).st ≠ .exiting → Leads (.deferredWrite id) s fun t =>
        t.mem = s.mem ∧ t.reqs = s.reqs.filter (·.id != id) ∧ (t.th u).g d.toNat = (if d = 0 then 0 else v) ∧
          ∀ n, n < 8 → r.sb = some n → (t.th u).sbOf n = (s.th u).sbOf n - 1) ∧
    (∀ (u : TId) (va : Word), r.resp = some [] → r.poison = some va → r.lost = none → s.locate r.t r.gen = some u →
      (s.th u).hold = Hold.empty → r.sb = none → exec (.deferredWrite id) s =
        .next (({ s with reqs := s.reqs.filter (·.id != id) } : State).modTh u fun th =>
          { th with pend := th.pend ++ [⟨12, va, false⟩] })))

/-- R94, R187, R192, R193, R197, R210, R220, R353, R354 and R387: what moves in the caches and the translation buffers. None of it
changes a byte of memory. MODEL'S CHOICES: an expiry counts as an eviction into the victim tags, and ICINV waits for its thread's
earlier stores (log 19); a walk's reads go to the tables as packets (log 30). -/
def Obligations.CachesTranslationsErrors : Prop :=
  ∀ (s : State) (p : PId) (t : TId) (g ctx line : Nat) (va : Word),
    let q := s.site g
    (∀ x, q.liveCtx ctx = some x →
      let u := s.dropWays ⟨g, 0⟩ ctx (·.walks va)
      (∀ e lvl, walk s ⟨g, 0⟩ ctx (q.ctx x).ptroot.toNat va = .ok e lvl → exec (.pageWalk g ctx va) s =
        .next (u.setSite g { u.site g with stlb := (⟨ctx, va.toNat, lvl, e⟩ :: (u.site g).stlb).take 32768 })) ∧
      (∀ a, walk s ⟨g, 0⟩ ctx (q.ctx x).ptroot.toNat va = .wait a → exec (.pageWalk g ctx va) s =
        .next (s.askWay ⟨g, 0⟩ ctx 0 (.walk (pageOf va) a) a).2)) ∧
    (∀ (a tgt : Nat) (k : AccKind), s.judged g tgt ctx = true → s.windowOk g (siteWaf g) ctx (mkPa tgt a) 1 k = true →
      Leads (.verdictReply g tgt ctx a k) s fun u =>
        u.mem = s.mem ∧ (⟨siteWaf tgt, tgt % 64, ctx, a / 8192, k⟩ : Grant) ∈ (u.site g).grants) ∧
    (∀ (a tgt : Nat) (k : AccKind), s.windowOk g (siteWaf g) ctx (mkPa tgt a) 1 k = false →
      exec (.verdictReply g tgt ctx a k) s = .next s) ∧
    Leads (.cacheLineExpiry p true line) s (fun u => u.mem = s.mem ∧ ∀ c ∈ (u.site p.site).l2, c.line ≠ line) ∧
    Leads (.cacheLineExpiry p false line) s (fun u => u.mem = s.mem ∧ (∀ c ∈ (u.proc p).l1, c.line ≠ line) ∧
      ∀ c, (s.proc p).l1.find? (·.line == line) = some c →
        (u.proc p).vtags = ((line, c.row) :: (s.proc p).vtags).take 1024) ∧
    Leads (.llsDecay p) s (fun u => u.mem = s.mem ∧ (u.proc p).lls = (s.proc p).lls.map fun x => (x.1, x.2 / 2)) ∧
    (∀ a, Leads (.eccError a true) s (fun u => u.mem = s.mem ∧ u.poison = s.poison) ∧
      Leads (.eccError a false) s (fun u => u.mem = s.mem ∧ u.poisoned a 1 = true ∧
        ∀ b, a / 64 ≠ b / 64 → u.poisoned b 1 = s.poisoned b 1)) ∧
    (∀ (id : Nat) (r : Req) (inv : Bool) (ps : List (Nat × Nat)), s.req id = some r → r.kind = .range inv ps →
      let hit (l : Nat) : Prop := ∃ x ∈ ps, lineOf x.1 ≤ l ∧ l ≤ lineOf (x.1 + x.2 - 1)
      Leads (.ccleanCinvComplete id) s fun u => u.mem = s.mem ∧ u.req id = none ∧
        (∀ l ∈ (u.site r.t.p.site).dirty, ¬ hit l) ∧
        (inv = true → (∀ c ∈ (u.site r.t.p.site).l2, ¬ hit c.line) ∧ ∀ c ∈ (u.proc r.t.p).l1, ¬ hit c.line)) ∧
    (let th := s.th t
     let free (h : Hold) : Prop := s.holdMet t { th with hold := h } = true
     th.st ≠ .free →
      (∀ (ret : Bool) (range : Option (Word × Nat)), th.hold.icinv = some (ret, range) → free { th.hold with icinv := none } →
        (range = none → Leads (.icinvComplete t) s fun u =>
          u.mem = s.mem ∧ (u.th t).hold.icinv = none ∧ (u.proc t.p).icl = []) ∧
        (∀ ls v, s.icDrops t.p th.ctx range = (some ls, v) → Leads (.icinvComplete t) s fun u =>
          u.mem = s.mem ∧ (u.th t).hold.icinv = none ∧ ∀ c ∈ (u.proc t.p).icl, ∀ x ∈ ls, c.line < x.1 ∨ x.2 < c.line) ∧
        (∀ v, s.icDrops t.p th.ctx range = (none, v) → exec (.icinvComplete t) s = .next v)) ∧
      (∀ (kind : BitVec 2) (v : Word) (waf : Bool), th.hold.tlbi = some (kind, v, waf) → free { th.hold with tlbi := none } →
        Leads (.tlbiComplete t) s fun u => u.mem = s.mem ∧ (u.th t).hold.tlbi = none ∧
          (u.proc t.p).tlb = dropTlb kind th.ctx v (s.proc t.p).tlb ∧
          (u.site t.p.site).stlb = dropTlb kind th.ctx v (s.site t.p.site).stlb))

/-- R33, R35, R89, R91, R97, R101, R118, R198, R246, R319, R320, R337 and R338: the turns of threads. A clause is issued for the group
that stands at it; a pending trap is delivered at a clause header, in the order R338 gives; a sleep ends, a wait is starved, a
held thread resumes at its pc. MODEL'S CHOICES: numbers of STOPPED entries are claimed before the M pipe issues (log 14); a lane that
waits to commit, or for its vector, is kept aside in `stalled` and tried again (logs 14, 15, 30); a HELD thread that resumes under a
STOPPED entry is STOPPED, and READY once its entry runs (log 15). -/
def Obligations.ThreadTurns : Prop :=
  ∀ (s : State) (t : TId),
    let th := s.th t
    (∀ (p : PId) (pipe : Pipe),
      let v := (s.askClauses p).markHints p
      let u := if pipe = .m then v.claimTable p (v.standing p pipe) else v
      let cs := u.issuable p pipe
      let m := u.markCands p pipe cs
      let cs' := cs.map fun c => ({ c with th := m.th c.t } : Cand)
      (cs = [] → exec (.issueGroup p pipe) s = .next m) ∧
      ∀ k, m.pick p cs' (m.throttled p pipe (sortBy Cand.before cs')) = some k →
        exec (.issueGroup p pipe) s = .next (k.issue p pipe) ∧
        ∀ h ws is, k.clause = .ok h ws is → (k.issue p pipe).flights =
          k.s.flights ++ [⟨p, k.c.t.slot, k.c.th.pc, h, ws, 0, k.group.map laneOf, k.s.tick⟩]) ∧
    (∀ (f : Flight) (rest : List Flight), s.flights = f :: rest →
      let u : State := { s with flights := rest, stalled := s.stalled ++ f.waiting }
      let late := f.lanes.filter (u.trapWaits f)
      (late = [] → exec .clauseCommit s = .next (f.lanes.foldl (fun u l => u.endLane f l) u)) ∧
      (late ≠ [] → exec .clauseCommit s = .next (f.lanes.foldl (fun u l => u.endOrAsk f late l)
        { u with stalled := u.stalled ++ [{ f with lanes := late, idx := f.words.length }] }))) ∧
    (∀ (f : Flight) (rest : List Flight) (l : LaneRun), s.flights = f :: rest → f.lanes = [l] → l.fault = none →
      (l.frozen = false → l.done = false → l.stall = false → exec .clauseCommit s =
        .next ((({ s with flights := rest } : State).commitLane f l).1.dropAsksOf f.p l.t0.ctx l.t0.gen)) ∧
      (l.stall = true → exec .clauseCommit s = .next { s with
        flights := rest
        stalled := s.stalled ++ [{ f with idx := f.words.length - 1, lanes := [{ l with stall := false }] }] })) ∧
    (∀ (f : Flight) (rest : List Flight) (l : LaneRun) (x : LFault), s.flights = f :: rest → f.lanes = [l] →
      l.fault = some x → x.later = false → l.stall = false →
      let u : State := { s with flights := rest }
      (u.vectorWaits (f.tid l) x.cause = false → exec .clauseCommit s = .next (u.deliver (f.tid l) x.cause x.idx x.info false)) ∧
      (u.vectorWaits (f.tid l) x.cause = true → exec .clauseCommit s = .next
        (({ u with stalled := s.stalled ++ [{ f with idx := f.words.length }] } : State).readVector (f.tid l) x.cause).2)) ∧
    (∀ x, th.st = .ready → s.inFlight t = false → th.hold = Hold.empty → th.tst.getLsbD 0 = false → nextPend th.pend = some x →
      s.vectorWaits t x.cause = true ∨ (s.readVector t x.cause).1 = .dead →
        exec (.asyncTrapDelivery t) s = .next (s.readVector t x.cause).2) ∧
    (∀ x, th.st = .ready → s.inFlight t = false → th.hold = Hold.empty → th.tst.getLsbD 0 = false → nextPend th.pend = some x →
      s.vectorWaits t x.cause = false → (s.readVector t x.cause).1 ≠ .dead →
      let info := if x.ofRec = false then x.info else if x.cause = 11 then th.erec.word else th.prec.word
      let th' : Thread := { th with
        pend := th.pend.erase x
        erec := if x.ofRec = true ∧ x.cause = 11 then ⟨0, 0⟩ else th.erec
        prec := if x.ofRec = true ∧ x.cause ≠ 11 then ⟨0, 0⟩ else th.prec }
      x ∈ th.pend ∧ (∀ y ∈ th.pend, x.cause ≤ y.cause) ∧
        exec (.asyncTrapDelivery t) s = .next ((s.setTh t th').deliver t x.cause 0 info true)) ∧
    (∀ d, th.wait = .sleep d → d ≤ s.cycles t.p → th.st = .parked → Leads (.sleepWake t) s fun u =>
      (u.th t).st = .ready ∧ (u.th t).wait = .none ∧ u.mem = s.mem) ∧
    (∀ since, th.cand = some since → th.starved = none → 4096 ≤ procSpan t.p since s.tick →
      exec (.starvation t) s = .next (s.setTh t { th with starved := some s.tick })) ∧
    (∀ (p : PId) (row : Nat), Leads (.rjhTimeout p row) s fun u => u.mem = s.mem ∧ u.threads = s.threads ∧
      ∀ x ∈ (s.proc p).hints, x.row = row → 64 ≤ procSpan p x.since s.tick → ({ x with past := true } : Hint) ∈ (u.proc p).hints) ∧
    (th.st = .held → Leads (.threadResume t) s fun u =>
      (((s.proc t.p).entry th.entry).st ≠ .stopped → (u.th t).st = .ready) ∧
      (((s.proc t.p).entry th.entry).st = .stopped → (u.th t).st = .stopped ∧ (u.th t).was = .ready) ∧ (u.th t).pc = th.pc ∧
      (u.th t).tst = th.tst &&& ~~~1#64 ∧ (u.th t).gr = th.gr ∧ u.mem = s.mem) ∧
    Leads (.threadKill t) s (fun u => (th.st ≠ .free → u.th t = Thread.free) ∧ (th.st = .free → u = s)) ∧
    (∀ v : Word, (th.st = .held ∨ th.st = .stopped → exec (.threadPcWrite t v) s = .next (s.setTh t { th with pc := v })) ∧
      (th.st ≠ .held → th.st ≠ .stopped → exec (.threadPcWrite t v) s = .next s)) ∧
    (th.st ≠ .free → s.inFlight t = false →
      (th.frames = [] → exec (.windowSpill t) s = .next ((s.setTh t th).dropAsks t)) ∧
      (∀ fr u es, th.frames.getLast? = some fr → th.spilled ≠ 65535 → s.spillHeld t th fr = false →
        s.storeParts (Env.at s t) none (((fr.regs.toList ++ [fr.lnk]).zipIdx).map fun x =>
          (th.wsp + BitVec.ofNat 64 (8 * x.2), toBytes 8 x.1.toNat)) = (.ok es, u) →
        exec (.windowSpill t) s = .next (((u.modTh t fun th => { th with
          frames := th.frames.dropLast, spilled := (s.th t).spilled + 1, wsp := th.wsp + 136 }).enact t (.store es none)).dropAsks t)) ∧
      (th.frames.length = 6 ∨ th.spilled = 0 → exec (.windowFill t) s = .next ((s.setTh t th).dropAsks t)) ∧
      (∀ b u, th.frames.length ≠ 6 → th.spilled ≠ 0 → s.readVirt t th.ctx [] (th.wsp - 136) 136 = (.ok b false, u) →
        Leads (.windowFill t) s fun v => v.mem = s.mem ∧ (v.th t).wsp = th.wsp - 136 ∧ (v.th t).spilled = th.spilled - 1 ∧
          ∃ fr : Frame, (v.th t).frames = th.frames ++ [fr] ∧ fr.lnk = wordAt b 16 ∧
            ∀ k, k < 16 → fr.regs[k]? = some (wordAt b k)))

/-- R223, R225, R235 to R240, R242 to R246, R252 and R253: the turns of the engines. A burst is asked for and lands, becomes a
handler, and the last one completes its bulk read; a copy moves its units; a tile is scrubbed, added to, and released;
an update runs element by element; a fault record is answered. -/
def Obligations.EngineTurns : Prop :=
  ∀ (s : State) (o : Op) (id : Nat), s.op id = some o → o.stopped = false → o.cancel = false →
    (∀ (w : Walk) (z budget : Nat) (pc gsd : Word) (args g17 : List Word) (jb : Option BandRef),
      o.kind = .bread w z pc args g17 budget gsd jb →
      -- BURST_REQUEST
      (s.opCarried o = true → o.again = [] → o.next < w.points → s.bufferUse o.t.p + z ≤ 65536 →
        (∀ cs va, w.point o.next = (cs, va, true) → ∀ pa u, s.engineAddr { o with next := o.next + 1 } false va z .read = (.ok pa, u) →
          let b : Burst := ⟨o.next, cs, false, va, pa, none, 0, false⟩
          exec (.burstRequest id) s = .next ((u.setOp { o with next := o.next + 1, bursts := o.bursts ++ [b] }).opWay o pa).2) ∧
        (∀ cs va, w.point o.next = (cs, va, false) →
          let b : Burst := ⟨o.next, cs, true, va, 0, some (w.fillBytes z), s.nextId + 1, false⟩
          exec (.burstRequest id) s = .next (({ s with nextId := s.nextId + 1 } : State).setOp
            { o with next := o.next + 1, bursts := o.bursts ++ [b] }))) ∧
      -- BURST_ARRIVAL
      (∀ (seq : Nat) (b : Burst), (o.bursts.find? fun b => b.seq == seq && b.data.isNone) = some b →
        let gone : Op := { o with bursts := o.bursts.filter (·.seq != seq), failed := o.failed + 1 }
        let way := s.wayOf o.t.p o.ctx (.access o.id b.pa) b.pa
        (way = .coming ∨ way = .unasked → exec (.burstArrival id seq) s = .next (s.opWay o b.pa).2) ∧
        (way = .here ∨ way = .lost →
          (s.loadOk o.t.p o.ctx o.id b.pa z .read = false →
            exec (.burstArrival id seq) s = .next ((s.opDone o b.pa []).setOp gone)) ∧
          (s.loadOk o.t.p o.ctx o.id b.pa z .read = true → s.poisoned b.pa z = true →
            exec (.burstArrival id seq) s = .next (((s.opDone o b.pa []).setOp gone).logPoison o b.pa 2)) ∧
          (s.loadOk o.t.p o.ctx o.id b.pa z .read = true → s.poisoned b.pa z = false → s.underway o.t.p b.pa z = false →
            isControl b.pa = false →
            Leads (.burstArrival id seq) s fun u => u.mem = s.mem ∧ ∃ o', u.op id = some o' ∧ o'.failed = o.failed ∧
              ∀ x ∈ o'.bursts, x.seq = seq → x.data = some (Memory.read s.mem b.pa z)))) ∧
      -- LAST_BURST
      (o.next = w.points → o.bursts = [] → o.held = [] → o.again = [] → o.handlers = [] → s.handlerStoresDone o = true →
        s.abroad o.id = false → (∀ x ∈ s.ops, ¬ x.id ∈ o.kids) → exec (.lastBurst id) s = .next (s.finishOp o o.status)) ∧
      -- HANDLER_ADMIT
      ∀ (b : Burst) (t : TId), (∀ x ∈ s.landed o.t.p, s.bandGone x.1 = false) →
        (s.landed o.t.p).find? (fun x => s.mayAdmit x.1) = some (o, b) → s.hlive o.t.p < (s.proc o.t.p).hmax →
        s.handlerSlot o.t.p = some t → Leads (.handlerAdmit o.t.p) s fun u =>
          u.mem = s.mem ∧ (u.th t).st = .ready ∧ (u.th t).pc = pc ∧ (u.th t).ctx = o.ctx ∧ (u.th t).gsd = gsd ∧
          (∀ k, 1 ≤ k → k ≤ 7 → (u.th t).g k = g17[k - 1]?.getD 0) ∧ (∀ k, 8 ≤ k → k ≤ 11 → (u.th t).g k = args[k - 8]?.getD 0) ∧
          (u.th t).g 12 = (if b.outside then 1 else 0) ∧ (∀ k, 13 ≤ k → k < 32 → (u.th t).g k = 0) ∧
          (∀ k, k < 8 → (u.th t).w k = ⟨0x7F00, BitVec.ofNat 256 (ofBytes (((b.data.getD []).drop (32 * k)).take 32))⟩) ∧
          (∀ k, 8 ≤ k → k < 16 → (u.th t).w k = ⟨0, 0⟩) ∧ (∀ k, k < 8 → (u.th t).m k = 0) ∧ (u.th t).fcsr = 0 ∧
          (u.th t).mcov = 0 ∧ (u.th t).mrho = 0 ∧ (u.th t).handler = some ⟨o.id, b.bc, b.seq,
            BitVec.ofNat 64 (o.tl.getD 0 * 2 ^ 32 + o.num % 2 ^ 32)⟩ ∧ (u.th t).band = jb) ∧
    -- COPY_UNIT, COPY_COMPLETE
    (o.kind.isCopy = true → o.out = false → o.staged = none → s.opCarried o = true →
      (∀ seq l, o.again = seq :: l → exec (.copyUnit id) s = .next (s.copyStep o seq false)) ∧
      (o.again = [] → o.next < o.kind.total → exec (.copyUnit id) s = .next (s.copyStep o o.next true)) ∧
      (∀ (src dst : Walk) (sa da : Word) (cs cd : List Nat) (u v y : State) (pa pb : Nat), o.kind = .copy src dst → o.again = [] →
        o.next < o.kind.total → src.point o.next = (cs, sa, true) → dst.point o.next = (cd, da, true) →
        let z := 16 * 2 ^ src.unit
        s.engineAddr o true da z .write = (.ok pb, u) → u.engineAddr o true sa z .read = (.ok pa, v) →
        v.unitWays o [pa, pb] = (true, y) → s.underway o.t.p pa z = false → s.underway o.t.p pb z = false →
        y.loadOk o.t.p o.ctx o.id pa z .read = true → y.loadOk o.t.p o.ctx o.id pb z .write = true →
        s.poisoned pa z = false → isControl pa = false → isControl pb = false →
        o.held = [] → Leads (.copyUnit id) s fun t =>
          t.mem = Memory.write s.mem pb (Memory.read s.mem pa z))) ∧
    (o.kind.isCopy = true → o.staged = none → o.next = o.kind.total → o.held = [] → o.again = [] →
      (s.abroad o.id = false → exec (.copyComplete id) s = .next
        ((match o.kind.tile with | some k => s.tileEnd o.t.p k o.band | none => s).finishOp o o.status)) ∧
      (s.abroad o.id = true → exec (.copyComplete id) s = .next s)) ∧
    -- TILE_ADD_LAND
    (∀ (float : Bool) (k off : Nat) (vals : List (BitVec 256)), o.kind = .tileAdd float k off vals → o.next = 0 →
      s.opCarried o = true →
      let n := 32 * vals.length
      exec (.tileAddLand id) s = .next (((s.tileWrite o.t.p k o.band off (addBytes float (s.tileRead o.t.p k o.band off n)
        (vals.flatMap fun v => toBytes 32 v.toNat))).setOp { o with next := 1 }).post o n)) ∧
    -- BUPD_ELEMENT
    (∀ (d : List Byte) (w m v g i : Nat), o.kind = .bupd d w m v g → s.opCarried o = true → i < o.kind.total →
      o.next ≤ i → (i + 1) ∉ o.again →
      let z := (gradFmt d).bits / 8
      let words := [w + 4 * i, m + 4 * i, v + 4 * i]
      let rd (a : Nat) : Nat := ofBytes (Memory.read s.mem a 4)
      let x := updateElem d (rd (w + 4 * i)) (rd (m + 4 * i)) (rd (v + 4 * i))
        ((gradFmt d).decode (ofBytes (Memory.read s.mem (g + z * i) z)))
      s.wayOf o.t.p o.ctx (.access o.id (w + 4 * i)) (w + 4 * i) = .here →
      (∀ a ∈ words, s.windowFor o.t.p o.ctx a 4 .rmw = true ∧ s.poisoned a 4 = false) →
      s.windowFor o.t.p o.ctx (g + z * i) z .read = true → s.poisoned (g + z * i) z = false →
      Leads (.bupdElement id i) s fun t => t.mem = Memory.write (Memory.write (Memory.write s.mem (w + 4 * i) (toBytes 4 x.1))
        (m + 4 * i) (toBytes 4 x.2.1)) (v + 4 * i) (toBytes 4 x.2.2)) ∧
    -- the engine fault queue
    (∀ (k : Nat) (r : FaultRec), (s.proc o.t.p).efq.find k = some r →
      let mine := (o.held.filter (·.2 == k)).map (·.1)
      (Leads (.faultRetry o.t.p k) s fun u => u.mem = s.mem ∧ (u.proc o.t.p).efq.find k = none ∧ u.op id =
        some { o with held := o.held.filter (·.2 != k), again := o.again ++ mine }) ∧
      Leads (.faultAbandon o.t.p k) s fun u => u.mem = s.mem ∧ (u.proc o.t.p).efq.find k = none ∧ u.op id =
        some { o with held := o.held.filter (·.2 != k), failed := o.failed + mine.length }) ∧
    -- TILE_SCRUB_END
    ∀ (p : PId) (k : Nat), ((s.proc p).tile k).st ≠ .empty → ((s.proc p).tile k).scrub = true →
      let t := (s.proc p).tile k
      Leads (.tileScrubEnd p k) s fun u => u.mem = s.mem ∧
        (∀ a, t.base ≤ a → a < t.base + 512 * t.size → Memory.get (u.proc p).tstore a = 0) ∧
        ((u.proc p).tile k).cnt = t.cnt - 1

/-- R84, R85, R263, R267, R268, R274 and R275: a row of an array word becomes final, which raises its condition flags (that they rise
then is the model's choice, log 21) and, with FIN, the watermarks of its accumulators; a finished word leaves its tiles; a read waits for its watermark; a word that does not decode is a stream fault,
which every member of the band finds pending. -/
def Obligations.StreamTurns : Prop :=
  ∀ (s : State) (p : PId),
    let q := (s.proc p).seq
    (∀ (a : Nat) (w : StreamWork), (q.work.find? fun w => w.isArray && w.accs.contains a && decide (w.rows < 64)) = some w →
      Leads (.arrayRowFinal p a) s fun u => u.mem = s.mem ∧
        (w.fin = true → ((u.proc p).seq.acc a).wm = max (q.acc a).wm (w.rows + 1)) ∧
        (∀ b, b ∉ w.accs → b ∉ w.raises.map (·.1) → (u.proc p).seq.acc b = q.acc b) ∧
        (w.fin = false → w.raises = [] → (u.proc p).seq.accs = q.accs) ∧
        (∀ l f, w.raises = [(a, l)] → l[w.rows]? = some f →
          ((u.proc p).seq.acc a).ovf = ((q.acc a).ovf || f.ovf) ∧ ((u.proc p).seq.acc a).nv = ((q.acc a).nv || f.nv) ∧
          ((u.proc p).seq.acc a).satf = ((q.acc a).satf || f.satf)) ∧ ({ w with rows := w.rows + 1 } : StreamWork) ∈ (u.proc p).seq.work) ∧
    (∀ (id : Nat) (w : StreamWork), (q.work.find? (·.id == id)) = some w → (w.isArray = true → 64 ≤ w.rows) → q.ending = false →
      w.tiles = [] → w.squares = [] → Leads (.streamInstrComplete p id) s fun u => u.mem = s.mem ∧ (u.proc p).seq.work = q.work.filter (·.id != id) ∧
        ∀ a, ((u.proc p).seq.acc a).wm = if w.isZero = true ∧ a ∈ w.accs then 64 else (q.acc a).wm) ∧
    (∀ (id k : Nat) (w : StreamWork), (q.work.find? (·.id == id)) = some w → (w.isArray = true → 64 ≤ w.rows) → w.tiles = [k] →
      w.squares = [] → ((s.proc p).tile k).st ≠ .empty → w.band = some ((s.proc p).tile k).band → Leads (.streamInstrComplete p id) s fun u => u.mem = s.mem ∧ ((u.proc p).tile k).cnt = ((s.proc p).tile k).cnt - 1) ∧
    (∀ (code : Nat), q.st = .running ∨ q.st = .waiting → q.ending = false → (∀ x ∈ s.stream, x.1 = p) →
      exec (.streamWordFault p code) s = .next (({ s with stream := none } : State).streamFault p code) ∧
      Leads (.streamWordFault p code) s fun u => u.mem = s.mem ∧ (u.proc p).seq.st = .faulted ∧ (u.proc p).seq.fcode = code ∧
        (u.proc p).seq.spc = q.spc ∧
        ∀ br b m, q.band = some br → (s.proc p).band br = some b → m ∈ b.members →
          (⟨21, BitVec.ofNat 64 (code % 256 * 2 ^ 56 + q.spc.toNat % 2 ^ 53), false⟩ : Pend) ∈ (u.th ⟨p, m.1, m.2⟩).pend) ∧
    ∀ (id : Nat) (r : Req), s.req id = some r → r.resp = none →
      let z := (s.proc r.t.p).seq
      (∀ a aq m row c0 nc fmt mode dst seed, r.kind = .acrd a aq m row c0 nc fmt mode dst seed →
        ((z.acc a).wm ≤ row → exec (.acrdRead id) s = .next s) ∧
        (row < (z.acc a).wm → (m = true → row < (z.acc aq).wm) →
          let x := z.readAcc a aq m row c0 nc ((Fmt.of (BitVec.ofNat 4 fmt)).getD .f32) mode seed dst
          exec (.acrdRead id) s = .next (s.setReq { r with resp := some x.1 }))) ∧
      (∀ a thr dst, r.kind = .acwm a thr dst →
        (thr ≤ (z.acc a).wm → exec (.acwmResult id) s = .next (s.setReq { r with resp := some [.g dst (z.acc a).status] })) ∧
        ((z.acc a).wm < thr → exec (.acwmResult id) s = .next s))

/-- R104, R319, R327, R331, R332, R343, R345, R346, R357 and R358: the turns of the slot table. A stop reaches the units of an entry
and is complete when all have stopped; a clear entry is activated, with its threads at their start, or restored; quanta, ends
and kills; an entry leaves for its image, or arrives from one. MODEL'S CHOICES: when CTXSAVE and CTXLOAD end and what they fail on
(log 24), ERR where the engine state does not fit its image (log 32), the units that stand scanned out and their read-back (log 9). -/
def Obligations.SlotTableTurns : Prop :=
  ∀ (s : State) (p : PId) (e : Nat),
    let r := s.proc p
    let n := r.entry e
    let stops (u : State) : Prop := u.mem = s.mem ∧ ((u.proc p).entry e).st = .stopping
    (n.st = .stopping →
      ((s.stopUnits p e).allStopped p e = true →
        exec (.entryStopped p e) s = .next (((s.stopUnits p e).moveEntry p e .stopped).contend p)) ∧
      ((s.stopUnits p e).allStopped p e = false → exec (.entryStopped p e) s = .next (s.stopUnits p e))) ∧
    (n.st ≠ .stopping → exec (.entryStopped p e) s = .next s) ∧
    (n.st = .stopped →
      (∀ t, t.p ≠ p → Leads (.scanOut p e) s fun u => u.th t = s.th t) ∧
      (∀ t, s.entryThreads p e = [(t, s.th t)] → t.slot < 16 → (s.th t).movable = true →
        t ∈ ((r.slots.filter fun x => x.1 != e && s.isClear p x.1).flatMap fun x => s.wantedSlots p x.1) →
        exec (.scanOut p e) s = .next (s.scanThread t))) ∧
    (n.st = .wait → s.isClear p e = true → s.slotsReady p e = true →
      let f := fieldAt n.record
      let free (u : State) : Nat := ((List.range 64).filter fun k => ((u.proc p).bands.find k).isNone &&
        !(u.proc p).closing.any (·.num == k)).length
      let u := s.claimBands p e (f 14 1)
      (n.killing = true → exec (.entryActivate p e) s = .next s) ∧
      (n.killing = false → free u < f 14 1 →
        let v := u.moveEntry p e .active
        exec (.entryActivate p e) s = .next ((v.setEntry p e { (v.proc p).entry e with err := true }).moveEntry p e .done)) ∧
      (n.killing = false → f 14 1 = 0 → ∀ t, s.wantedSlots p e = [t] → Leads (.entryActivate p e) s fun v => v.mem = u.mem ∧
        ((v.proc p).entry e).st = .active ∧ (v.th t).st = .ready ∧ (v.th t).pc = BitVec.ofNat 64 (f 0 8) ∧
        (v.th t).ctx = n.ctx ∧ (v.th t).entry = e ∧ ∀ k, 1 ≤ k → k ≤ 7 → (v.th t).g k = BitVec.ofNat 64 (f (8 + 8 * k) 8))) ∧
    (n.st ≠ .wait → exec (.entryActivate p e) s = .next s) ∧
    (n.st = .stopped → n.killing = false → (∀ m, r.move = some m → m.entry ≠ e) → s.isClear p e = true →
      s.slotsReady p e = true →
      let back := (s.claimAll p e).readBack p e
      let runs (u : State) : Prop := ((u.proc p).entry e).st = .active ∧
        ∀ o ∈ u.ops, o.t.p = p → o.entry = e → o.stopped = false ∧ o.out = false
      (back.canRestore p e = false → exec (.entryRestore p e) s = .next back) ∧
      (back.canRestore p e = true → Leads (.entryRestore p e) s runs) ∧
      -- with nothing scanned out no byte of memory changes
      (r.sbands = [] → r.stiles = [] → r.sseqs = [] → s.engineRoom p e = true → (∀ x ∈ s.entryThreads p e, x.1.slot < 16) →
        (∀ o ∈ s.opsOf p e, o.out = false) → Leads (.entryRestore p e) s fun u => u.mem = s.mem ∧ runs u)) ∧
    (n.st = .active → n.quantum ≠ 0 → n.quantum ≤ s.atime p n →
      (r.slots.any fun x => x.1 != e && x.2.pending && x.2.overlaps n && x.2.prio == n.prio) = true →
      Leads (.quantumExpiry p e) s stops) ∧
    (n.st = .active → n.quantum = 0 → exec (.quantumExpiry p e) s = .next s) ∧
    (n.st = .active → s.entryThreads p e = [] → (∀ b ∈ r.bands, b.2.entry ≠ e) →
      Leads (.entryDone p e) s fun u => u.mem = s.mem ∧ ((u.proc p).entry e).st = .done ∧ u.threads = s.threads) ∧
    (n.killing = true → s.entryThreads p e = [] → (∀ b ∈ r.bands, b.2.entry ≠ e) →
      (∀ o ∈ s.ops, o.t.p = p → o.entry ≠ e) → (∀ m, r.move = some m → m.entry ≠ e) →
      Leads (.entryKillDone p e) s fun u => u.mem = s.mem ∧ (u.proc p).entry e = Entry.empty ∧ u.threads = s.threads) ∧
    (∀ k, Leads (.bandNumberRelease p k) s fun u => u.mem = s.mem ∧ u.threads = s.threads ∧
      (u.proc p).closing = r.closing.filter fun c => c.num != k || c.chunk) ∧
    (∀ k b, r.bands.find k = some b → Leads (.bandKill p k) s fun u => u.mem = s.mem ∧
      (u.proc p).bands.find k = none ∧ ∀ m ∈ b.members, (u.th ⟨p, m.1, m.2⟩).st = .free) ∧
    (∀ m, r.move = some m → m.entry = e →
      let freed (s : State) : State := (s.imageDone p.site m).modProc p fun r => { r with move := none }
      let bad : Prop := m.err = true ∨ n.st ≠ .stopped ∨ n.killing = true
      (m.load = false →
        (bad → exec (.ctxsaveDone p e) s = .next ((freed s).ctxDone p e m.ctx false true)) ∧
        (¬ bad → s.atRest p e = false → exec (.ctxsaveDone p e) s = .next s) ∧
        (¬ bad → s.atRest p e = true → ∀ u,
          (s.imageReach p.site m .write = (.waits, u) → exec (.ctxsaveDone p e) s = .next u) ∧
          (s.imageReach p.site m .write = (.fails, u) →
            exec (.ctxsaveDone p e) s = .next ((freed u).ctxDone p e m.ctx false true)) ∧
          (s.imageReach p.site m .write = (.may, u) →
            let v := (freed u).readBack p e
            (v.enginesFit p e = false → exec (.ctxsaveDone p e) s = .next (v.ctxDone p e m.ctx false true)) ∧
            (v.enginesFit p e = true → exec (.ctxsaveDone p e) s =
              .next ((((v.writeImage p e m.image).freeUnits p e).moveEntry p e .empty).ctxDone p e m.ctx false false))))) ∧
      (m.load = true → ∀ u,
        let o := freed u
        let z := (o.freeUnits p e).setEntry p e Entry.empty
        let clear : State := match (z.site p.site).ctxIdx m.ctx with
          | some x => z.modProc p fun r => { r with tls := r.tls.filter (·.1.1 != x) }
          | none => z
        (s.imageReach p.site m .read = (.waits, u) → exec (.ctxloadDone p e) s = .next u) ∧
        (s.imageReach p.site m .read = (.fails, u) → exec (.ctxloadDone p e) s = .next (clear.ctxDone p e m.ctx true true)) ∧
        (s.imageReach p.site m .read = (.may, u) →
          (m.err = true → exec (.ctxloadDone p e) s = .next (clear.ctxDone p e m.ctx true true)) ∧
          (m.err = false → exec (.ctxloadDone p e) s =
            .next (((o.moveEntry p e .stopped).ctxDone p e m.ctx true false).contend p)))))

/-- R25, R76, R77, R112, R195, R197, R270, R293, R320 to R323, R325 and R381: stores to control space whose effect is a turn of
its own. MODEL'S CHOICES (log 31): GO while BUSY is ignored, and the range scrubbed is that of GO. -/
def Obligations.ControlSpaceTurns : Prop :=
  ∀ (s : State) (g : Nat),
    let q := s.site g
    let same (u : State) : Prop := u.mem = s.mem ∧ u.threads = s.threads
    (∀ (row entry : Nat) (hi : Bool) (v : Word), row < 64 → entry < 64 → Leads (.windowTableWrite g row entry hi v) s fun u =>
      same u ∧ (∀ x ∈ u.sites, ∀ d ∈ x.2.grants, d.waf ≠ siteWaf g ∨ d.site ≠ g % 64) ∧
      (u.site g).windows.get ⟨0, 0⟩ (row, entry) = (let w := q.windows.get ⟨0, 0⟩ (row, entry)
        if hi then { w with hi := v &&& 0xF801FFFFFFFFFFFF } else { w with lo := v })) ∧
    (let lo := mkPa g q.scrub.base
     let ok : Prop := q.scrub.base ≤ q.scrub.limit ∧
       (paRegion lo (q.scrub.limit + 1 - q.scrub.base) = some .dram ∨ paRegion lo (q.scrub.limit + 1 - q.scrub.base) = some .poolSram)
     (q.scrub.busy = false → ok → Leads (.scrubGo g) s fun u => same u ∧
       (u.site g).scrub = { q.scrub with busy := true, lo := q.scrub.base, hi := q.scrub.limit }) ∧
     (q.scrub.busy = false → ¬ ok → Leads (.scrubGo g) s fun u => same u ∧ (u.site g).scrub = { q.scrub with err := true }) ∧
     (q.scrub.busy = true → exec (.scrubGo g) s = .next s) ∧
     (q.scrub.busy = true → s.canonical → Leads (.scrubDone g) s fun u => u.threads = s.threads ∧
       (∀ a, Memory.get u.mem a = if mkPa g q.scrub.lo ≤ a ∧ a ≤ mkPa g q.scrub.hi then 0 else Memory.get s.mem a) ∧
       (u.site g).scrub.busy = false) ∧
     (q.scrub.busy = false → exec (.scrubDone g) s = .next s)) ∧
    (∀ (k : Nat) (x : BitVec 36), k < 16 → Leads (.normAcc g k x) s fun u => same u ∧ (u.site g).norm k = (q.norm k).acc x) ∧
    (isCompute g = true → ∀ k, k < 16 →
      Leads (.normZero g k) s (fun u => same u ∧ (u.site g).norm k = ⟨0, false, false, 0⟩) ∧
      ∀ v : Word, Leads (.normStatWrite g k v) s fun u => same u ∧ (u.site g).norm k =
        { q.norm k with sat := (q.norm k).sat && !v.getLsbD 33, uf := (q.norm k).uf && !v.getLsbD 32 }) ∧
    (∀ v : Word, Leads (.currentLimitWrite g v) s fun u => same u ∧ (u.site g).ilim = min (v.toNat % 2 ^ 16) 4800) ∧
    (∀ v : Word, let a := v.extractLsb' 0 16
      (a = q.active → Leads (.topologyVersionWrite g v) s fun u => same u ∧ (u.site g).shadow = v.extractLsb' 32 16 ∧
        (u.site g).active = q.active ∧ (u.site g).rtActive = q.rtActive) ∧
      (a ≠ q.active → a = q.shadow → Leads (.topologyVersionWrite g v) s fun u => same u ∧ (u.site g).active = a ∧
        (u.site g).shadow = q.active ∧ (u.site g).rtActive = q.rtShadow ∧ (u.site g).rtShadow = q.rtActive) ∧
      (a ≠ q.active → a ≠ q.shadow → Leads (.topologyVersionWrite g v) s fun u => same u ∧ (u.site g).verErr = true ∧
        (u.site g).active = q.active ∧ (u.site g).shadow = q.shadow)) ∧
    (∀ (ch : Nat) (hi : Bool) (v : Word), q.maskNext = [(ch, hi, v)] → Leads (.partMaskWrite g) s fun u => same u ∧
      (u.site g).maskNext = [] ∧ (u.site g).masks.get (BitVec.allOnes 96) ch =
        (let old := q.masks.get (BitVec.allOnes 96) ch
         if hi then v.extractLsb' 0 32 ++ old.extractLsb' 0 64 else old.extractLsb' 64 32 ++ v) ∧
      -- a release decided at the same edge uses the masks as they stood
      ∀ v, exec (.trussRelease (BitVec.ofNat 4 ch)) s = .next v → u.trel = v.trel) ∧
    (∀ i, Leads (.dlaunchEntryFree g i) s fun u => same u ∧ (u.site g).dl i = { q.dl i with occ := false }) ∧
    (∀ x, ((q.ctx x).st = 0 → q.ctxIdx (q.ctx x).id = none → Leads (.ctxCreate g x) s fun u => same u ∧
        (u.site g).ctx x = { q.ctx x with st := 1 } ∧
        ∀ p : PId, p.site = g → (∀ c ∈ (u.proc p).tls, c.1.1 ≠ x) ∧ ∀ c ∈ (u.proc p).tlb, c.ctx ≠ (q.ctx x).id) ∧
      ((q.ctx x).st = 1 → Leads (.ctxKill g x) s fun u => u.mem = s.mem ∧ ((u.site g).ctx x).st = 2 ∧
        (∀ c ∈ (u.site g).stlb, c.ctx ≠ (q.ctx x).id) ∧ ∀ d ∈ (u.site g).grants, d.ctx ≠ (q.ctx x).id) ∧
      ((q.ctx x).st = 2 → (∀ p ∈ s.procs, p.1.site = g → ∀ e ∈ p.2.slots, e.2.st ≠ .empty → e.2.ctx ≠ (q.ctx x).id) →
        (∀ t ∈ s.threads, t.1.p.site = g → t.2.st ≠ .free → t.2.ctx ≠ (q.ctx x).id) →
        (∀ o ∈ s.ops, o.t.p.site = g → o.ctx ≠ (q.ctx x).id) →
        (∀ p ∈ s.procs, p.1.site = g → (∀ m, p.2.move = some m → m.ctx ≠ (q.ctx x).id) ∧
          ∀ y ∈ p.2.closing, y.ctx = (q.ctx x).id → y.chunk = false) →
        (∀ r ∈ s.reqs, r.t.p.site = g → r.ctx = (q.ctx x).id → ∀ a b c, r.kind ≠ .coll a b c) →
        Leads (.ctxFree g x) s fun u => same u ∧ ((u.site g).ctx x).st = 0)) ∧
    (∀ (a : Nat) (v : Word), exec (.registerWrite g a v) s = .next (s.ctlWrite g (a / 8 * 8) v none)) ∧
    (∀ v : Word, Leads (.registerWrite g 0xF8000A0210 v) s fun u => same u ∧ (u.site g).ilim = min (v.toNat % 2 ^ 16) 4800)

/-- R284 to R286: the states of a link. It trains, and the lanes that pass decide; its partner may start the training, 100 µs end it; a
lane that fails takes it to DEGRADE or FAILED, a command takes it down; a flit is retried, and sixteen failures in a row
degrade the link. -/
def Obligations.LinkTurns : Prop :=
  ∀ (s : State) (g port k : Nat), linkPresent g port k = true →
    let l := s.link g port k
    let n := laneCount g port
    let becomes (u : State) (st : LinkSt) (weight : Nat) : Prop := u.mem = s.mem ∧ u.threads = s.threads ∧
      (u.link g port k).st = st ∧ (u.link g port k).weight = weight
    (l.st = .down ∨ l.st = .failed →
      Leads (.linkTrain g port k) s (fun u => becomes u .train 0 ∧ (u.link g port k).retrains = min (l.retrains + 1) 65535 ∧
        (u.link g port k).good = 0) ∧
      ∀ upper, Leads (.linkPartnerDetect g port k upper) s fun u => becomes u .train 0 ∧
        (u.link g port k).partner = l.partner ||| halfMask g port upper) ∧
    (l.st = .train →
      (∀ m, covers m (fullMask g port) = true → Leads (.linkTrainResult g port k m) s fun u => becomes u .up n ∧
        (u.link g port k).good = m &&& fullMask g port) ∧
      (∀ m h, covers m (fullMask g port) = false → lowHalf g port m = some h →
        Leads (.linkTrainResult g port k m) s fun u => becomes u .half (n / 2)) ∧
      (∀ m, covers m (fullMask g port) = false → lowHalf g port m = none → exec (.linkTrainResult g port k m) s =
        .next (s.setLink g port k { l with good := m &&& fullMask g port }))) ∧
    (l.st = .degrade →
      (∀ m h, lowHalf g port (m &&& ~~~l.bad) = some h → Leads (.linkTrainResult g port k m) s fun u => becomes u .half (n / 2)) ∧
      (∀ m, lowHalf g port (m &&& ~~~l.bad) = none → Leads (.linkTrainResult g port k m) s fun u => becomes u .failed 0)) ∧
    (l.st = .train ∨ l.st = .degrade →
      Leads (.linkTakeDown g port k) s (fun u => becomes u .down 0) ∧
      (100000 ≤ nanoSpan l.since s.tick → Leads (.linkStateTimeout g port k) s fun u => becomes u .failed 0) ∧
      (nanoSpan l.since s.tick < 100000 → exec (.linkStateTimeout g port k) s = .next s)) ∧
    (l.st = .up ∨ l.st = .half → Leads (.linkTakeDown g port k) s (fun u => becomes u .down 0) ∧
      Leads (.linkTrain g port k) s fun u => becomes u .train 0) ∧
    (l.st = .up → ∀ j, j < n → Leads (.linkLaneFail g port k j) s fun u => becomes u .degrade 0 ∧
      (u.link g port k).bad = 1#16 <<< j) ∧
    (l.st = .half → ∀ j h, j < n → lowHalf g port l.good = some h →
      (h.getLsbD j = true → Leads (.linkLaneFail g port k j) s fun u => becomes u .failed 0) ∧
      (h.getLsbD j = false → exec (.linkLaneFail g port k j) s = .next s)) ∧
    ∀ seq, (l.st = .up → 16 ≤ l.crc + 1 → Leads (.flitCrcRetry g port k seq) s fun u => becomes u .degrade 0) ∧
      (l.st.isUp = true → l.crc + 1 < 16 → Leads (.flitCrcRetry g port k seq) s fun u => becomes u l.st l.weight ∧
        (u.link g port k).crc = l.crc + 1 ∧ (u.link g port k).retry = l.retry)

/-- R26, R286, R290 to R292, R294 to R296, R303, R304, R310 and R312: the way of a packet over the fabric, and what a port
processor does with it. It goes from site to site over links, or out by an endpoint, or waits for a port; at its destination one of
an older version is refused, one of a newer is held for at most 100 µs; a DONE answers the collective its tag names. MODEL'S CHOICES:
a packet to another wafer goes from an endpoint straight to its destination, a pool's ports of equal occupancy go lowest first, and what
gives a delivery up (log 23); the chunk's size, and that it waits for a FILLING tile (log 22); accesses, walks and answers as packets,
the 10 ms of a packet that stands at its end, the splitting of a multicast (log 30). -/
def Obligations.PacketTurns : Prop :=
  ∀ (s : State) (k : Packet) (id : Nat), s.packet id = some k →
    let there : Prop := k.hop = k.dst.site ∧ k.crossing = false ∧ k.lost = false ∧ s.dead k.hop = false ∧ s.cleared k = true ∧
      k.load = []
    let onLink (k : Packet) (port j : Nat) : Packet := { k with
      wire := some (k.hop, port, j), crossing := true, xport := none, epoch := s.portEpoch k.hop port, waitAt := none }
    let order := verOrder k.ver (s.site k.dst.site).active
    let becomes (i : Instr) (k' : Packet) : Prop := Leads i s fun u => u.mem = s.mem ∧ u.threads = s.threads ∧ k' ∈ u.packets
    -- PACKET_HOP: a site that died loses it; on a link it comes to the other end
    (k.lost = true → exec (.packetHop id) s = .next s) ∧
    (k.lost = false → s.dead k.hop = true → exec (.packetHop id) s = .next (s.settlePacket k 5)) ∧
    (k.lost = false → s.dead k.hop = false → k.crossing = true → ∀ gs port j, k.wire = some (gs, port, j) →
      (∀ g o f rest, s.farEnd k = some (g, o) → s.dead g = false → pastMarks (s.link gs port j).retry = f :: rest →
        f.pkt = k.id → (s.link gs port j).st.isUp = true → k.flow = none →
        becomes (.packetHop id) { k with hop := g, wire := some o, crossing := false, waitAt := none }) ∧
      (∀ g o, s.farEnd k = some (g, o) → s.dead g = true → exec (.packetHop id) s = .next (s.waitPort k)) ∧
      (s.farEnd k = none → exec (.packetHop id) s = .next (if s.sillUp k.dst.site then s else s.waitPort k))) ∧
    -- where it stands it takes its next hop, routed by its version
    (k.lost = false → s.dead k.hop = false → k.crossing = false →
      (k.hop = k.dst.site ∨ s.cleared k = false → exec (.packetHop id) s = .next s) ∧
      (k.hop ≠ k.dst.site → s.cleared k = true →
        (∀ c u, s.loadPacket k = .nack c u → exec (.packetHop id) s = .next (u.settlePacket k c)) ∧
        (∀ u, s.loadPacket k = .waits u → exec (.packetHop id) s = .next u) ∧
        (∀ i l, k.kind = .multi i l → k.load = [] →
          (∀ ports g, s.fanOut k l = [(ports, g)] → ports ≠ [] → exec (.packetHop id) s = .next (s.meshHop k ports)) ∧
          (∀ g, s.fanOut k l = [([], g)] → exec (.packetHop id) s = .next (s.setPacket (k.copyFor i g))) ∧
          ((s.fanOut k l).length ≠ 1 → exec (.packetHop id) s =
            .next ((s.sendCopies k ((s.fanOut k l).map fun g => k.copyFor i g.2)).dropPacket k.id))) ∧
        ((∀ i l, k.kind ≠ .multi i l) → k.load = [] → k.via = none → siteWaf k.dst.site ≠ siteWaf k.hop →
          (s.egressOf k.hop = some k.hop → s.sillUp k.dst.site = true →
            ∀ j, s.spread k.hop (sillPort k.hop) (s.liveLinks k.hop (sillPort k.hop)) k.lot = some j →
              (s.linkRoom k (sillPort k.hop) j = true →
                becomes (.packetHop id) (onLink { k with ext := some true } (sillPort k.hop) j)) ∧
              (s.linkRoom k (sillPort k.hop) j = false → becomes (.packetHop id) { k with ext := some true, waitAt := none })) ∧
          (∀ g, s.egressOf k.hop = some g → g ≠ k.hop → becomes (.packetHop id)
            { k with via := some g, ext := some true, waitAt := none }) ∧
          (s.egressOf k.hop = none → k.waitAt = none → becomes (.packetHop id)
            { k with ext := some true, waitAt := some s.tick })) ∧
        ((∀ i l, k.kind ≠ .multi i l) → k.load = [] → k.via = none → siteWaf k.dst.site = siteWaf k.hop →
          let ports := s.candidates k.hop (s.route k.hop (some k.ver) k.dst.site)
          (isCompute k.hop = true → exec (.packetHop id) s = .next
            (match s.planeOf k with
              | .mesh port => s.hopTo { k with ext := some false } port
              | .external => s.hopOut { k with ext := some true }
              | .none => s.waitPort k)) ∧
          (isCompute k.hop = false →
            (k.xport = none → s.leastPort k.hop ports = none → exec (.packetHop id) s = .next (s.waitPort k)) ∧
            (∀ port, k.xport = none → s.leastPort k.hop ports = some port →
              (s.crossRoom k port = true → becomes (.packetHop id) { k with wire := none, xport := some port, waitAt := none }) ∧
              (s.crossRoom k port = false → exec (.packetHop id) s = .next s)) ∧
            ∀ port j, k.xport = some port → s.portUp k.hop port = true →
              s.spread k.hop port (s.liveLinks k.hop port) k.lot = some j → s.linkRoom k port j = true →
                becomes (.packetHop id) (onLink k port j))))) ∧
    -- the timeouts
    (∀ t, k.waitAt = some t →
      let stands : Prop := k.lost = true ∨ (k.hop = k.dst.site ∧ k.crossing = false)
      (10000000 ≤ nanoSpan t s.tick → ¬ stands → exec (.portWaitTimeout id) s = .next (s.settlePacket k 5)) ∧
      (10000000 ≤ nanoSpan t s.tick → stands → exec (.portWaitTimeout id) s = .next (s.dropPacket k.id)) ∧
      (nanoSpan t s.tick < 10000000 → exec (.portWaitTimeout id) s = .next s)) ∧
    (let carried : Prop := k.lost = false ∧ k.hop ≠ k.dst.site ∧ (k.ext = some true ∨ siteWaf k.src.site ≠ siteWaf k.dst.site)
     (carried → exec (.deliveryGiveUp id) s = .next (s.settlePacket k 5)) ∧
     (¬ carried → exec (.deliveryGiveUp id) s = .next s)) ∧
    (∀ t, k.heldAt = some t →
      (order ≠ 0 → 100000 ≤ nanoSpan t s.tick → exec (.versionHoldTimeout id) s = .next (s.settlePacket k 2)) ∧
      (order = 0 ∨ nanoSpan t s.tick < 100000 → exec (.versionHoldTimeout id) s = .next s)) ∧
    -- arrival
    (there → ∀ i ∈ (match k.kind with
        | .data _ | .reduce _ _ _ | .redirected _ | .chunk _ _ => [Instr.ppPacketArrival id]
        | .desc _ => [Instr.ppPacketArrival id, .collAccept id]
        | _ => []),
      (k.heldAt = none →
        (order = 1 → exec i s = .next (s.settlePacket k 1)) ∧
        (order = 2 → exec i s = .next (s.setPacket { k with heldAt := some s.tick }))) ∧
      (order ≠ 0 → k.heldAt ≠ none → exec i s = .next s) ∧
      (order = 0 → exec i s = .next (s.acceptPacket k))) ∧
    (there → ∀ a, k.kind = .abort a → exec (.ppPacketArrival id) s = .next (s.enterChan k)) ∧
    (there → ∀ i a, k.kind = .access i a →
      exec (.ppPacketArrival id) s = .next (if s.awaits i then s.standHome k else s.dropPacket k.id)) ∧
    (there → ∀ i a, k.kind = .answer i a → exec (.ppPacketArrival id) s = .next (s.dropPacket k.id)) ∧
    -- a negative acknowledgement names its reason and takes the packet away; a store that is lost is a posted failure
    (∀ nack q d, k.kind = .data d ∨ k.kind = .redirected d → k.req = some q →
      ∀ r dst, s.req q = some r → r.kind = .psend dst → r.resp = none →
        let u := s.settlePacket k nack
        u.mem = s.mem ∧ k ∉ u.packets ∧ (nack = 5 → u.packet id = none) ∧ (u.req q).map (·.resp) =
          some (some [.g dst (psendStatus nack (if nack = 0 then k.data.length else 0) k.isRedirected)])) ∧
    (∀ i pa x t, k.kind = .access i pa → s.store i = some x → s.locate x.t x.gen = some t →
      let u := s.settlePacket k 5
      let r := (s.th t).erec
      u.mem = s.mem ∧ (u.th t).erec = ⟨if r.count = 0 then x.va else r.va, r.count + 1⟩) ∧
    -- DONE_DELIVERY
    (∀ tag v q, k.kind = .done tag v → k.crossing = false → k.hop = k.dst.site → s.cleared k = true → k.req = some q →
      Leads (.doneDelivery id) s fun u => u.mem = s.mem ∧ u.packet id = none ∧
        ∀ r dst, s.req q = some r → (∀ x ∈ s.reqs, x.id = q → x = r) → r.kind = .psend dst → r.resp = none →
          let hit := s.reqs.any fun r => r.t.p.site == k.dst.site && r.tag == some tag && r.resp.isNone && (s.locate r.t r.gen).isSome
          (u.req q).map (·.resp) = some (some [.g dst (psendStatus 0 (if hit then 8 else 0) false)])) ∧
    -- CHUNK_SEND, COLL_ABORT
    (∀ (p : PId) (n : Nat) (c : Closing), ((s.proc p).closing.find? fun c => c.num == n && c.chunk) = some c →
      ∀ tile nbx nby d v, recordBound c.record = some (tile, nbx, nby) →
        let desc := s.dyingBytes p c.ctx (BitVec.ofNat 64 (fieldAt c.record 88 8)) 128
        let t := (s.proc p).tile tile
        let mine : Prop := t.st ≠ .empty ∧ t.band = ⟨c.num, c.epoch⟩ ∧ c.killed = false
        (mine → t.st = .filling → exec (.chunkSend p n) s = .next s) ∧
        (¬ (mine ∧ t.st = .filling) → desc = (none, v) → exec (.chunkSend p n) s = .next v) ∧
        (desc = (some (some d), v) →
        let x (i : Nat) : Nat := (c.coord.extractLsb' (16 * i) 16).toNat
        let sends (miss : Bool) (b : List Byte) : Prop :=
          let k : Packet := { (packetOf (.chunk ((x 0 + nbx * (x 1 + nby * x 2)) % 2 ^ 32) miss) c.ctx p 0
            ⟨p.site, 97 + fieldAt d 57 1⟩ (fieldAt d 58 1 % 64) b none (fieldAt d 4 1 / 16 % 4)) with
              id := v.nextId + 1, ver := (v.site p.site).active }
          Leads (.chunkSend p n) s fun u => u.mem = s.mem ∧ u.packets = (v.dropReads p c.ctx).packets ++ [k]
        (mine → t.st ≠ .filling → sends false
          (v.tileRead p tile (some t.band) 0 (min (fieldAt d 8 4 * (if fieldAt d 2 1 = 0 then 4 else 2)) (512 * t.size)))) ∧
        (¬ mine → sends true []))) ∧
    ∀ (q dst seq : Nat) (d : List Byte) (r : Req), s.req q = some r → r.kind = .coll dst seq d → r.resp = none →
      s.locate r.t r.gen = none →
      let accepted : Prop := (∀ x ∈ s.packets, x.req ≠ some q) ∧ descBad d = false
      let freed (u : State) : Prop := u.mem = s.mem ∧ u.req q = none ∧ ∀ x ∈ u.packets, x.req ≠ some q
      (¬ accepted → Leads (.collAbort q) s freed) ∧
      (accepted → ∀ v, s.ranks r.t.p r.ctx d = (none, v) → exec (.collAbort q) s = .next v) ∧
      (accepted → ∀ l v, s.ranks r.t.p r.ctx d = (some l, v) → Leads (.collAbort q) s fun u =>
        freed u ∧ ∀ p ∈ l, ∃ x ∈ u.packets, x.dst = p ∧ ∃ tag, x.kind = .abort tag)

/-- R110, R111, R297, R309, R373, R374 and R392: the truss across the wafer, and what comes from other wafers and from the host.
A release goes out once every participating core has arrived, and completes the phase at each core; a host access is admitted
by the host table and the alarm, sets out as a store of its connection, and is logged when no entry names it. MODEL'S CHOICES: CLASS 3
and OP above 13 are discarded, and an answer from another wafer goes to the oldest request that waits for it (log 30); what an atomic
and a multicast of another wafer leave is free (log 2); the check of the host's accesses, and the message of a ROD write (log 26). -/
def Obligations.TrussAndOutsideTurns : Prop :=
  ∀ s : State,
    (∀ ch : BitVec 4,
      let out := s.reticles.flatMap fun g => (List.range 96).map fun k => ((⟨g, k⟩ : PId), ch.toNat)
      (s.trussCores ch.toNat ≠ [] → (∀ x ∈ s.trel, x.2 ≠ ch.toNat) →
        (∀ p ∈ s.trussCores ch.toNat, (s.proc p).tarr.get false ch.toNat = true) →
        exec (.trussRelease ch) s = .next { s with trel := s.trel ++ out }) ∧
      ((∃ p ∈ s.trussCores ch.toNat, (s.proc p).tarr.get false ch.toNat = false) → exec (.trussRelease ch) s = .next s) ∧
      ∀ p : PId, ((p, ch.toNat) ∉ s.trel → exec (.trussReleaseArrival p ch) s = .next s) ∧
        ((p, ch.toNat) ∈ s.trel → Leads (.trussReleaseArrival p ch) s fun u => u.mem = s.mem ∧
          (u.proc p).tgen.get 0 ch.toNat = (s.proc p).tgen.get 0 ch.toNat + 1 ∧ (u.proc p).tarr.get false ch.toNat = false ∧
          u.trel = s.trel.erase (p, ch.toNat))) ∧
    (∀ (g : Nat) (uud : Bool) (h : BitVec 256) (b : List Byte),
      let pa := (h.extractLsb' 0 64).toNat
      let op := (h.extractLsb' 244 6).toNat
      let may (k : AccKind) : Prop := paSite pa = g ∧ b ≠ [] ∧ (paRegion pa b.length).isSome = true ∧
        s.windowOk (h.extractLsb' 185 6).toNat (h.extractLsb' 191 17).toNat (h.extractLsb' 146 16).toNat pa b.length k = true
      (s.sillUp g = false → exec (.extPacketReceive g uud h b) s = .next s) ∧
      (s.sillUp g = true → (uud = true ∨ badHeader h = true) → Leads (.extPacketReceive g uud h b) s fun u =>
        u.mem = s.mem ∧ u.packets = s.packets ∧ u.threads = s.threads) ∧
      (s.sillUp g = true → uud = false → badHeader h = false →
        (op = 0 → isControl pa = false → may .write →
          Leads (.extPacketReceive g uud h b) s fun u => u.mem = Memory.write s.mem pa b) ∧
        (op = 0 → ¬ may .write → Leads (.extPacketReceive g uud h b) s fun u =>
          u.mem = s.mem ∧ u.packets = s.packets ∧ u.threads = s.threads ∧ u.sites = s.sites) ∧
        (op = 3 → isControl pa = false → s.poisoned pa b.length = false → may .rmw →
          Leads (.extPacketReceive g uud h b) s fun u => ∃ c, c.length = b.length ∧ u.mem = Memory.write s.mem pa c) ∧
        (op = 6 → Leads (.extPacketReceive g uud h b) s fun u => u.mem = s.mem ∧ (u.stores = s.stores ∨
          ∃ (x : Store) (k : Packet), u.stores = s.stores ++ [x] ∧ x.data = b ∧ (∃ d, x.kind = .multi d) ∧
            (∀ a ∈ x.targets, siteWaf (paSite a) = siteWaf (g % 2 ^ 23) ∧ paLocal a = paLocal pa) ∧
            u.packets = s.packets ++ [k] ∧ k.kind = .multi x.id x.targets ∧ k.hop = g ∧ k.cls = 1)) ∧
        (let full : Nat := s.bufferFlits (sillIn g) 0
         op = 7 →
          (full = 0 ∨ full + (b.length + 159) / 128 ≤ 32 → Leads (.extPacketReceive g uud h b) s fun u =>
            u.mem = s.mem ∧ ∃ k : Packet, u.packets = s.packets ++ [k] ∧ k.data = b ∧ k.hop = g ∧ k.wire = some (sillIn g) ∧
              k.dst.site = (h.extractLsb' 168 17).toNat * 64 + (h.extractLsb' 162 6).toNat ∧
              k.dst.core = 97 + pa / 2 ^ 23 % 8 ∧ k.chan = pa / 2 ^ 26 % 64) ∧
          (full ≠ 0 → 32 < full + (b.length + 159) / 128 → Leads (.extPacketReceive g uud h b) s fun u =>
            u.mem = s.mem ∧ u.packets = s.packets)) ∧
        -- answers of other wafers
        (op = 2 → ∀ r x k acq, s.extWaiter g h = some r → s.req r.id = some r → r.kind = .load k acq → r.parts = [x] →
          x.got = none → x.n = b.length → k.isAtomic = false → Leads (.extPacketReceive g uud h b) s fun u =>
            u.mem = s.mem ∧ (u.req r.id).map (·.resp) = some (some (k.finish [b]))) ∧
        (op = 5 → ∀ x, s.extStore g h = some x → x.kind = .plain → isControl pa = false →
          Leads (.extPacketReceive g uud h b) s fun u => u.mem = Memory.write s.mem pa x.data ∧
            ∀ y ∈ u.stores, y.id = x.id → y.done = true ∧ y.rejected = false) ∧
        (op = 12 → ∀ x, s.extStore g h = some x → x.kind = .plain →
          Leads (.extPacketReceive g uud h b) s fun u => u.mem = s.mem ∧
            ∀ y ∈ u.stores, y.id = x.id → y.done = true ∧ y.rejected = true))) ∧
    ∀ (g job : Nat) (a : Word),
      let pa := a.toNat
      let sets (i : Instr) (ctx : Nat) (conn : TId) (d : List Byte) (kind : StoreKind) (rel : Option Nat) (msg : Nat) : Prop :=
        Leads i s fun u => u.mem = s.mem ∧ ∃ x : Store, u.stores = s.stores ++ [x] ∧ x.pa = pa ∧ x.data = d ∧ x.kind = kind ∧
          x.rel = rel ∧ x.ctx = ctx ∧ x.t = conn ∧ x.gen = msg ∧ x.done = false
      (∀ b : List Byte,
        (∀ ctx conn, s.hostCheck g job a b.length .write = .pass ctx conn → isControl pa = false → b ≠ [] →
          sets (.hostRdmaWrite g job a b) ctx conn b .plain none (job / 2 ^ 24)) ∧
        (s.hostCheck g job a b.length .write = .refused → exec (.hostRdmaWrite g job a b) s = .next s) ∧
        (s.hostCheck g job a b.length .write = .discard → exec (.hostRdmaWrite g job a b) s = .next (s.logHost g a))) ∧
      (∀ n, (s.hostCheck g job a n .read ≠ .discard → exec (.hostRdmaRead g job a n) s = .next s) ∧
        (s.hostCheck g job a n .read = .discard → exec (.hostRdmaRead g job a n) s = .next (s.logHost g a))) ∧
      ∀ (aop : BitVec 4) (w32 : Bool) (v : Word),
        let n := if w32 then 4 else 8
        (∀ ctx conn, s.hostCheck g job a n .rmw = .pass ctx conn → pa % n = 0 → isControl pa = false → aop.toNat ≤ 11 →
          sets (.hostRdmaAtomic g job a aop w32 v) ctx conn (toBytes n v.toNat) (.red aop.toNat w32) (some 3) 0) ∧
        (s.hostCheck g job a n .rmw = .refused → exec (.hostRdmaAtomic g job a aop w32 v) s = .next s) ∧
        (s.hostCheck g job a n .rmw = .discard → exec (.hostRdmaAtomic g job a aop w32 v) s = .next (s.logHost g a))

/-- R10, R23, R376, R377, R380 to R385: the device. Power comes and goes; a site boots, or fails; the alarm is armed, rings and ends
in OTP's choice; clocks follow current and heat; a hot site shuts down; rings lose their lock and monitors wear. MODEL'S CHOICES: the
framer's thread that a boot leaves READY at the firmware's first word (log 5); images and records as operands of the turn, the two
stages of a pool, the alarm that a late site joins, the kills of the alarm and the operands of the monitors (log 26). -/
def Obligations.DeviceTurns : Prop :=
  ∀ (s : State) (g : Nat),
    let q := s.site g
    let same (u : State) : Prop := u.mem = s.mem ∧ u.threads = s.threads
    let quiet : Tab Nat Site := s.sites.map fun x => (x.1, { x.2 with alarm := 0, alarmSrc := 0 })
    exec .powerOff s = .next
      { s with power := false, released := false, flights := [], stalled := [], stream := none, sites := quiet } ∧
    Leads .powerOnReset s (fun u => u.mem = [] ∧ u.threads = [] ∧ u.procs = [] ∧ u.power = true ∧ u.released = false ∧
      u.wafer = s.wafer ∧ ∀ p, u.cycles p = 0) ∧
    -- the alarm of a site that starts
    (let on (k : Nat) : Prop := ∃ x ∈ s.ownSites, (s.site x).alarm = k
     (q.alarm = 4 ∨ on 4 → s.armed g = 4) ∧ (q.alarm ≠ 4 → ¬ on 4 → on 2 ∨ on 3 → s.armed g = 2) ∧
     (q.alarm ≠ 4 → ¬ on 4 → ¬ on 2 → ¬ on 3 → s.armed g = 1)) ∧
    (∀ (record fw : Image) (sched : List (Nat × Nat × Image)) (pools : List (Nat × Image)),
      (s.power = false ∨ isCompute g = false ∨ (q.boot ≠ 0 ∧ q.boot ≠ 3) → exec (.bootStart g record fw sched pools) s = .next s) ∧
      (s.power = true → isCompute g = true → q.boot = 0 →
        (imageGood g 2 record = false ∨ q.keys = false ∨ imageGood g 0 fw = false →
          Leads (.bootStart g record fw sched pools) s fun u =>
            same u ∧ (u.site g).boot = 2 ∧ (u.site g).alarm = s.armed g) ∧
        (imageGood g 2 record = true → q.keys = true → imageGood g 0 fw = true →
          Leads (.bootStart g record fw sched []) s fun u =>
            u.mem = s.mem ∧ (u.site g).boot = 3 ∧ (u.site g).alarm = s.armed g ∧
            (u.site g).master = (g % 64 == masterSite) ∧
            (u.th ⟨⟨g, 96⟩, 0, 0⟩).st = .ready ∧ (u.th ⟨⟨g, 96⟩, 0, 0⟩).pc = Config.firmware g 0 &&& ~~~7)) ∧
      (s.power = true → isCompute g = true → q.boot = 3 →
        (∀ k slot i, k < 5 → slot < 16 → Leads (.bootStart g record fw [(k, slot, i)] pools) s fun u => same u ∧
          (imageGood g 1 i = true → slot ∈ (u.proc ⟨g, 97 + k⟩).fw) ∧ (imageGood g 1 i = false → u.procs = s.procs)) ∧
        ∀ x i, isCompute x = false → reporting x = g →
          ((s.site x).boot = 0 → Leads (.bootStart g record fw [] [(x, i)]) s fun u => same u ∧ (u.site x).boot = 1) ∧
          ((s.site x).boot = 1 → Leads (.bootStart g record fw [] [(x, i)]) s fun u => same u ∧
            (u.site x).boot = if imageGood x 2 i then 3 else 2))) ∧
    ((∃ x ∈ s.ownSites, (s.site x).master = true) → (∀ x ∈ s.ownSites, s.accounted x = true) →
      exec .waferRelease s = .next { s with released := true }) ∧
    ((∃ x ∈ s.ownSites, s.accounted x = false) → exec .waferRelease s = .next s) ∧
    (∀ sensor,
      (2 < sensor → exec (.alarmSensor g sensor) s = .next s) ∧
      (sensor ≤ 2 → Leads (.alarmSensor g sensor) s fun u => same u ∧
        (∀ x ∈ s.ownSites, (s.site x).alarm = 1 → (u.site x).alarm = 2) ∧
        (∀ x, (s.site x).alarm ≠ 1 → (u.site x).alarm = (s.site x).alarm) ∧
        (u.site g).alarmSrc = if q.alarm = 4 then q.alarmSrc else q.alarmSrc ||| 1#3 <<< sensor)) ∧
    (q.alarm = 2 → g ∈ s.ownSites → Leads .alarmContextsKilled s fun u => u.mem = s.mem ∧
      (u.site g).alarm = if Config.otpErase then 3 else 4) ∧
    (q.alarm = 3 → g ∈ s.ownSites → Leads .keyEraseDone s fun u => same u ∧ (u.site g).alarm = 4 ∧
      ∀ x ∈ s.ownSites, (u.site x).keys = false) ∧
    (∀ vin iout vcore pwr, Leads (.telemetryUpdate g vin iout vcore pwr) s fun u => same u ∧ (u.site g).vin = vin % 2 ^ 16 ∧
      (u.site g).iout = iout % 2 ^ 16 ∧ (u.site g).vcore = vcore % 2 ^ 12 ∧ (u.site g).pwr = pwr % 2 ^ 19 ∧
      (u.site g).below = if 100 * (iout % 2 ^ 16) < 95 * q.ilim then some (q.below.getD s.tick) else none) ∧
    (q.ilim < q.iout → exec (.clockStepDown g) s = .next ((s.setSite g { q with
      mhz := max 800 (q.mhz - 100), lim := true }).logErr g 11 1 0 127 0 0 (g % 64) 0 1 q.iout)) ∧
    (q.iout ≤ q.ilim → (q.therm.any fun t => t.2.hot 100) = true →
      exec (.clockStepDown g) s = .next (s.setSite g { q with mhz := max 800 (q.mhz - 100) })) ∧
    (∀ t, q.below = some t →
      (100000 ≤ nanoSpan t s.tick → (q.therm.any fun t => t.2.hot 100) = false →
        exec (.clockStepUp g) s = .next (s.setSite g { q with mhz := min 1600 (q.mhz + 100) })) ∧
      (nanoSpan t s.tick < 100000 → exec (.clockStepUp g) s = .next s)) ∧
    (q.below = none → exec (.clockStepUp g) s = .next s) ∧
    (∀ (k : Nat) (t : BitVec 16), k < (if isCompute g then 16 else 4) →
      let old := q.therm.get ⟨false, 0, 0⟩ k
      let peak := if old.valid = false ∨ old.peak.toInt < t.toInt then t else old.peak
      Leads (.thermalUpdate g k t) s fun u => u.mem = s.mem ∧ (u.site g).therm.get ⟨false, 0, 0⟩ k = ⟨true, peak, t⟩ ∧
        (t.toInt < 1600 → (u.site g).mhz = q.mhz ∧ (u.site g).off = q.off) ∧
        (1600 ≤ t.toInt → (u.site g).mhz = max 800 (q.mhz - 100)) ∧ (1760 ≤ t.toInt → (u.site g).off = true)) ∧
    (∀ k, k < 16 →
      Leads (.ringLockLoss g k) s (fun u => same u ∧ ((u.site g).rings.get ⟨false, false, 0, 0, 0⟩ k).lock = false) ∧
      Leads (.ringLockRegain g k) s fun u => same u ∧ ((u.site g).rings.get ⟨false, false, 0, 0, 0⟩ k).lock = true) ∧
    ∀ (m months limit : Nat) (v : BitVec 32), m ≤ 3 → limit ≤ 3 → Leads (.wearSample g m v (months, limit)) s fun u => same u ∧
      (u.site g).eol = BitVec.ofNat 64 (limit * 256 + min months 255) ∧ (u.site g).wear.find m =
        some (v ++ (match q.wear.find m with | some w => w.extractLsb' 0 32 | none => v))

/-! The machine as a whole. -/

/-- R23, R42 and R188: reset. Every slot is free, no band exists, rejoin registers read zero, the sequencers are unbound, the tiles
empty; every byte reads zero (of framer SRAM that is the model's choice, log 3) in the canonical form that every step keeps;
nothing is in flight, the power is there (log 5) and nothing has been released. -/
def Obligations.ResetState : Prop :=
  let s := State.reset
  s.canonical ∧ (∀ a n, Memory.read s.mem a n = List.replicate n 0) ∧ (∀ a n, s.poisoned a n = false) ∧
  (∀ t, (s.th t).st = .free ∧ (s.th t).band = none ∧ (∀ n, (s.th t).g n = 0) ∧ ∀ n, n < 8 → (s.th t).sbOf n = 0) ∧
  (∀ p n, (s.proc p).bands.find n = none) ∧ (∀ p row j, (s.proc p).rejoin row j = (0, 0)) ∧
  (∀ p, (s.proc p).seq.st = .unbound) ∧ (∀ p n, ((s.proc p).tile n).st = .empty) ∧
  (∀ p row, (s.proc p).lls.get 0 row = 0) ∧ (∀ p ch, (s.proc p).tgen.get 0 ch = 0 ∧ (s.proc p).tarr.get false ch = false) ∧
  (∀ g k, ((s.site g).norm k).v = 0) ∧ (∀ g row k, ((s.site g).windows.get ⟨0, 0⟩ (row, k)).valid = false) ∧
  (∀ g x, ((s.site g).ctx x).st = 0) ∧
  s.flights = [] ∧ s.stream = none ∧ s.packets = [] ∧ s.stores = [] ∧ s.ops = [] ∧ s.reqs = [] ∧
  s.power = true ∧ s.released = false

/-- Every step keeps memory in its one canonical form, addresses rising and no zero listed, from whatever state (the form is
the model's own; R188 gives the zero that an unlisted byte reads as). -/
def Obligations.StepKeepsMemoryCanonical : Prop :=
  ∀ s t : State, s.canonical → step s = .next t → t.canonical

/-- R28, R29, R45 to R52, R54 to R58: the encoding loses nothing. Every well-formed instruction has one word, which decodes to
it with every operand at its value; a word that decodes is the word of a well-formed instruction; a header word likewise.
SLOTW's five operations share one word, which decodes to the bind; its record decides which it is, so the four others are left out here
(log 13). -/
def Obligations.EncodeDecodeAgree : Prop :=
  (∀ i : Instr, i.wellFormed = true → (∀ b, i ≠ .slotwStop b ∧ i ≠ .slotwRelease b ∧ i ≠ .slotwKill b ∧ i ≠ .slotwSet b) →
    ∃ w, encode i = some w ∧ decodeAs i w = some i) ∧
  (∀ (p : Pipe) (w : Word) (i : Instr), decodeWord p w = .ok i → i.wellFormed = true ∧ encode i = some w) ∧
  (∀ (w : Word) (i : Instr), decodeX w = .ok i → i.wellFormed = true ∧ encode i = some w) ∧
  (∀ h : Header, decodeHeader h.encode = .ok h) ∧
  ∀ (w : Word) (h : Header), decodeHeader w = .ok h → h.encode = w

/-- R116, R133, R213 and R347: the words written out from the encoding tables decode to the instructions they stand for, and the
plain header of R116 to a clause of one S-pipe word. -/
def Obligations.DecodedWords : Prop :=
  let r (n : BitVec 6) : Src := .reg n
  decodeHeader 0xA000000000000000 = .ok ⟨.s, 0, 0, false, false⟩ ∧
  decodeWord .s 0x4574424000000309 = .ok (.shr ⟨false, 7, 17, false, r 9, r 0, r 0⟩ ⟨0, 3, 0, true, false, false, true⟩) ∧
  decodeWord .s 0x5070820480000022 = .ok (.icmp ⟨false, 7, 2, false, r 8, r 9, r 0⟩ ⟨0, 0, 2, false, false, true, false⟩) ∧
  decodeWord .s 0x677042805FFFFFFB = .ok (.icmpImm ⟨false, 7, 1, false, r 10, 0x5FFFFFFB⟩) ∧
  decodeWord .s 0x05700240FFFFFFFD = .ok (.brc ⟨false, 7, r 9, 0xFFFFFFFD⟩) ∧
  decodeWord .s 0x1975000000000023 = .ok (.bara ⟨false, 7, 20, false, r 0, r 0, r 0⟩ 3 true 0) ∧
  decodeWord .m 0x0674020048900040 = .ok (.ld64 ⟨false, 7, 16, r 8, r 0, 2, 1, false, false, true, 1, 0x40⟩) ∧
  decodeWord .m 0x12700248B0000008 = .ok (.st32 ⟨false, 7, 0, r 9, r 17, 1, 2, false, false, false, 0, 8⟩) ∧
  decodeWord .m 0x2175030680A00000 = .ok (.atom ⟨false, 7, 20, r 12, r 13, 0, 0, false, false, true, 2, 0⟩) ∧
  decodeWord .m 0x2470000000000008 = .ok (.fence ⟨false, 7, 0, r 0, r 0, r 0, false, 0⟩ 2 0) ∧
  decodeWord .y 0x0272400000000024 = .ok (.gets ⟨false, 7, 9, false, r 0, r 0, r 0⟩ 36) ∧
  decodeWord .y 0x0370020000000024 = .ok (.sets ⟨false, 7, 0, false, r 8, r 0, r 0⟩ 36) ∧
  decodeWord .y 0x2375000000000000 = .ok (.waitev ⟨false, 7, 20, false, r 0, r 0, r 0⟩)

/-- R35, R91, R265: a step takes the turn that stands first on the agenda (log 1); else it runs the stream word a sequencer has fetched;
else the next word of the clause in flight at the head, or its commit when no word is left. A word that decodes runs as the
instruction it stands for, where SLOTW's record says which of the five (log 13). -/
def Obligations.StepRunsDecodedInstruction : Prop :=
  ∀ s : State,
    (∀ i rest, s.agenda = .event i :: rest → step s = exec i { s with agenda := rest }) ∧
    (∀ p rest, s.agenda = .stream p :: rest → step s = .next (({ s with agenda := rest } : State).fetchStream p)) ∧
    (s.agenda = [] → s.power = true →
      (∀ p w i, s.stream = some (p, w) → decodeX w = .ok i → step s = exec i s) ∧
      (∀ p w, s.stream = some (p, w) → decodeX w = .error .illegalOpcode → step s = exec (.streamWordFault p 1) s) ∧
      (∀ p w e, s.stream = some (p, w) → decodeX w = .error e → e ≠ .illegalOpcode → step s = exec (.streamWordFault p 2) s) ∧
      (∀ f rest, s.stream = none → s.flights = f :: rest →
        (∀ w i, f.words[f.idx]? = some w → decodeWord f.hdr.pipe w = .ok i →
          (∀ b, i ≠ .slotwBind b) → step s = exec i s) ∧
        (∀ w b, f.words[f.idx]? = some w → decodeWord f.hdr.pipe w = .ok (.slotwBind b) → step s = exec (match s.slotwOp b with
          | some 1 => .slotwStop b
          | some 2 => .slotwRelease b
          | some 3 => .slotwKill b
          | some 4 => .slotwSet b
          | _ => .slotwBind b) s) ∧
        (f.words[f.idx]? = none → step s = exec .clauseCommit s)) ∧
      (s.stream = none → s.flights = [] → step s = .next s.turn))

/-- R377 and R380: the one stop. Every instruction and every turn answers a next state in every state; a step stops only while
the power is off and nothing stands on the agenda, and it refuses nothing. -/
def Obligations.OnlyPowerLossStops : Prop :=
  (∀ (i : Instr) (s : State), ∃ t : State, exec i s = .next t) ∧
  ∀ s : State, (s.agenda = [] ∧ s.power = false → step s = .fault .poweredOff) ∧ (s.agenda ≠ [] ∨ s.power = true → s.safe)

/-- R42: g0 reads zero and discards writes, p7 reads true and is not writable; each other register reads what was last
written to it, and a write reaches no other register. -/
def Obligations.RegisterFileRules : Prop :=
  ∀ t : Thread,
    t.g 0 = 0 ∧ (∀ v, t.setG 0 v = t) ∧ t.p 7 = true ∧ (∀ v, t.setP 7 v = t) ∧
    (∀ (n k : Nat) (v : Word), n < 32 → (t.setG n v).g k = if k = n ∧ n ≠ 0 then v else t.g k) ∧
    (∀ (n k : Nat) (v : Bool), n < 7 → (t.setP n v).p k = if k = n then v else t.p k) ∧
    (∀ (n k : Nat) (v : Gran), n < 16 → (t.setW n v).w k = if k = n then v else t.w k) ∧
    (∀ (n k : Nat) (v : Word), n < 8 → (t.setM n v).m k = if k = n then v else t.m k) ∧
    ∀ (n : Nat) (v : Word), (t.setG n v).pr = t.pr ∧ (t.setG n v).wr = t.wr ∧ (t.setG n v).mr = t.mr ∧ (t.setG n v).pc = t.pc ∧
      (t.setG n v).fcsr = t.fcsr ∧ (t.setG n v).tst = t.tst ∧ (t.setG n v).sb = t.sb ∧ (t.setG n v).frames = t.frames
end

