-- ==== Sys2Proof/Laws/State.lean ====
section
/-! SUPPORT. What the updates of the state leave unchanged and what they write: one lemma per field and update, and the
reads of a table, a thread, a processor and a site after a write. -/
namespace Sys2Proof

/-! Tables. -/

theorem Tab.get_drop_self {α β : Type} [DecidableEq α] (d : β) (t : Tab α β) (k : α) : (t.drop k).get d k = d := by
  induction t with
  | nil => rfl
  | cons x t ih =>
    obtain ⟨a, v⟩ := x
    by_cases h : k = a <;> simp [Tab.drop, Tab.get, h] <;> simp_all

theorem Tab.get_drop_ne {α β : Type} [DecidableEq α] (d : β) (t : Tab α β) (k j : α) (h : j ≠ k) :
    (t.drop k).get d j = t.get d j := by
  induction t with
  | nil => rfl
  | cons x t ih =>
    obtain ⟨a, v⟩ := x
    by_cases h1 : k = a
    · subst h1; simp [Tab.drop, Tab.get, h, ih]
    · by_cases h2 : j = a <;> simp [Tab.drop, Tab.get, h1, h2, ih]

@[simp] theorem Tab.get_put_self {α β : Type} [DecidableEq α] (d : β) (t : Tab α β) (k : α) (v : β) :
    (t.put k v).get d k = v := by simp [Tab.put, Tab.get]

theorem Tab.get_put_ne {α β : Type} [DecidableEq α] (d : β) (t : Tab α β) (k j : α) (v : β) (h : j ≠ k) :
    (t.put k v).get d j = t.get d j := by simp [Tab.put, Tab.get, h, Tab.get_drop_ne]

theorem Tab.get_put {α β : Type} [DecidableEq α] (d : β) (t : Tab α β) (k j : α) (v : β) :
    (t.put k v).get d j = if j = k then v else t.get d j := by
  split
  · next h => rw [h, Tab.get_put_self]
  · next h => exact Tab.get_put_ne d t k j v h

theorem Tab.find_drop_self {α β : Type} [DecidableEq α] (t : Tab α β) (k : α) : (t.drop k).find k = none := by
  induction t with
  | nil => rfl
  | cons x t ih =>
    obtain ⟨a, v⟩ := x
    by_cases h : k = a <;> simp [Tab.drop, Tab.find, h] <;> simp_all

theorem Tab.get_map {α β : Type} [DecidableEq α] (d : β) (g : β → β) (hd : g d = d) (t : Tab α β) (k : α) :
    Tab.get d (t.map fun e => (e.1, g e.2)) k = g (t.get d k) := by
  induction t with
  | nil => exact hd.symm
  | cons x t ih =>
    obtain ⟨a, v⟩ := x
    by_cases h : k = a <;> simp [Tab.get, h, ih]

end Sys2Proof

namespace Sys2Proof.Machine

/-! Threads, processors and sites read back. -/

@[simp] theorem State.th_setTh (s : State) (t : TId) (v : Thread) : (s.setTh t v).th t = v := Tab.get_put_self _ _ _ _
theorem State.th_setTh_ne (s : State) (t u : TId) (v : Thread) (h : u ≠ t) : (s.setTh t v).th u = s.th u :=
  Tab.get_put_ne _ _ _ _ _ h
@[simp] theorem State.th_modTh (s : State) (t : TId) (f : Thread → Thread) : (s.modTh t f).th t = f (s.th t) :=
  Tab.get_put_self _ _ _ _
theorem State.th_modTh_ne (s : State) (t u : TId) (f : Thread → Thread) (h : u ≠ t) : (s.modTh t f).th u = s.th u :=
  Tab.get_put_ne _ _ _ _ _ h
@[simp] theorem State.proc_setProc (s : State) (p : PId) (v : Proc) : (s.setProc p v).proc p = v := Tab.get_put_self _ _ _ _
theorem State.proc_setProc_ne (s : State) (p q : PId) (v : Proc) (h : q ≠ p) : (s.setProc p v).proc q = s.proc q :=
  Tab.get_put_ne _ _ _ _ _ h
@[simp] theorem State.proc_modProc (s : State) (p : PId) (f : Proc → Proc) : (s.modProc p f).proc p = f (s.proc p) :=
  Tab.get_put_self _ _ _ _
theorem State.proc_modProc_ne (s : State) (p q : PId) (f : Proc → Proc) (h : q ≠ p) : (s.modProc p f).proc q = s.proc q :=
  Tab.get_put_ne _ _ _ _ _ h
@[simp] theorem State.site_setSite (s : State) (g : Nat) (v : Site) : (s.setSite g v).site g = v := Tab.get_put_self _ _ _ _
theorem State.site_setSite_ne (s : State) (g k : Nat) (v : Site) (h : k ≠ g) : (s.setSite g v).site k = s.site k :=
  Tab.get_put_ne _ _ _ _ _ h
@[simp] theorem State.site_modSite (s : State) (g : Nat) (f : Site → Site) : (s.modSite g f).site g = f (s.site g) :=
  Tab.get_put_self _ _ _ _
theorem State.site_modSite_ne (s : State) (g k : Nat) (f : Site → Site) (h : k ≠ g) : (s.modSite g f).site k = s.site k :=
  Tab.get_put_ne _ _ _ _ _ h
@[simp] theorem State.proc_setTh (s : State) (t : TId) (v : Thread) (p : PId) : (s.setTh t v).proc p = s.proc p := rfl
@[simp] theorem State.site_setTh (s : State) (t : TId) (v : Thread) (g : Nat) : (s.setTh t v).site g = s.site g := rfl
@[simp] theorem State.proc_modTh (s : State) (t : TId) (f : Thread → Thread) (p : PId) : (s.modTh t f).proc p = s.proc p := rfl
@[simp] theorem State.site_modTh (s : State) (t : TId) (f : Thread → Thread) (g : Nat) : (s.modTh t f).site g = s.site g := rfl
@[simp] theorem State.th_setProc (s : State) (p : PId) (v : Proc) (t : TId) : (s.setProc p v).th t = s.th t := rfl
@[simp] theorem State.site_setProc (s : State) (p : PId) (v : Proc) (g : Nat) : (s.setProc p v).site g = s.site g := rfl
@[simp] theorem State.th_modProc (s : State) (p : PId) (f : Proc → Proc) (t : TId) : (s.modProc p f).th t = s.th t := rfl
@[simp] theorem State.site_modProc (s : State) (p : PId) (f : Proc → Proc) (g : Nat) : (s.modProc p f).site g = s.site g := rfl
@[simp] theorem State.th_setSite (s : State) (g : Nat) (v : Site) (t : TId) : (s.setSite g v).th t = s.th t := rfl
@[simp] theorem State.proc_setSite (s : State) (g : Nat) (v : Site) (p : PId) : (s.setSite g v).proc p = s.proc p := rfl
@[simp] theorem State.th_modSite (s : State) (g : Nat) (f : Site → Site) (t : TId) : (s.modSite g f).th t = s.th t := rfl
@[simp] theorem State.proc_modSite (s : State) (g : Nat) (f : Site → Site) (p : PId) : (s.modSite g f).proc p = s.proc p := rfl
@[simp] theorem State.th_fresh (s : State) (t : TId) : (s.fresh.2).th t = s.th t := rfl
@[simp] theorem State.proc_fresh (s : State) (p : PId) : (s.fresh.2).proc p = s.proc p := rfl
@[simp] theorem State.site_fresh (s : State) (g : Nat) : (s.fresh.2).site g = s.site g := rfl
@[simp] theorem State.th_draw (s : State) (t : TId) : (s.draw.2).th t = s.th t := rfl
@[simp] theorem State.proc_draw (s : State) (p : PId) : (s.draw.2).proc p = s.proc p := rfl
@[simp] theorem State.site_draw (s : State) (g : Nat) : (s.draw.2).site g = s.site g := rfl
@[simp] theorem State.th_bump (s : State) (t : TId) : (s.bump).th t = s.th t := rfl
@[simp] theorem State.proc_bump (s : State) (p : PId) : (s.bump).proc p = s.proc p := rfl
@[simp] theorem State.site_bump (s : State) (g : Nat) : (s.bump).site g = s.site g := rfl

/-! Fields that an update leaves alone. -/

@[simp] theorem State.setTh_mem (s : State) (t : TId) (v : Thread) : (s.setTh t v).mem = s.mem := rfl
@[simp] theorem State.setTh_poison (s : State) (t : TId) (v : Thread) : (s.setTh t v).poison = s.poison := rfl
@[simp] theorem State.setTh_wafer (s : State) (t : TId) (v : Thread) : (s.setTh t v).wafer = s.wafer := rfl
@[simp] theorem State.setTh_power (s : State) (t : TId) (v : Thread) : (s.setTh t v).power = s.power := rfl
@[simp] theorem State.setTh_released (s : State) (t : TId) (v : Thread) : (s.setTh t v).released = s.released := rfl
@[simp] theorem State.setTh_tick (s : State) (t : TId) (v : Thread) : (s.setTh t v).tick = s.tick := rfl
@[simp] theorem State.setTh_nextId (s : State) (t : TId) (v : Thread) : (s.setTh t v).nextId = s.nextId := rfl
@[simp] theorem State.setTh_freeCtr (s : State) (t : TId) (v : Thread) : (s.setTh t v).freeCtr = s.freeCtr := rfl
@[simp] theorem State.setTh_timeBase (s : State) (t : TId) (v : Thread) : (s.setTh t v).timeBase = s.timeBase := rfl
@[simp] theorem State.setTh_clkBase (s : State) (t : TId) (v : Thread) : (s.setTh t v).clkBase = s.clkBase := rfl
@[simp] theorem State.setTh_agenda (s : State) (t : TId) (v : Thread) : (s.setTh t v).agenda = s.agenda := rfl
@[simp] theorem State.setTh_flights (s : State) (t : TId) (v : Thread) : (s.setTh t v).flights = s.flights := rfl
@[simp] theorem State.setTh_stalled (s : State) (t : TId) (v : Thread) : (s.setTh t v).stalled = s.stalled := rfl
@[simp] theorem State.setTh_stream (s : State) (t : TId) (v : Thread) : (s.setTh t v).stream = s.stream := rfl
@[simp] theorem State.setTh_sites (s : State) (t : TId) (v : Thread) : (s.setTh t v).sites = s.sites := rfl
@[simp] theorem State.setTh_procs (s : State) (t : TId) (v : Thread) : (s.setTh t v).procs = s.procs := rfl
@[simp] theorem State.setTh_reqs (s : State) (t : TId) (v : Thread) : (s.setTh t v).reqs = s.reqs := rfl
@[simp] theorem State.setTh_stores (s : State) (t : TId) (v : Thread) : (s.setTh t v).stores = s.stores := rfl
@[simp] theorem State.setTh_ops (s : State) (t : TId) (v : Thread) : (s.setTh t v).ops = s.ops := rfl
@[simp] theorem State.setTh_packets (s : State) (t : TId) (v : Thread) : (s.setTh t v).packets = s.packets := rfl
@[simp] theorem State.setTh_trel (s : State) (t : TId) (v : Thread) : (s.setTh t v).trel = s.trel := rfl

@[simp] theorem State.modTh_mem (s : State) (t : TId) (f : Thread → Thread) : (s.modTh t f).mem = s.mem := rfl
@[simp] theorem State.modTh_poison (s : State) (t : TId) (f : Thread → Thread) : (s.modTh t f).poison = s.poison := rfl
@[simp] theorem State.modTh_wafer (s : State) (t : TId) (f : Thread → Thread) : (s.modTh t f).wafer = s.wafer := rfl
@[simp] theorem State.modTh_power (s : State) (t : TId) (f : Thread → Thread) : (s.modTh t f).power = s.power := rfl
@[simp] theorem State.modTh_released (s : State) (t : TId) (f : Thread → Thread) : (s.modTh t f).released = s.released := rfl
@[simp] theorem State.modTh_tick (s : State) (t : TId) (f : Thread → Thread) : (s.modTh t f).tick = s.tick := rfl
@[simp] theorem State.modTh_nextId (s : State) (t : TId) (f : Thread → Thread) : (s.modTh t f).nextId = s.nextId := rfl
@[simp] theorem State.modTh_freeCtr (s : State) (t : TId) (f : Thread → Thread) : (s.modTh t f).freeCtr = s.freeCtr := rfl
@[simp] theorem State.modTh_timeBase (s : State) (t : TId) (f : Thread → Thread) : (s.modTh t f).timeBase = s.timeBase := rfl
@[simp] theorem State.modTh_clkBase (s : State) (t : TId) (f : Thread → Thread) : (s.modTh t f).clkBase = s.clkBase := rfl
@[simp] theorem State.modTh_agenda (s : State) (t : TId) (f : Thread → Thread) : (s.modTh t f).agenda = s.agenda := rfl
@[simp] theorem State.modTh_flights (s : State) (t : TId) (f : Thread → Thread) : (s.modTh t f).flights = s.flights := rfl
@[simp] theorem State.modTh_stalled (s : State) (t : TId) (f : Thread → Thread) : (s.modTh t f).stalled = s.stalled := rfl
@[simp] theorem State.modTh_stream (s : State) (t : TId) (f : Thread → Thread) : (s.modTh t f).stream = s.stream := rfl
@[simp] theorem State.modTh_sites (s : State) (t : TId) (f : Thread → Thread) : (s.modTh t f).sites = s.sites := rfl
@[simp] theorem State.modTh_procs (s : State) (t : TId) (f : Thread → Thread) : (s.modTh t f).procs = s.procs := rfl
@[simp] theorem State.modTh_reqs (s : State) (t : TId) (f : Thread → Thread) : (s.modTh t f).reqs = s.reqs := rfl
@[simp] theorem State.modTh_stores (s : State) (t : TId) (f : Thread → Thread) : (s.modTh t f).stores = s.stores := rfl
@[simp] theorem State.modTh_ops (s : State) (t : TId) (f : Thread → Thread) : (s.modTh t f).ops = s.ops := rfl
@[simp] theorem State.modTh_packets (s : State) (t : TId) (f : Thread → Thread) : (s.modTh t f).packets = s.packets := rfl
@[simp] theorem State.modTh_trel (s : State) (t : TId) (f : Thread → Thread) : (s.modTh t f).trel = s.trel := rfl

@[simp] theorem State.setProc_mem (s : State) (p : PId) (v : Proc) : (s.setProc p v).mem = s.mem := rfl
@[simp] theorem State.setProc_poison (s : State) (p : PId) (v : Proc) : (s.setProc p v).poison = s.poison := rfl
@[simp] theorem State.setProc_wafer (s : State) (p : PId) (v : Proc) : (s.setProc p v).wafer = s.wafer := rfl
@[simp] theorem State.setProc_power (s : State) (p : PId) (v : Proc) : (s.setProc p v).power = s.power := rfl
@[simp] theorem State.setProc_released (s : State) (p : PId) (v : Proc) : (s.setProc p v).released = s.released := rfl
@[simp] theorem State.setProc_tick (s : State) (p : PId) (v : Proc) : (s.setProc p v).tick = s.tick := rfl
@[simp] theorem State.setProc_nextId (s : State) (p : PId) (v : Proc) : (s.setProc p v).nextId = s.nextId := rfl
@[simp] theorem State.setProc_freeCtr (s : State) (p : PId) (v : Proc) : (s.setProc p v).freeCtr = s.freeCtr := rfl
@[simp] theorem State.setProc_timeBase (s : State) (p : PId) (v : Proc) : (s.setProc p v).timeBase = s.timeBase := rfl
@[simp] theorem State.setProc_clkBase (s : State) (p : PId) (v : Proc) : (s.setProc p v).clkBase = s.clkBase := rfl
@[simp] theorem State.setProc_agenda (s : State) (p : PId) (v : Proc) : (s.setProc p v).agenda = s.agenda := rfl
@[simp] theorem State.setProc_flights (s : State) (p : PId) (v : Proc) : (s.setProc p v).flights = s.flights := rfl
@[simp] theorem State.setProc_stalled (s : State) (p : PId) (v : Proc) : (s.setProc p v).stalled = s.stalled := rfl
@[simp] theorem State.setProc_stream (s : State) (p : PId) (v : Proc) : (s.setProc p v).stream = s.stream := rfl
@[simp] theorem State.setProc_sites (s : State) (p : PId) (v : Proc) : (s.setProc p v).sites = s.sites := rfl
@[simp] theorem State.setProc_threads (s : State) (p : PId) (v : Proc) : (s.setProc p v).threads = s.threads := rfl
@[simp] theorem State.setProc_reqs (s : State) (p : PId) (v : Proc) : (s.setProc p v).reqs = s.reqs := rfl
@[simp] theorem State.setProc_stores (s : State) (p : PId) (v : Proc) : (s.setProc p v).stores = s.stores := rfl
@[simp] theorem State.setProc_ops (s : State) (p : PId) (v : Proc) : (s.setProc p v).ops = s.ops := rfl
@[simp] theorem State.setProc_packets (s : State) (p : PId) (v : Proc) : (s.setProc p v).packets = s.packets := rfl
@[simp] theorem State.setProc_trel (s : State) (p : PId) (v : Proc) : (s.setProc p v).trel = s.trel := rfl

@[simp] theorem State.modProc_mem (s : State) (p : PId) (f : Proc → Proc) : (s.modProc p f).mem = s.mem := rfl
@[simp] theorem State.modProc_poison (s : State) (p : PId) (f : Proc → Proc) : (s.modProc p f).poison = s.poison := rfl
@[simp] theorem State.modProc_wafer (s : State) (p : PId) (f : Proc → Proc) : (s.modProc p f).wafer = s.wafer := rfl
@[simp] theorem State.modProc_power (s : State) (p : PId) (f : Proc → Proc) : (s.modProc p f).power = s.power := rfl
@[simp] theorem State.modProc_released (s : State) (p : PId) (f : Proc → Proc) : (s.modProc p f).released = s.released := rfl
@[simp] theorem State.modProc_tick (s : State) (p : PId) (f : Proc → Proc) : (s.modProc p f).tick = s.tick := rfl
@[simp] theorem State.modProc_nextId (s : State) (p : PId) (f : Proc → Proc) : (s.modProc p f).nextId = s.nextId := rfl
@[simp] theorem State.modProc_freeCtr (s : State) (p : PId) (f : Proc → Proc) : (s.modProc p f).freeCtr = s.freeCtr := rfl
@[simp] theorem State.modProc_timeBase (s : State) (p : PId) (f : Proc → Proc) : (s.modProc p f).timeBase = s.timeBase := rfl
@[simp] theorem State.modProc_clkBase (s : State) (p : PId) (f : Proc → Proc) : (s.modProc p f).clkBase = s.clkBase := rfl
@[simp] theorem State.modProc_agenda (s : State) (p : PId) (f : Proc → Proc) : (s.modProc p f).agenda = s.agenda := rfl
@[simp] theorem State.modProc_flights (s : State) (p : PId) (f : Proc → Proc) : (s.modProc p f).flights = s.flights := rfl
@[simp] theorem State.modProc_stalled (s : State) (p : PId) (f : Proc → Proc) : (s.modProc p f).stalled = s.stalled := rfl
@[simp] theorem State.modProc_stream (s : State) (p : PId) (f : Proc → Proc) : (s.modProc p f).stream = s.stream := rfl
@[simp] theorem State.modProc_sites (s : State) (p : PId) (f : Proc → Proc) : (s.modProc p f).sites = s.sites := rfl
@[simp] theorem State.modProc_threads (s : State) (p : PId) (f : Proc → Proc) : (s.modProc p f).threads = s.threads := rfl
@[simp] theorem State.modProc_reqs (s : State) (p : PId) (f : Proc → Proc) : (s.modProc p f).reqs = s.reqs := rfl
@[simp] theorem State.modProc_stores (s : State) (p : PId) (f : Proc → Proc) : (s.modProc p f).stores = s.stores := rfl
@[simp] theorem State.modProc_ops (s : State) (p : PId) (f : Proc → Proc) : (s.modProc p f).ops = s.ops := rfl
@[simp] theorem State.modProc_packets (s : State) (p : PId) (f : Proc → Proc) : (s.modProc p f).packets = s.packets := rfl
@[simp] theorem State.modProc_trel (s : State) (p : PId) (f : Proc → Proc) : (s.modProc p f).trel = s.trel := rfl

@[simp] theorem State.setSite_mem (s : State) (g : Nat) (v : Site) : (s.setSite g v).mem = s.mem := rfl
@[simp] theorem State.setSite_poison (s : State) (g : Nat) (v : Site) : (s.setSite g v).poison = s.poison := rfl
@[simp] theorem State.setSite_wafer (s : State) (g : Nat) (v : Site) : (s.setSite g v).wafer = s.wafer := rfl
@[simp] theorem State.setSite_power (s : State) (g : Nat) (v : Site) : (s.setSite g v).power = s.power := rfl
@[simp] theorem State.setSite_released (s : State) (g : Nat) (v : Site) : (s.setSite g v).released = s.released := rfl
@[simp] theorem State.setSite_tick (s : State) (g : Nat) (v : Site) : (s.setSite g v).tick = s.tick := rfl
@[simp] theorem State.setSite_nextId (s : State) (g : Nat) (v : Site) : (s.setSite g v).nextId = s.nextId := rfl
@[simp] theorem State.setSite_freeCtr (s : State) (g : Nat) (v : Site) : (s.setSite g v).freeCtr = s.freeCtr := rfl
@[simp] theorem State.setSite_timeBase (s : State) (g : Nat) (v : Site) : (s.setSite g v).timeBase = s.timeBase := rfl
@[simp] theorem State.setSite_clkBase (s : State) (g : Nat) (v : Site) : (s.setSite g v).clkBase = s.clkBase := rfl
@[simp] theorem State.setSite_agenda (s : State) (g : Nat) (v : Site) : (s.setSite g v).agenda = s.agenda := rfl
@[simp] theorem State.setSite_flights (s : State) (g : Nat) (v : Site) : (s.setSite g v).flights = s.flights := rfl
@[simp] theorem State.setSite_stalled (s : State) (g : Nat) (v : Site) : (s.setSite g v).stalled = s.stalled := rfl
@[simp] theorem State.setSite_stream (s : State) (g : Nat) (v : Site) : (s.setSite g v).stream = s.stream := rfl
@[simp] theorem State.setSite_procs (s : State) (g : Nat) (v : Site) : (s.setSite g v).procs = s.procs := rfl
@[simp] theorem State.setSite_threads (s : State) (g : Nat) (v : Site) : (s.setSite g v).threads = s.threads := rfl
@[simp] theorem State.setSite_reqs (s : State) (g : Nat) (v : Site) : (s.setSite g v).reqs = s.reqs := rfl
@[simp] theorem State.setSite_stores (s : State) (g : Nat) (v : Site) : (s.setSite g v).stores = s.stores := rfl
@[simp] theorem State.setSite_ops (s : State) (g : Nat) (v : Site) : (s.setSite g v).ops = s.ops := rfl
@[simp] theorem State.setSite_packets (s : State) (g : Nat) (v : Site) : (s.setSite g v).packets = s.packets := rfl
@[simp] theorem State.setSite_trel (s : State) (g : Nat) (v : Site) : (s.setSite g v).trel = s.trel := rfl

@[simp] theorem State.modSite_mem (s : State) (g : Nat) (f : Site → Site) : (s.modSite g f).mem = s.mem := rfl
@[simp] theorem State.modSite_poison (s : State) (g : Nat) (f : Site → Site) : (s.modSite g f).poison = s.poison := rfl
@[simp] theorem State.modSite_wafer (s : State) (g : Nat) (f : Site → Site) : (s.modSite g f).wafer = s.wafer := rfl
@[simp] theorem State.modSite_power (s : State) (g : Nat) (f : Site → Site) : (s.modSite g f).power = s.power := rfl
@[simp] theorem State.modSite_released (s : State) (g : Nat) (f : Site → Site) : (s.modSite g f).released = s.released := rfl
@[simp] theorem State.modSite_tick (s : State) (g : Nat) (f : Site → Site) : (s.modSite g f).tick = s.tick := rfl
@[simp] theorem State.modSite_nextId (s : State) (g : Nat) (f : Site → Site) : (s.modSite g f).nextId = s.nextId := rfl
@[simp] theorem State.modSite_freeCtr (s : State) (g : Nat) (f : Site → Site) : (s.modSite g f).freeCtr = s.freeCtr := rfl
@[simp] theorem State.modSite_timeBase (s : State) (g : Nat) (f : Site → Site) : (s.modSite g f).timeBase = s.timeBase := rfl
@[simp] theorem State.modSite_clkBase (s : State) (g : Nat) (f : Site → Site) : (s.modSite g f).clkBase = s.clkBase := rfl
@[simp] theorem State.modSite_agenda (s : State) (g : Nat) (f : Site → Site) : (s.modSite g f).agenda = s.agenda := rfl
@[simp] theorem State.modSite_flights (s : State) (g : Nat) (f : Site → Site) : (s.modSite g f).flights = s.flights := rfl
@[simp] theorem State.modSite_stalled (s : State) (g : Nat) (f : Site → Site) : (s.modSite g f).stalled = s.stalled := rfl
@[simp] theorem State.modSite_stream (s : State) (g : Nat) (f : Site → Site) : (s.modSite g f).stream = s.stream := rfl
@[simp] theorem State.modSite_procs (s : State) (g : Nat) (f : Site → Site) : (s.modSite g f).procs = s.procs := rfl
@[simp] theorem State.modSite_threads (s : State) (g : Nat) (f : Site → Site) : (s.modSite g f).threads = s.threads := rfl
@[simp] theorem State.modSite_reqs (s : State) (g : Nat) (f : Site → Site) : (s.modSite g f).reqs = s.reqs := rfl
@[simp] theorem State.modSite_stores (s : State) (g : Nat) (f : Site → Site) : (s.modSite g f).stores = s.stores := rfl
@[simp] theorem State.modSite_ops (s : State) (g : Nat) (f : Site → Site) : (s.modSite g f).ops = s.ops := rfl
@[simp] theorem State.modSite_packets (s : State) (g : Nat) (f : Site → Site) : (s.modSite g f).packets = s.packets := rfl
@[simp] theorem State.modSite_trel (s : State) (g : Nat) (f : Site → Site) : (s.modSite g f).trel = s.trel := rfl

@[simp] theorem State.fresh_mem (s : State)  : (s.fresh.2).mem = s.mem := rfl
@[simp] theorem State.fresh_poison (s : State)  : (s.fresh.2).poison = s.poison := rfl
@[simp] theorem State.fresh_wafer (s : State)  : (s.fresh.2).wafer = s.wafer := rfl
@[simp] theorem State.fresh_power (s : State)  : (s.fresh.2).power = s.power := rfl
@[simp] theorem State.fresh_released (s : State)  : (s.fresh.2).released = s.released := rfl
@[simp] theorem State.fresh_tick (s : State)  : (s.fresh.2).tick = s.tick := rfl
@[simp] theorem State.fresh_freeCtr (s : State)  : (s.fresh.2).freeCtr = s.freeCtr := rfl
@[simp] theorem State.fresh_timeBase (s : State)  : (s.fresh.2).timeBase = s.timeBase := rfl
@[simp] theorem State.fresh_clkBase (s : State)  : (s.fresh.2).clkBase = s.clkBase := rfl
@[simp] theorem State.fresh_agenda (s : State)  : (s.fresh.2).agenda = s.agenda := rfl
@[simp] theorem State.fresh_flights (s : State)  : (s.fresh.2).flights = s.flights := rfl
@[simp] theorem State.fresh_stalled (s : State)  : (s.fresh.2).stalled = s.stalled := rfl
@[simp] theorem State.fresh_stream (s : State)  : (s.fresh.2).stream = s.stream := rfl
@[simp] theorem State.fresh_sites (s : State)  : (s.fresh.2).sites = s.sites := rfl
@[simp] theorem State.fresh_procs (s : State)  : (s.fresh.2).procs = s.procs := rfl
@[simp] theorem State.fresh_threads (s : State)  : (s.fresh.2).threads = s.threads := rfl
@[simp] theorem State.fresh_reqs (s : State)  : (s.fresh.2).reqs = s.reqs := rfl
@[simp] theorem State.fresh_stores (s : State)  : (s.fresh.2).stores = s.stores := rfl
@[simp] theorem State.fresh_ops (s : State)  : (s.fresh.2).ops = s.ops := rfl
@[simp] theorem State.fresh_packets (s : State)  : (s.fresh.2).packets = s.packets := rfl
@[simp] theorem State.fresh_trel (s : State)  : (s.fresh.2).trel = s.trel := rfl

@[simp] theorem State.draw_mem (s : State)  : (s.draw.2).mem = s.mem := rfl
@[simp] theorem State.draw_poison (s : State)  : (s.draw.2).poison = s.poison := rfl
@[simp] theorem State.draw_wafer (s : State)  : (s.draw.2).wafer = s.wafer := rfl
@[simp] theorem State.draw_power (s : State)  : (s.draw.2).power = s.power := rfl
@[simp] theorem State.draw_released (s : State)  : (s.draw.2).released = s.released := rfl
@[simp] theorem State.draw_tick (s : State)  : (s.draw.2).tick = s.tick := rfl
@[simp] theorem State.draw_nextId (s : State)  : (s.draw.2).nextId = s.nextId := rfl
@[simp] theorem State.draw_timeBase (s : State)  : (s.draw.2).timeBase = s.timeBase := rfl
@[simp] theorem State.draw_clkBase (s : State)  : (s.draw.2).clkBase = s.clkBase := rfl
@[simp] theorem State.draw_agenda (s : State)  : (s.draw.2).agenda = s.agenda := rfl
@[simp] theorem State.draw_flights (s : State)  : (s.draw.2).flights = s.flights := rfl
@[simp] theorem State.draw_stalled (s : State)  : (s.draw.2).stalled = s.stalled := rfl
@[simp] theorem State.draw_stream (s : State)  : (s.draw.2).stream = s.stream := rfl
@[simp] theorem State.draw_sites (s : State)  : (s.draw.2).sites = s.sites := rfl
@[simp] theorem State.draw_procs (s : State)  : (s.draw.2).procs = s.procs := rfl
@[simp] theorem State.draw_threads (s : State)  : (s.draw.2).threads = s.threads := rfl
@[simp] theorem State.draw_reqs (s : State)  : (s.draw.2).reqs = s.reqs := rfl
@[simp] theorem State.draw_stores (s : State)  : (s.draw.2).stores = s.stores := rfl
@[simp] theorem State.draw_ops (s : State)  : (s.draw.2).ops = s.ops := rfl
@[simp] theorem State.draw_packets (s : State)  : (s.draw.2).packets = s.packets := rfl
@[simp] theorem State.draw_trel (s : State)  : (s.draw.2).trel = s.trel := rfl

@[simp] theorem State.bump_mem (s : State)  : (s.bump).mem = s.mem := rfl
@[simp] theorem State.bump_poison (s : State)  : (s.bump).poison = s.poison := rfl
@[simp] theorem State.bump_wafer (s : State)  : (s.bump).wafer = s.wafer := rfl
@[simp] theorem State.bump_power (s : State)  : (s.bump).power = s.power := rfl
@[simp] theorem State.bump_released (s : State)  : (s.bump).released = s.released := rfl
@[simp] theorem State.bump_nextId (s : State)  : (s.bump).nextId = s.nextId := rfl
@[simp] theorem State.bump_freeCtr (s : State)  : (s.bump).freeCtr = s.freeCtr := rfl
@[simp] theorem State.bump_timeBase (s : State)  : (s.bump).timeBase = s.timeBase := rfl
@[simp] theorem State.bump_clkBase (s : State)  : (s.bump).clkBase = s.clkBase := rfl
@[simp] theorem State.bump_agenda (s : State)  : (s.bump).agenda = s.agenda := rfl
@[simp] theorem State.bump_flights (s : State)  : (s.bump).flights = s.flights := rfl
@[simp] theorem State.bump_stalled (s : State)  : (s.bump).stalled = s.stalled := rfl
@[simp] theorem State.bump_stream (s : State)  : (s.bump).stream = s.stream := rfl
@[simp] theorem State.bump_sites (s : State)  : (s.bump).sites = s.sites := rfl
@[simp] theorem State.bump_procs (s : State)  : (s.bump).procs = s.procs := rfl
@[simp] theorem State.bump_threads (s : State)  : (s.bump).threads = s.threads := rfl
@[simp] theorem State.bump_reqs (s : State)  : (s.bump).reqs = s.reqs := rfl
@[simp] theorem State.bump_stores (s : State)  : (s.bump).stores = s.stores := rfl
@[simp] theorem State.bump_ops (s : State)  : (s.bump).ops = s.ops := rfl
@[simp] theorem State.bump_packets (s : State)  : (s.bump).packets = s.packets := rfl
@[simp] theorem State.bump_trel (s : State)  : (s.bump).trel = s.trel := rfl

@[simp] theorem State.nextWord_mem (s : State)  : (s.nextWord).mem = s.mem := by unfold State.nextWord; split <;> rfl
@[simp] theorem State.nextWord_poison (s : State)  : (s.nextWord).poison = s.poison := by unfold State.nextWord; split <;> rfl
@[simp] theorem State.nextWord_wafer (s : State)  : (s.nextWord).wafer = s.wafer := by unfold State.nextWord; split <;> rfl
@[simp] theorem State.nextWord_power (s : State)  : (s.nextWord).power = s.power := by unfold State.nextWord; split <;> rfl
@[simp] theorem State.nextWord_released (s : State)  : (s.nextWord).released = s.released := by unfold State.nextWord; split <;> rfl
@[simp] theorem State.nextWord_tick (s : State)  : (s.nextWord).tick = s.tick := by unfold State.nextWord; split <;> rfl
@[simp] theorem State.nextWord_nextId (s : State)  : (s.nextWord).nextId = s.nextId := by unfold State.nextWord; split <;> rfl
@[simp] theorem State.nextWord_freeCtr (s : State)  : (s.nextWord).freeCtr = s.freeCtr := by unfold State.nextWord; split <;> rfl
@[simp] theorem State.nextWord_timeBase (s : State)  : (s.nextWord).timeBase = s.timeBase := by unfold State.nextWord; split <;> rfl
@[simp] theorem State.nextWord_clkBase (s : State)  : (s.nextWord).clkBase = s.clkBase := by unfold State.nextWord; split <;> rfl
@[simp] theorem State.nextWord_agenda (s : State)  : (s.nextWord).agenda = s.agenda := by unfold State.nextWord; split <;> rfl
@[simp] theorem State.nextWord_stalled (s : State)  : (s.nextWord).stalled = s.stalled := by unfold State.nextWord; split <;> rfl
@[simp] theorem State.nextWord_stream (s : State)  : (s.nextWord).stream = s.stream := by unfold State.nextWord; split <;> rfl
@[simp] theorem State.nextWord_sites (s : State)  : (s.nextWord).sites = s.sites := by unfold State.nextWord; split <;> rfl
@[simp] theorem State.nextWord_procs (s : State)  : (s.nextWord).procs = s.procs := by unfold State.nextWord; split <;> rfl
@[simp] theorem State.nextWord_threads (s : State)  : (s.nextWord).threads = s.threads := by unfold State.nextWord; split <;> rfl
@[simp] theorem State.nextWord_reqs (s : State)  : (s.nextWord).reqs = s.reqs := by unfold State.nextWord; split <;> rfl
@[simp] theorem State.nextWord_stores (s : State)  : (s.nextWord).stores = s.stores := by unfold State.nextWord; split <;> rfl
@[simp] theorem State.nextWord_ops (s : State)  : (s.nextWord).ops = s.ops := by unfold State.nextWord; split <;> rfl
@[simp] theorem State.nextWord_packets (s : State)  : (s.nextWord).packets = s.packets := by unfold State.nextWord; split <;> rfl
@[simp] theorem State.nextWord_trel (s : State)  : (s.nextWord).trel = s.trel := by unfold State.nextWord; split <;> rfl

@[simp] theorem State.setLane_mem (s : State) (l : LaneRun) : (s.setLane l).mem = s.mem := by unfold State.setLane; split <;> rfl
@[simp] theorem State.setLane_poison (s : State) (l : LaneRun) : (s.setLane l).poison = s.poison := by unfold State.setLane; split <;> rfl
@[simp] theorem State.setLane_wafer (s : State) (l : LaneRun) : (s.setLane l).wafer = s.wafer := by unfold State.setLane; split <;> rfl
@[simp] theorem State.setLane_power (s : State) (l : LaneRun) : (s.setLane l).power = s.power := by unfold State.setLane; split <;> rfl
@[simp] theorem State.setLane_released (s : State) (l : LaneRun) : (s.setLane l).released = s.released := by unfold State.setLane; split <;> rfl
@[simp] theorem State.setLane_tick (s : State) (l : LaneRun) : (s.setLane l).tick = s.tick := by unfold State.setLane; split <;> rfl
@[simp] theorem State.setLane_nextId (s : State) (l : LaneRun) : (s.setLane l).nextId = s.nextId := by unfold State.setLane; split <;> rfl
@[simp] theorem State.setLane_freeCtr (s : State) (l : LaneRun) : (s.setLane l).freeCtr = s.freeCtr := by unfold State.setLane; split <;> rfl
@[simp] theorem State.setLane_timeBase (s : State) (l : LaneRun) : (s.setLane l).timeBase = s.timeBase := by unfold State.setLane; split <;> rfl
@[simp] theorem State.setLane_clkBase (s : State) (l : LaneRun) : (s.setLane l).clkBase = s.clkBase := by unfold State.setLane; split <;> rfl
@[simp] theorem State.setLane_agenda (s : State) (l : LaneRun) : (s.setLane l).agenda = s.agenda := by unfold State.setLane; split <;> rfl
@[simp] theorem State.setLane_stalled (s : State) (l : LaneRun) : (s.setLane l).stalled = s.stalled := by unfold State.setLane; split <;> rfl
@[simp] theorem State.setLane_stream (s : State) (l : LaneRun) : (s.setLane l).stream = s.stream := by unfold State.setLane; split <;> rfl
@[simp] theorem State.setLane_sites (s : State) (l : LaneRun) : (s.setLane l).sites = s.sites := by unfold State.setLane; split <;> rfl
@[simp] theorem State.setLane_procs (s : State) (l : LaneRun) : (s.setLane l).procs = s.procs := by unfold State.setLane; split <;> rfl
@[simp] theorem State.setLane_threads (s : State) (l : LaneRun) : (s.setLane l).threads = s.threads := by unfold State.setLane; split <;> rfl
@[simp] theorem State.setLane_reqs (s : State) (l : LaneRun) : (s.setLane l).reqs = s.reqs := by unfold State.setLane; split <;> rfl
@[simp] theorem State.setLane_stores (s : State) (l : LaneRun) : (s.setLane l).stores = s.stores := by unfold State.setLane; split <;> rfl
@[simp] theorem State.setLane_ops (s : State) (l : LaneRun) : (s.setLane l).ops = s.ops := by unfold State.setLane; split <;> rfl
@[simp] theorem State.setLane_packets (s : State) (l : LaneRun) : (s.setLane l).packets = s.packets := by unfold State.setLane; split <;> rfl
@[simp] theorem State.setLane_trel (s : State) (l : LaneRun) : (s.setLane l).trel = s.trel := by unfold State.setLane; split <;> rfl

@[simp] theorem State.mapLanes_mem (s : State) (g : Flight → LaneRun → LaneRun) : (s.mapLanes g).mem = s.mem := by unfold State.mapLanes; split <;> rfl
@[simp] theorem State.mapLanes_poison (s : State) (g : Flight → LaneRun → LaneRun) : (s.mapLanes g).poison = s.poison := by unfold State.mapLanes; split <;> rfl
@[simp] theorem State.mapLanes_wafer (s : State) (g : Flight → LaneRun → LaneRun) : (s.mapLanes g).wafer = s.wafer := by unfold State.mapLanes; split <;> rfl
@[simp] theorem State.mapLanes_power (s : State) (g : Flight → LaneRun → LaneRun) : (s.mapLanes g).power = s.power := by unfold State.mapLanes; split <;> rfl
@[simp] theorem State.mapLanes_released (s : State) (g : Flight → LaneRun → LaneRun) : (s.mapLanes g).released = s.released := by unfold State.mapLanes; split <;> rfl
@[simp] theorem State.mapLanes_tick (s : State) (g : Flight → LaneRun → LaneRun) : (s.mapLanes g).tick = s.tick := by unfold State.mapLanes; split <;> rfl
@[simp] theorem State.mapLanes_nextId (s : State) (g : Flight → LaneRun → LaneRun) : (s.mapLanes g).nextId = s.nextId := by unfold State.mapLanes; split <;> rfl
@[simp] theorem State.mapLanes_freeCtr (s : State) (g : Flight → LaneRun → LaneRun) : (s.mapLanes g).freeCtr = s.freeCtr := by unfold State.mapLanes; split <;> rfl
@[simp] theorem State.mapLanes_timeBase (s : State) (g : Flight → LaneRun → LaneRun) : (s.mapLanes g).timeBase = s.timeBase := by unfold State.mapLanes; split <;> rfl
@[simp] theorem State.mapLanes_clkBase (s : State) (g : Flight → LaneRun → LaneRun) : (s.mapLanes g).clkBase = s.clkBase := by unfold State.mapLanes; split <;> rfl
@[simp] theorem State.mapLanes_agenda (s : State) (g : Flight → LaneRun → LaneRun) : (s.mapLanes g).agenda = s.agenda := by unfold State.mapLanes; split <;> rfl
@[simp] theorem State.mapLanes_stalled (s : State) (g : Flight → LaneRun → LaneRun) : (s.mapLanes g).stalled = s.stalled := by unfold State.mapLanes; split <;> rfl
@[simp] theorem State.mapLanes_stream (s : State) (g : Flight → LaneRun → LaneRun) : (s.mapLanes g).stream = s.stream := by unfold State.mapLanes; split <;> rfl
@[simp] theorem State.mapLanes_sites (s : State) (g : Flight → LaneRun → LaneRun) : (s.mapLanes g).sites = s.sites := by unfold State.mapLanes; split <;> rfl
@[simp] theorem State.mapLanes_procs (s : State) (g : Flight → LaneRun → LaneRun) : (s.mapLanes g).procs = s.procs := by unfold State.mapLanes; split <;> rfl
@[simp] theorem State.mapLanes_threads (s : State) (g : Flight → LaneRun → LaneRun) : (s.mapLanes g).threads = s.threads := by unfold State.mapLanes; split <;> rfl
@[simp] theorem State.mapLanes_reqs (s : State) (g : Flight → LaneRun → LaneRun) : (s.mapLanes g).reqs = s.reqs := by unfold State.mapLanes; split <;> rfl
@[simp] theorem State.mapLanes_stores (s : State) (g : Flight → LaneRun → LaneRun) : (s.mapLanes g).stores = s.stores := by unfold State.mapLanes; split <;> rfl
@[simp] theorem State.mapLanes_ops (s : State) (g : Flight → LaneRun → LaneRun) : (s.mapLanes g).ops = s.ops := by unfold State.mapLanes; split <;> rfl
@[simp] theorem State.mapLanes_packets (s : State) (g : Flight → LaneRun → LaneRun) : (s.mapLanes g).packets = s.packets := by unfold State.mapLanes; split <;> rfl
@[simp] theorem State.mapLanes_trel (s : State) (g : Flight → LaneRun → LaneRun) : (s.mapLanes g).trel = s.trel := by unfold State.mapLanes; split <;> rfl

@[simp] theorem State.th_nextWord (s : State)  (t : TId) : (s.nextWord).th t = s.th t := by simp [State.th]
@[simp] theorem State.proc_nextWord (s : State)  (p : PId) : (s.nextWord).proc p = s.proc p := by simp [State.proc]
@[simp] theorem State.site_nextWord (s : State)  (k : Nat) : (s.nextWord).site k = s.site k := by simp [State.site]
@[simp] theorem State.th_setLane (s : State) (l : LaneRun) (t : TId) : (s.setLane l).th t = s.th t := by simp [State.th]
@[simp] theorem State.proc_setLane (s : State) (l : LaneRun) (p : PId) : (s.setLane l).proc p = s.proc p := by simp [State.proc]
@[simp] theorem State.site_setLane (s : State) (l : LaneRun) (k : Nat) : (s.setLane l).site k = s.site k := by simp [State.site]
@[simp] theorem State.th_mapLanes (s : State) (g : Flight → LaneRun → LaneRun) (t : TId) : (s.mapLanes g).th t = s.th t := by simp [State.th]
@[simp] theorem State.proc_mapLanes (s : State) (g : Flight → LaneRun → LaneRun) (p : PId) : (s.mapLanes g).proc p = s.proc p := by simp [State.proc]
@[simp] theorem State.site_mapLanes (s : State) (g : Flight → LaneRun → LaneRun) (k : Nat) : (s.mapLanes g).site k = s.site k := by simp [State.site]

end Sys2Proof.Machine
end

