-- ==== Sys2Proof/Laws/Lanes.lean ====
section
/-! SUPPORT. What the runners of an instruction do: in each lane, for those that act in lanes alone, and in a group of one
lane, for those that end their clause, ask for something at commit or meet a fault. -/
namespace Sys2Proof.Machine

/-! Instructions that act in their lanes alone. -/

theorem Res.map_ok {α β : Type} (g : α → β) (v : α) (fl : Fl) (seed : Word) :
    (Res.ok v fl seed).map g = .ok (g v) fl seed := rfl

/-- One lane of `laneStep`. -/
theorem laneStep_after {α : Type} (pn : Bool) (pr : BitVec 3) (old : LaneRun → Option LVal) (val : α → LVal)
    (wr : α → List RegW) (f : Env → Res α) (s : State) (fl : Flight) (l : LaneRun) :
    LaneAfter fl.idx pn pr (old l) ((f ⟨s, fl, l⟩).map fun v => (some (val v), wr v)) l
      (laneStep pn pr old val wr f s fl l) where
  idle h := by simp [laneStep, h]
  skipped h g := by simp [laneStep, h, g, LaneRun.shift]
  faulted h g c i hr := by
    have hf : l.fault.isSome = false := by
      have := h; simp only [LaneRun.active, Bool.and_eq_true] at this
      cases hl : l.fault <;> simp_all
    cases e : f ⟨s, fl, l⟩ with
    | ok v a b => simp [e, Res.map] at hr
    | trap c' i' =>
      simp only [e, Res.map, Res.trap.injEq] at hr
      simp [laneStep, h, g, e, LaneRun.trap, hf, hr.1, hr.2]
  taken h g v ws a b hr := by
    cases e : f ⟨s, fl, l⟩ with
    | trap c i => simp [e, Res.map] at hr
    | ok v' a' b' =>
      simp only [e, Res.map, Res.ok.injEq, Prod.mk.injEq] at hr
      obtain ⟨⟨rfl, rfl⟩, rfl, rfl⟩ := hr
      simp [laneStep, h, g, e, LaneRun.shift]

/-- Carrying a function over the lanes. -/
theorem mapLanes_computes (s : State) (g : Flight → LaneRun → LaneRun) (pn : Bool) (pr : BitVec 3)
    (old : Thread → Option LVal) (res : Env → Res (Option LVal × List RegW))
    (h : ∀ f l, LaneAfter f.idx pn pr (old l.t0) (res ⟨s, f, l⟩) l (g f l)) :
    Computes (.next (s.mapLanes g)) s pn pr old res := by
  intro f rest hs
  refine ⟨f.lanes.map (g f), by simp [State.mapLanes, hs], by simp, fun k l hl => ⟨g f l, by simp [hl], h f l⟩⟩

theorem runG_computes (s : State) (b : BForm) (f : Env → Res Word) :
    Computes (.next (s.runG b f)) s b.pn b.pr (oldG b) fun e => (f e).map (resG b) :=
  mapLanes_computes s _ _ _ _ _ fun fl l => laneStep_after _ _ (fun l => oldG b l.t0) .g _ f s fl l
theorem runP_computes (s : State) (b : BForm) (f : Env → Res Bool) :
    Computes (.next (s.runP b f)) s b.pn b.pr (oldP b) fun e => (f e).map (resP b) :=
  mapLanes_computes s _ _ _ _ _ fun fl l => laneStep_after _ _ (fun l => oldP b l.t0) .p _ f s fl l
theorem runW_computes (s : State) (b : BForm) (f : Env → Res Gran) :
    Computes (.next (s.runW b f)) s b.pn b.pr (oldW b) fun e => (f e).map (resW b) :=
  mapLanes_computes s _ _ _ _ _ fun fl l => laneStep_after _ _ (fun l => oldW b l.t0) .w _ f s fl l
theorem runM_computes (s : State) (b : BForm) (f : Env → Res Word) :
    Computes (.next (s.runM b f)) s b.pn b.pr (oldM b) fun e => (f e).map (resM b) :=
  mapLanes_computes s _ _ _ _ _ fun fl l => laneStep_after _ _ (fun l => oldM b l.t0) .m _ f s fl l

theorem pureG_gives (s : State) (b : BForm) (f : Env → Word) : GivesG (.next (s.pureG b f)) s b f :=
  runG_computes s b fun e => e.pure (f e)
theorem pureP_gives (s : State) (b : BForm) (f : Env → Bool) : GivesP (.next (s.pureP b f)) s b f :=
  runP_computes s b fun e => e.pure (f e)
theorem pureW_gives (s : State) (b : BForm) (f : Env → Gran) : GivesW (.next (s.runW b fun e => e.pure (f e))) s b f :=
  runW_computes s b fun e => e.pure (f e)

/-- The same results under another name. -/
theorem Computes.congr {o : Out} {s : State} {pn : Bool} {pr : BitVec 3} {old : Thread → Option LVal}
    {res res' : Env → Res (Option LVal × List RegW)} (h : Computes o s pn pr old res) (e : ∀ x, res x = res' x) :
    Computes o s pn pr old res' := by
  rwa [show res = res' from funext e] at h

theorem GivesG.congr {o : Out} {s : State} {b : BForm} {v v' : Env → Word} (h : GivesG o s b v) (e : ∀ x, v x = v' x) :
    GivesG o s b v' := by
  rwa [show v = v' from funext e] at h
theorem GivesP.congr {o : Out} {s : State} {b : BForm} {v v' : Env → Bool} (h : GivesP o s b v) (e : ∀ x, v x = v' x) :
    GivesP o s b v' := by
  rwa [show v = v' from funext e] at h

/-! Groups of one lane. -/

section
variable {s : State} {pn : Bool} {pr : BitVec 3} {f : Flight} {rest : List Flight} {l : LaneRun}

/-- A fold over the one lane. -/
theorem foldLanes_one (h : OneLane s pn pr f rest l) (order : List LaneRun → List LaneRun) (ho : order [l] = [l])
    (g : State → Flight → LaneRun → State × LaneRun) : s.foldLanes order g = (g s f l).1.left (g s f l).2 := by
  have h1 := h.head
  have h2 := h.lanes
  simp [State.foldLanes, h1, h2, ho, State.left]

theorem byAge_one (l : LaneRun) : byAge [l] = [l] := rfl

theorem OneLane.noFault (h : OneLane s pn pr f rest l) : l.fault = none := by
  have h1 := h.active
  simp only [LaneRun.active, Bool.and_eq_true] at h1
  cases hl : l.fault <;> simp_all

theorem trap_stopped (h : OneLane s pn pr f rest l) (c : Nat) (i : Word) : l.trap f.idx c i = l.stopped f c i := by
  simp [LaneRun.trap, h.noFault, LaneRun.stopped]

/-- A clause-ending instruction whose check passes commits its lane and takes its effect. -/
theorem runEnd_pass (h : OneLane s pn pr f rest l) (order : List LaneRun → List LaneRun) (ho : order [l] = [l])
    (check : State → Env → Option (Nat × Word)) (effect : State → Env → State) (hc : check s ⟨s, f, l⟩ = none) :
    s.runEnd pn pr order check effect = (effect (s.committed f l) ⟨s, f, l⟩).ended l := by
  unfold State.runEnd
  rw [foldLanes_one h order ho]
  simp [h.active, h.taken, hc, State.ended, State.committed, State.commitLane]

/-- One whose check fails faults its lane. -/
theorem runEnd_trap (h : OneLane s pn pr f rest l) (order : List LaneRun → List LaneRun) (ho : order [l] = [l])
    (check : State → Env → Option (Nat × Word)) (effect : State → Env → State) (c : Nat) (i : Word)
    (hc : check s ⟨s, f, l⟩ = some (c, i)) :
    s.runEnd pn pr order check effect = s.left (l.stopped f c i) := by
  unfold State.runEnd
  rw [foldLanes_one h order ho]
  simp [h.active, h.taken, hc, trap_stopped h]

theorem ending_pass (h : OneLane s pn pr f rest l) (check : State → Env → Option (Nat × Word))
    (effect : State → Env → State) (hc : check s ⟨s, f, l⟩ = none) :
    s.ending pn pr check effect = .next ((effect (s.committed f l) ⟨s, f, l⟩).ended l) := by
  unfold State.ending; rw [runEnd_pass h id rfl check effect hc]

theorem ending_trap (h : OneLane s pn pr f rest l) (check : State → Env → Option (Nat × Word))
    (effect : State → Env → State) (c : Nat) (i : Word) (hc : check s ⟨s, f, l⟩ = some (c, i)) :
    s.ending pn pr check effect = .next (s.left (l.stopped f c i)) := by
  unfold State.ending; rw [runEnd_trap h id rfl check effect c i hc]

theorem runLanes_ok (h : OneLane s pn pr f rest l) (g : State → Env → LRes × State) (go : State → State) (s' : State)
    (hg : g s ⟨s, f, l⟩ = (.ok go, s')) : s.runLanes pn pr id g = (go (s'.committed f l)).ended l := by
  unfold State.runLanes
  rw [foldLanes_one h id rfl]
  simp [h.active, h.taken, hg, State.ended, State.committed, State.commitLane]

theorem runLanes_trap (h : OneLane s pn pr f rest l) (g : State → Env → LRes × State) (c : Nat) (i : Word) (s' : State)
    (hg : g s ⟨s, f, l⟩ = (.trap c i, s')) : s.runLanes pn pr id g = s'.left (l.stopped f c i) := by
  unfold State.runLanes
  rw [foldLanes_one h id rfl]
  simp [h.active, h.taken, hg, trap_stopped h]

/-- A word of which no lane waits is not put off. -/
theorem orPause_goes {s s' : State} (h : ∀ f rest, s'.flights = f :: rest → f.lanes.any (·.stall) = false) : s.orPause s' = s' := by
  unfold State.orPause
  split
  · next h' => rw [if_neg (by simp [h _ _ h'])]
  · rfl

theorem orPause_left {v : State} {l' : LaneRun} (h : OneLane s pn pr f rest l) (hv : v.flights = s.flights) (hl : l'.lane = l.lane)
    (hs : l'.stall = l.stall) : s.orPause (v.left l') = v.left l' := by
  refine orPause_goes fun g r hg => ?_
  have ha : l.stall = false := by
    have := h.active
    simp only [LaneRun.active, Bool.and_eq_true, Bool.not_eq_true'] at this
    exact this.2
  simp only [State.left, State.setLane, hv, h.head, State.nextWord, h.lanes, List.map_cons, List.map_nil, hl, if_true,
    List.cons.injEq] at hg
  rw [← hg.1]
  simp [hs, ha]

theorem runActs_ok (h : OneLane s pn pr f rest l) (g : State → Env → ARes × State) (a : List Act) (s' : State)
    (hg : g s ⟨s, f, l⟩ = (.ok a, s')) (hf : s'.flights = s.flights) : s.runActs pn pr g = s'.left (l.asks a) := by
  unfold State.runActs
  rw [foldLanes_one h id rfl]
  simp only [h.active, h.taken, hg, Bool.not_true, Bool.false_eq_true, if_false]
  exact orPause_left (l' := l.asks a) h hf rfl rfl

theorem runActs_trap (h : OneLane s pn pr f rest l) (g : State → Env → ARes × State) (c : Nat) (i : Word) (s' : State)
    (hg : g s ⟨s, f, l⟩ = (.trap c i, s')) (hf : s'.flights = s.flights) : s.runActs pn pr g = s'.left (l.stopped f c i) := by
  unfold State.runActs
  rw [foldLanes_one h id rfl]
  simp only [h.active, h.taken, hg, Bool.not_true, Bool.false_eq_true, if_false, trap_stopped h]
  exact orPause_left (l' := l.stopped f c i) h hf rfl rfl

end

end Sys2Proof.Machine
end

