-- ==== Sys2Proof/Laws/Access.lean ====
section
/-! SUPPORT. What the checks of a memory instruction answer: the parts of a load, of a store and of an atomic, one by one. -/
namespace Sys2Proof.Machine

section
variable {s u : State} {e : Env} {va : Word} {n pa cause : Nat} {nc : Bool}

/-! Verdicts. -/

/-- An access of a thread before its commit has come to its bytes: its own site's, or those at which its packet stands. -/
theorem verdict_pass {k : AccKind} {t : TId} {ctx : Nat} (hl : s.loadOk t.p ctx (s.th t).gen pa n k = true) :
    s.verdict t ctx pa n k = (.pass, s) := by
  simp only [State.loadOk, Bool.and_eq_true, beq_iff_eq] at hl
  simp [State.verdict, State.askWay, hl]

/-- Refused by the windows of the target. -/
theorem verdict_fail {k : AccKind} {t : TId} {ctx : Nat} (hw : s.wayOf t.p ctx (.access (s.th t).gen pa) pa = .here)
    (hf : s.windowFor t.p ctx pa n k = false) : s.verdict t ctx pa n k = (.fail, s) := by
  simp [State.verdict, State.askWay, hw, hf]

/-- Discarded by the fabric (R290). -/
theorem verdict_lost {k : AccKind} {t : TId} {ctx : Nat} (hw : s.wayOf t.p ctx (.access (s.th t).gen pa) pa = .lost) :
    s.verdict t ctx pa n k = (.fail, s) := by simp [State.verdict, State.askWay, hw]

/-- On its way. -/
theorem verdict_coming {k : AccKind} {t : TId} {ctx : Nat} (hw : s.wayOf t.p ctx (.access (s.th t).gen pa) pa = .coming) :
    s.verdict t ctx pa n k = (.wait, s) := by simp [State.verdict, State.askWay, hw]

/-! Loads. -/

/-- A part of a load as it is asked for: a copy may serve it where its form takes copies and its page is cacheable DRAM. -/
def partOf (copies inv rc : Bool) (va : Word) (pa n : Nat) (nc : Bool) : Part :=
  let c := copies && !nc && regionOf (paSite pa) (paLocal pa) == some .dram
  ⟨va, pa, n, c, c && inv, c && rc, none, false⟩

/-- A part of a load passes: it needs no answer from its target, or has come to its bytes and the windows pass it. -/
def passes (s : State) (e : Env) (x : Part) : Bool :=
  s.near e.tid e.t.ctx x || s.loadOk e.tid.p e.t.ctx (s.th e.tid).gen x.pa x.n .read

theorem verdict_passes {x : Part} (h : passes s e x = true) :
    (if s.near e.tid e.t.ctx x then (.pass, s) else s.verdict e.tid e.t.ctx x.pa x.n .read) = (Verd.pass, s) := by
  unfold passes at h
  split
  · rfl
  · next hn => exact verdict_pass (by simpa [hn] using h)

variable {copies inv rc : Bool} {t : List (Word × Nat)}

theorem loadParts_unaligned (h : va.toNat % n ≠ 0) : s.loadParts e copies inv rc ((va, n) :: t) = (.trap 7 va, s) := by
  unfold State.loadParts; rw [if_pos h]

theorem loadParts_trap (h : va.toNat % n = 0) (hp : s.place e va n .read = (.trap cause, u)) :
    s.loadParts e copies inv rc ((va, n) :: t) = (.trap cause va, u) := by
  unfold State.loadParts; rw [if_neg (by simpa using h), hp]

theorem loadParts_dead (h : va.toNat % n = 0) (hp : s.place e va n .read = (.dead, u)) :
    s.loadParts e copies inv rc ((va, n) :: t) = (.dead, u) := by
  unfold State.loadParts; rw [if_neg (by simpa using h), hp]

/-- A part that its target's windows refuse. -/
theorem loadParts_refused (h : va.toNat % n = 0) (hp : s.place e va n .read = (.ok pa nc, u))
    (hn : u.near e.tid e.t.ctx (partOf copies inv rc va pa n nc) = false)
    (hw : u.wayOf e.tid.p e.t.ctx (.access (u.th e.tid).gen pa) pa = .here)
    (hf : u.windowFor e.tid.p e.t.ctx pa n .read = false) :
    s.loadParts e copies inv rc ((va, n) :: t) = (.trap 11 va, u) := by
  unfold State.loadParts; rw [if_neg (by simpa using h), hp]
  simp only [partOf] at hn
  simp [verdict_fail hw hf, hn]

/-- A part that passes leaves what the parts after it answer. -/
theorem loadParts_cons {v : State} {ps : List Part} (h : va.toNat % n = 0) (hp : s.place e va n .read = (.ok pa nc, u))
    (hl : passes u e (partOf copies inv rc va pa n nc) = true) (ht : u.loadParts e copies inv rc t = (.ok ps, v)) :
    s.loadParts e copies inv rc ((va, n) :: t) = (.ok (partOf copies inv rc va pa n nc :: ps), v) := by
  have hv := verdict_passes hl
  unfold State.loadParts; rw [if_neg (by simpa using h), hp]
  dsimp only [partOf] at hv ⊢
  erw [hv]; simp only [ht]

theorem loadParts_cons_trap {v : State} {c : Nat} {i : Word} (h : va.toNat % n = 0)
    (hp : s.place e va n .read = (.ok pa nc, u)) (hl : passes u e (partOf copies inv rc va pa n nc) = true)
    (ht : u.loadParts e copies inv rc t = (.trap c i, v)) : s.loadParts e copies inv rc ((va, n) :: t) = (.trap c i, v) := by
  have hv := verdict_passes hl
  unfold State.loadParts; rw [if_neg (by simpa using h), hp]
  dsimp only [partOf] at hv ⊢
  erw [hv]; simp only [ht]

theorem loadParts_one (h : va.toNat % n = 0) (hp : s.place e va n .read = (.ok pa nc, u))
    (hl : passes u e (partOf copies inv rc va pa n nc) = true) :
    s.loadParts e copies inv rc [(va, n)] = (.ok [partOf copies inv rc va pa n nc], u) := loadParts_cons h hp hl rfl

/-! Stores. -/

variable {rel : Option Nat} {b : List Byte} {tb : List (Word × List Byte)}

theorem storeParts_unaligned (h : va.toNat % b.length ≠ 0) : s.storeParts e rel ((va, b) :: tb) = (.trap 7 va, s) := by
  unfold State.storeParts; rw [if_pos h]

theorem storeParts_trap (h : va.toNat % b.length = 0) (hp : s.place e va b.length .write = (.trap cause, u)) :
    s.storeParts e rel ((va, b) :: tb) = (.trap cause va, u) := by
  unfold State.storeParts; rw [if_neg (by simpa using h), hp]

/-- Part of a word of control space. -/
theorem storeParts_control (h : va.toNat % b.length = 0) (hp : s.place e va b.length .write = (.ok pa nc, u))
    (hc : isControl pa = true) (h8 : b.length % 8 ≠ 0) : s.storeParts e rel ((va, b) :: tb) = (.trap 7 va, u) := by
  unfold State.storeParts; rw [if_neg (by simpa using h), hp]; simp [hc, h8]

theorem storeParts_cons {v : State} {es : List Store} (h : va.toNat % b.length = 0)
    (hp : s.place e va b.length .write = (.ok pa nc, u)) (hc : isControl pa = false ∨ b.length % 8 = 0)
    (ht : u.storeParts e rel tb = (.ok es, v)) :
    s.storeParts e rel ((va, b) :: tb) = (.ok (storeOf va pa b .plain rel :: es), v) := by
  have hc' : (isControl pa && b.length % 8 != 0) = false := by rcases hc with h | h <;> simp [h]
  unfold State.storeParts; rw [if_neg (by simpa using h), hp]; simp [hc', ht]

theorem storeParts_one (h : va.toNat % b.length = 0) (hp : s.place e va b.length .write = (.ok pa nc, u))
    (hc : isControl pa = false ∨ b.length % 8 = 0) :
    s.storeParts e rel [(va, b)] = (.ok [storeOf va pa b .plain rel], u) := storeParts_cons h hp hc rfl

/-! Atomics. -/

variable {lc rl : Bool}

theorem rmwPart_unaligned (h : va.toNat % n ≠ 0) : s.rmwPart e va n lc rl = (.trap 7 va, s) := by
  unfold State.rmwPart; rw [if_pos h]

theorem rmwPart_trap (h : va.toNat % n = 0) (hp : s.place e va n .rmw = (.trap cause, u)) :
    s.rmwPart e va n lc rl = (.trap cause va, u) := by
  unfold State.rmwPart; rw [if_neg (by simpa using h), hp]

theorem rmwPart_control (h : va.toNat % n = 0) (hp : s.place e va n .rmw = (.ok pa nc, u)) (hc : isControl pa = true) :
    s.rmwPart e va n lc rl = (.trap 8 va, u) := by
  unfold State.rmwPart; rw [if_neg (by simpa using h), hp]; simp [hc]

theorem rmwPart_refused (h : va.toNat % n = 0) (hp : s.place e va n .rmw = (.ok pa nc, u)) (hc : isControl pa = false)
    (hw : u.wayOf e.tid.p e.t.ctx (.access (u.th e.tid).gen pa) pa = .here)
    (hf : u.windowFor e.tid.p e.t.ctx pa n .rmw = false) : s.rmwPart e va n true rl = (.trap 11 va, u) := by
  unfold State.rmwPart; rw [if_neg (by simpa using h), hp]; simp [hc, verdict_fail hw hf]

theorem rmwPart_ok (h : va.toNat % n = 0) (hp : s.place e va n .rmw = (.ok pa nc, u)) (hc : isControl pa = false)
    (hl : lc = true → u.loadOk e.tid.p e.t.ctx (u.th e.tid).gen pa n .rmw = true) :
    s.rmwPart e va n lc rl = (.ok [⟨va, pa, n, false, false, rl, none, false⟩], u) := by
  unfold State.rmwPart; rw [if_neg (by simpa using h), hp]
  cases lc with
  | false => simp [hc]
  | true => simp [hc, verdict_pass (t := e.tid) (hl rfl)]

end

theorem toBytes_length (n v : Nat) : (toBytes n v).length = n := by
  induction n generalizing v with
  | zero => rfl
  | succ n ih => simp [toBytes, ih]

/-- The bytes of a group of wide registers. -/
theorem groupBytes_length (e : Env) (k n : Nat) : (e.groupBytes k n).length = 32 * (n / 32) := by
  unfold Env.groupBytes
  induction n / 32 with
  | zero => rfl
  | succ m ih =>
    rw [List.range_succ, List.flatMap_append, List.length_append, ih, List.flatMap_singleton]
    show _ + (toBytes 32 _).length = _
    rw [toBytes_length]
    omega

end Sys2Proof.Machine
end

