-- ==== Sys2Proof/Laws/Flow.lean ====
section
/-! SUPPORT. What the checks of control transfers answer, what parking does, and what a commit, an end of a band and a
retirement leave alone. -/
namespace Sys2Proof.Machine

theorem misTarget_aligned {a : Word} (h : a.toNat % 8 = 0) : misTarget a = none := by simp [misTarget, h]
theorem misTarget_unaligned {a : Word} (h : a.toNat % 8 ≠ 0) : misTarget a = some (1, a) := by simp [misTarget, h]
theorem callCheck_unaligned {e : Env} {a : Word} (h : a.toNat % 8 ≠ 0) : callCheck e a = some (1, a) := by
  simp [callCheck, misTarget, h]
theorem callCheck_full {e : Env} {a : Word} (h : a.toNat % 8 = 0) (hf : e.t.frames.length = 6) :
    callCheck e a = some (17, 0) := by simp [callCheck, misTarget, h, hf]
theorem callCheck_open {e : Env} {a : Word} (h : a.toNat % 8 = 0) (hf : e.t.frames.length ≠ 6) :
    callCheck e a = none := by simp [callCheck, misTarget, h, hf]

/-- Parking, where no stream fault waits to be taken. -/
theorem park_parks {s : State} {t : TId} {w : Wait} (h : (s.th t).faultWaits = false) :
    s.park t w = s.modTh t fun th => { th with st := .parked, wait := w } := by simp [State.park, State.modTh, h]

/-! A fold keeps what each of its steps keeps. -/

theorem foldl_keeps {α β γ : Type} (q : β → γ) (g : β → α → β) (h : ∀ b a, q (g b a) = q b) (l : List α) (b : β) :
    q (l.foldl g b) = q b := by
  induction l generalizing b with
  | nil => rfl
  | cons x xs ih => rw [List.foldl_cons, ih, h]

/-! Commits. -/

theorem sbInc_keeps {γ : Type} (q : State → γ) (h : ∀ s t f, q (State.modTh s t f) = q s) (s : State) (t : TId)
    (sb : Option Nat) : q (s.sbInc t sb) = q s := by
  cases sb with
  | none => rfl
  | some k => exact h s t fun th => th.setSb k (th.sbOf k + 1)

theorem perfAdd_keeps {γ : Type} (q : State → γ) (h : ∀ s p v, q (State.setProc s p v) = q s) (s : State) (p : PId)
    (ctx event n : Nat) : q (s.perfAdd p ctx event n) = q s := by
  unfold State.perfAdd; split
  · rfl
  · split
    · exact h ..
    · rfl

theorem missL1_keeps {γ : Type} (q : State → γ) (h : ∀ s p v, q (State.setProc s p v) = q s) (s : State) (t : TId)
    (ctx pa : Nat) : q (s.missL1 t ctx pa) = q s := by
  unfold State.missL1; simp only; split
  · exact (perfAdd_keeps q h ..).trans ((h ..).trans (perfAdd_keeps q h ..))
  · exact perfAdd_keeps q h ..

theorem fillLine_keeps {γ : Type} (q : State → γ) (hP : ∀ s p v, q (State.setProc s p v) = q s)
    (hS : ∀ s g f, q (State.modSite s g f) = q s) (s : State) (p : PId) (pa row : Nat) (far : Bool) :
    q (s.fillLine p pa row far) = q s := by
  unfold State.fillLine; extract_lets base copy here site fixed s'
  have h' : q s' = q s := by
    unfold s'; split
    · exact hP ..
    · rfl
  split
  · exact (hS ..).trans h'
  · exact h'

/-- What a clause asks for at commit goes to its thread, its processor, its site's copies, the requests and the packets, and
nowhere else. -/
theorem enact_keeps {γ : Type} (q : State → γ) (hT : ∀ s t f, q (State.modTh s t f) = q s)
    (hP : ∀ s p v, q (State.setProc s p v) = q s) (hS : ∀ s g f, q (State.modSite s g f) = q s)
    (hF : ∀ s, q (State.fresh s).2 = q s) (hR : ∀ (s : State) r, q { s with reqs := r } = q s)
    (hK : ∀ (s : State) k, q { s with packets := k } = q s) (s : State) (t : TId) (a : Act) : q (s.enact t a) = q s := by
  cases a with
  | store x sb =>
    exact (sbInc_keeps q hT _ t sb).trans ((foldl_keeps q _ (fun b x => (hP ..).trans (hF b)) x _).trans (hF s))
  | req r => exact (hR _ _).trans ((sbInc_keeps q hT _ t r.sb).trans ((hK _ _).trans (hF s)))
  | pref va pa rc =>
    simp only [State.enact]; split
    · rfl
    · exact (fillLine_keeps q hP hS ..).trans (missL1_keeps q hP ..)
  | trq ch dst k => exact hT s t fun th => th.setG dst (s.trqWord t.p ch)
  | acovf a clr sb dst =>
    have h : ∀ r, q { s.fresh.2.sbInc t sb with reqs := r } = q s := fun r =>
      (hR _ r).trans ((sbInc_keeps q hT s.fresh.2 t sb).trans (hF s))
    simp only [State.enact]; split
    · exact (hP ..).trans (h _)
    · exact h _
theorem enact_mem (s : State) (t : TId) (a : Act) : (s.enact t a).mem = s.mem :=
  enact_keeps State.mem (fun _ _ _ => rfl) (fun _ _ _ => rfl) (fun _ _ _ => rfl) (fun _ => rfl) (fun _ _ => rfl) (fun _ _ => rfl) s t a
theorem enact_poison (s : State) (t : TId) (a : Act) : (s.enact t a).poison = s.poison :=
  enact_keeps State.poison (fun _ _ _ => rfl) (fun _ _ _ => rfl) (fun _ _ _ => rfl) (fun _ => rfl) (fun _ _ => rfl) (fun _ _ => rfl) s t a
theorem enact_flights (s : State) (t : TId) (a : Act) : (s.enact t a).flights = s.flights :=
  enact_keeps State.flights (fun _ _ _ => rfl) (fun _ _ _ => rfl) (fun _ _ _ => rfl) (fun _ => rfl) (fun _ _ => rfl) (fun _ _ => rfl) s t a

@[simp] theorem committed_mem (s : State) (f : Flight) (l : LaneRun) : (s.committed f l).mem = s.mem :=
  foldl_keeps State.mem _ (fun b a => enact_mem b _ a) l.asked _
@[simp] theorem committed_poison (s : State) (f : Flight) (l : LaneRun) : (s.committed f l).poison = s.poison :=
  foldl_keeps State.poison _ (fun b a => enact_poison b _ a) l.asked _
@[simp] theorem committed_flights (s : State) (f : Flight) (l : LaneRun) : (s.committed f l).flights = s.flights :=
  foldl_keeps State.flights _ (fun b a => enact_flights b _ a) l.asked _

end Sys2Proof.Machine
end

