-- ==== Sys2Proof/Laws/Memory.lean ====
section
/-! SUPPORT. Memory (R2, R7, R188): a byte read after a write, and the canonical form that every write keeps. -/
namespace Sys2Proof.Machine

/-- Every listed address is at least `lo`. -/
def Memory.above (lo : Nat) (m : List Host.Cell) : Prop := ∀ c ∈ m, lo ≤ c.1

theorem Memory.wfFrom_cons (lo : Option Nat) (k : Nat) (v : Byte) (t : List Host.Cell) :
    Memory.wfFrom lo ((k, v) :: t) = true ↔ (∀ l, lo = some l → l < k) ∧ v ≠ 0 ∧ Memory.wfFrom (some k) t = true := by
  cases lo <;> simp [Memory.wfFrom, and_assoc]

/-- A lower bound may be lowered. -/
theorem Memory.wfFrom_weaken (lo : Option Nat) (k : Nat) (m : List Host.Cell) (h : ∀ l, lo = some l → l ≤ k)
    (hm : Memory.wfFrom (some k) m = true) : Memory.wfFrom lo m = true := by
  cases m with
  | nil => rfl
  | cons c t =>
    obtain ⟨a, v⟩ := c
    rw [Memory.wfFrom_cons] at hm ⊢
    obtain ⟨h1, h2, h3⟩ := hm
    exact ⟨fun l hl => Nat.lt_of_le_of_lt (h l hl) (h1 k rfl), h2, h3⟩

/-- In a list above `lo` an address up to `lo` is unlisted. -/
theorem Memory.get_below (lo : Nat) (m : List Host.Cell) (hm : Memory.wfFrom (some lo) m = true) (a : Nat) (ha : a ≤ lo) :
    Memory.get m a = 0 := by
  cases m with
  | nil => rfl
  | cons c t =>
    obtain ⟨k, v⟩ := c
    have hk := ((Memory.wfFrom_cons _ _ _ _).1 hm).1 lo rfl
    have h1 : a ≠ k := by omega
    have h2 : a < k := by omega
    simp [Memory.get, h1, h2]

/-- A write keeps the canonical form above any bound below the address. -/
theorem Memory.wfFrom_set (lo : Option Nat) (m : List Host.Cell) (a : Nat) (b : Byte) (hlo : ∀ l, lo = some l → l < a)
    (hm : Memory.wfFrom lo m = true) : Memory.wfFrom lo (Memory.set m a b) = true := by
  induction m generalizing lo with
  | nil =>
    by_cases hb : b = 0 <;> simp only [Memory.set, hb, if_true, if_false]
    · rfl
    · exact (Memory.wfFrom_cons _ _ _ _).2 ⟨hlo, hb, rfl⟩
  | cons c t ih =>
    obtain ⟨k, v⟩ := c
    have hc := (Memory.wfFrom_cons _ _ _ _).1 hm
    obtain ⟨h1, h2, h3⟩ := hc
    unfold Memory.set
    split
    · next hak =>
      split
      · exact hm
      · next hb => exact (Memory.wfFrom_cons _ _ _ _).2 ⟨hlo, hb, (Memory.wfFrom_cons _ _ _ _).2 ⟨fun l hl => by
          cases hl; exact hak, h2, h3⟩⟩
    · split
      · split
        · exact Memory.wfFrom_weaken lo k t (fun l hl => Nat.le_of_lt (h1 l hl)) h3
        · next hb => exact (Memory.wfFrom_cons _ _ _ _).2 ⟨h1, hb, h3⟩
      · next h4 h5 =>
        exact (Memory.wfFrom_cons _ _ _ _).2 ⟨h1, h2, ih (some k) (fun l hl => by cases hl; omega) h3⟩

/-- A byte write keeps the canonical form. -/
theorem Memory.wf_set (m : List Host.Cell) (a : Nat) (b : Byte) (hm : Memory.wf m = true) :
    Memory.wf (Memory.set m a b) = true :=
  Memory.wfFrom_set none m a b (fun _ h => by cases h) hm

/-- A write of bytes keeps the canonical form. -/
theorem Memory.wf_write (bs : List Byte) (m : List Host.Cell) (a : Nat) (hm : Memory.wf m = true) :
    Memory.wf (Memory.write m a bs) = true := by
  induction bs generalizing m a with
  | nil => exact hm
  | cons b t ih => exact ih _ _ (Memory.wf_set m a b hm)

/-- Taking cells away keeps the canonical form. -/
theorem Memory.wfFrom_filter (c : Host.Cell → Bool) (m : List Host.Cell) (lo : Option Nat)
    (hm : Memory.wfFrom lo m = true) : Memory.wfFrom lo (m.filter c) = true := by
  induction m generalizing lo with
  | nil => rfl
  | cons x t ih =>
    obtain ⟨k, v⟩ := x
    obtain ⟨h1, h2, h3⟩ := (Memory.wfFrom_cons _ _ _ _).1 hm
    by_cases hx : c (k, v) = true
    · rw [List.filter_cons_of_pos hx]
      exact (Memory.wfFrom_cons _ _ _ _).2 ⟨h1, h2, ih _ h3⟩
    · rw [List.filter_cons_of_neg hx]
      exact Memory.wfFrom_weaken lo k _ (fun l hl => Nat.le_of_lt (h1 l hl)) (ih _ h3)

theorem Memory.wf_filter (c : Host.Cell → Bool) (m : List Host.Cell) (hm : Memory.wf m = true) :
    Memory.wf (m.filter c) = true := Memory.wfFrom_filter c m none hm

/-- The byte just written. -/
theorem Memory.get_set_self (m : List Host.Cell) (a : Nat) (b : Byte) (lo : Option Nat) (hm : Memory.wfFrom lo m = true) :
    Memory.get (Memory.set m a b) a = b := by
  induction m generalizing lo with
  | nil => unfold Memory.set; split <;> simp_all [Memory.get]
  | cons c t ih =>
    obtain ⟨k, v⟩ := c
    obtain ⟨h1, h2, h3⟩ := (Memory.wfFrom_cons _ _ _ _).1 hm
    unfold Memory.set
    split
    · next hak => split <;> simp_all [Memory.get]; omega
    · split
      · next hak heq =>
        subst heq
        split
        · next hb => rw [hb, Memory.get_below a t h3 a (Nat.le_refl _)]
        · simp [Memory.get]
      · next hak heq => simp only [Memory.get, heq, if_false, hak]; exact ih _ h3

/-- Every other byte is unchanged. -/
theorem Memory.get_set_ne (m : List Host.Cell) (a c : Nat) (b : Byte) (h : c ≠ a) (lo : Option Nat)
    (hm : Memory.wfFrom lo m = true) : Memory.get (Memory.set m a b) c = Memory.get m c := by
  induction m generalizing lo with
  | nil =>
    unfold Memory.set
    split
    · rfl
    · simp [Memory.get, h]
  | cons x t ih =>
    obtain ⟨k, v⟩ := x
    obtain ⟨h1, h2, h3⟩ := (Memory.wfFrom_cons _ _ _ _).1 hm
    unfold Memory.set
    split
    · next hak =>
      split
      · rfl
      · by_cases hc : c < a
        · have h4 : c ≠ k := by omega
          have h5 : c < k := by omega
          simp [Memory.get, h, hc, h4, h5]
        · simp [Memory.get, h, hc]
    · split
      · next hak heq =>
        subst heq
        split
        · by_cases hc : c < a
          · rw [Memory.get_below a t h3 c (Nat.le_of_lt hc)]; simp [Memory.get, h, hc]
          · simp [Memory.get, h, hc]
        · simp [Memory.get, h]
      · next hak heq =>
        by_cases h6 : c = k
        · simp [Memory.get, h6]
        · by_cases h7 : c < k
          · simp [Memory.get, h6, h7]
          · simp only [Memory.get, h6, h7, if_false]; exact ih _ h3

/-- Bytes outside a write are unchanged. -/
theorem Memory.get_write_outside (bs : List Byte) (m : List Host.Cell) (a c : Nat) (hm : Memory.wf m = true)
    (h : c < a ∨ a + bs.length ≤ c) : Memory.get (Memory.write m a bs) c = Memory.get m c := by
  induction bs generalizing m a with
  | nil => rfl
  | cons b t ih =>
    simp only [List.length_cons] at h
    have h1 : c ≠ a := by omega
    simp only [Memory.write]
    rw [ih _ _ (Memory.wf_set m a b hm) (by omega), Memory.get_set_ne m a c b h1 none hm]

/-- Bytes of a write read back. -/
theorem Memory.get_write_inside (bs : List Byte) (m : List Host.Cell) (a k : Nat) (hm : Memory.wf m = true)
    (h : k < bs.length) : Memory.get (Memory.write m a bs) (a + k) = bs[k] := by
  induction bs generalizing m a k with
  | nil => simp at h
  | cons b t ih =>
    simp only [Memory.write]
    cases k with
    | zero =>
      show Memory.get (Memory.write (Memory.set m a b) (a + 1) t) a = b
      rw [Memory.get_write_outside t _ (a + 1) a (Memory.wf_set m a b hm) (by omega),
        Memory.get_set_self m a b none hm]
    | succ k =>
      have hk : k < t.length := by simpa using h
      have e : a + (k + 1) = a + 1 + k := by omega
      rw [e, ih _ (a + 1) k (Memory.wf_set m a b hm) hk]
      rfl

theorem Memory.read_length (m : List Host.Cell) (a n : Nat) : (Memory.read m a n).length = n := by
  induction n generalizing a with
  | zero => rfl
  | succ n ih => simp [Memory.read, ih]

end Sys2Proof.Machine
end

