-- ==== Sys2Proof/Laws/Ways.lean ====
section
/-! SUPPORT. What the reads and checks before a commit leave alone: they send packets, fill caches and note who has read, and
touch no memory, no thread and no clause in flight. Each lemma speaks of any part of the state that those leave alone. -/
namespace Sys2Proof.Machine

/-- A part of the state that packets, sites, processors, numbers, requests and stores on their way do not hold. -/
structure Apart {γ : Type} (q : State → γ) : Prop where
  fabric : ∀ (s : State) k x n, q { s with packets := k, sites := x, nextId := n } = q s
  procs : ∀ (s : State) r, q { s with procs := r } = q s
  reqs : ∀ (s : State) r, q { s with reqs := r } = q s
  stores : ∀ (s : State) l, q { s with stores := l } = q s

theorem apart_mem : Apart State.mem := ⟨fun _ _ _ _ => rfl, fun _ _ => rfl, fun _ _ => rfl, fun _ _ => rfl⟩
theorem apart_poison : Apart State.poison := ⟨fun _ _ _ _ => rfl, fun _ _ => rfl, fun _ _ => rfl, fun _ _ => rfl⟩
theorem apart_threads : Apart State.threads := ⟨fun _ _ _ _ => rfl, fun _ _ => rfl, fun _ _ => rfl, fun _ _ => rfl⟩
theorem apart_flights : Apart State.flights := ⟨fun _ _ _ _ => rfl, fun _ _ => rfl, fun _ _ => rfl, fun _ _ => rfl⟩
theorem apart_stalled : Apart State.stalled := ⟨fun _ _ _ _ => rfl, fun _ _ => rfl, fun _ _ => rfl, fun _ _ => rfl⟩

section
variable {γ : Type} {q : State → γ} (h : Apart q)
include h

/-! Packets. -/

theorem emitPacket_keeps (s : State) (k : Packet) : q (s.emitPacket k) = q s := h.fabric s _ s.sites _
theorem sendPacket_keeps (s : State) (k : Packet) : q (s.sendPacket k) = q s := emitPacket_keeps h s _
theorem setPacket_keeps (s : State) (k : Packet) : q (s.setPacket k) = q s := h.fabric s _ s.sites s.nextId
theorem dropPacket_keeps (s : State) (id : Nat) : q (s.dropPacket id) = q s := h.fabric s _ _ s.nextId
theorem sendCopies_keeps (s : State) (k : Packet) (l : List Packet) : q (s.sendCopies k l) = q s :=
  foldl_keeps q _ (fun b _ => (h.fabric { b with reqs := _ } _ b.sites _).trans (h.reqs b _)) l s
theorem dropWays_keeps (s : State) (p : PId) (ctx : Nat) (c : PktKind → Bool) : q (s.dropWays p ctx c) = q s :=
  foldl_keeps q (fun (b : State) (k : Packet) => b.dropPacket k.id) (fun b k => dropPacket_keeps h b k.id) _ s
theorem askWay_keeps (s : State) (p : PId) (ctx gen : Nat) (kind : PktKind) (pa : Nat) :
    q (s.askWay p ctx gen kind pa).2 = q s := by
  unfold State.askWay; split
  · exact sendPacket_keeps h s _
  · rfl

/-! Translations and verdicts. -/

theorem apart_perfAdd (s : State) (p : PId) (ctx event n : Nat) : q (s.perfAdd p ctx event n) = q s :=
  perfAdd_keeps q (fun s _ _ => h.procs s _) s p ctx event n
theorem walkOn_keeps (s : State) (p : PId) (ctx root : Nat) (va : Word) : q (s.walkOn p ctx root va).2 = q s := by
  unfold State.walkOn; split
  · exact askWay_keeps h ..
  · exact dropWays_keeps h ..
theorem translate_keeps (s : State) (p : PId) (ctx : Nat) (va : Word) (k : AccKind) : q (s.translate p ctx va k).2 = q s := by
  unfold State.translate; extract_lets x
  split
  · rfl
  · next j _ =>
    have hw := walkOn_keeps h s p ctx (x.ctx j).ptroot.toNat va
    split
    · rfl
    · split
      · rfl
      · split
        · exact h.procs s _
        · split <;> rename_i e <;> rw [e] at hw
          · exact hw
          · exact (apart_perfAdd h ..).trans hw
          · exact (h.fabric _ _ _ _).trans ((h.procs _ _).trans ((apart_perfAdd h ..).trans hw))
theorem verdict_keeps (s : State) (t : TId) (ctx pa n : Nat) (k : AccKind) : q (s.verdict t ctx pa n k).2 = q s := by
  have hw := askWay_keeps h s t.p ctx (s.th t).gen (.access (s.th t).gen pa) pa
  unfold State.verdict; split <;> rename_i e <;> rw [e] at hw <;> exact hw
theorem place_keeps (s : State) (e : Env) (va : Word) (n : Nat) (k : AccKind) : q (s.place e va n k).2 = q s := by
  have ht := translate_keeps h s e.p e.t.ctx va k
  unfold State.place; split
  · next e => rw [e] at ht; split <;> exact ht
  · exact ht

/-! Reads before commit. -/

theorem noteRead_keeps (s : State) (t : TId) (gen before pa n : Nat) : q (s.noteRead t gen before pa n) = q s := by
  unfold State.noteRead; extract_lets note seen s'
  refine (h.stores s' _).trans ?_
  unfold s'; split
  · rfl
  · exact h.procs s _
theorem readHere_keeps (s : State) (t : TId) (extra : List Store) (pa n : Nat) : q (s.readHere t extra pa n).2 = q s := by
  unfold State.readHere; split
  · rfl
  · exact noteRead_keeps h ..
theorem readPage_keeps (s : State) (t : TId) (ctx : Nat) (extra : List Store) (va : Word) (n : Nat) :
    q (s.readPage t ctx extra va n).2 = q s := by
  have ht := translate_keeps h s t.p ctx va .read
  unfold State.readPage
  split <;> rename_i e <;> rw [e] at ht
  · exact ht
  · exact ht
  · exact ht
  · split
    · exact ht
    · have hv := verdict_keeps h ‹_› t ctx ‹_› n .read
      split <;> rename_i e2 <;> rw [e2] at hv
      · exact hv.trans ht
      · exact hv.trans ht
      · exact (readHere_keeps h ..).trans (hv.trans ht)
theorem readPages_keeps (t : TId) (ctx : Nat) (extra : List Store) : ∀ (f : Nat) (s : State) (va : Word) (n : Nat),
    q (s.readPages t ctx extra f va n).2 = q s
  | 0, _, _, _ => rfl
  | f + 1, s, va, n => by
    have h1 := readPage_keeps h s t ctx extra va (min n (8192 - va.toNat % 8192))
    unfold State.readPages; simp only
    split
    · next b p s' e =>
      rw [e] at h1
      split
      · exact h1
      · have h2 := readPages_keeps t ctx extra f s' (va + BitVec.ofNat 64 (min n (8192 - va.toNat % 8192)))
          (n - min n (8192 - va.toNat % 8192))
        split
        · next e2 => rw [e2] at h2; exact h2.trans h1
        · exact h2.trans h1
    · exact h1
theorem readVirt_keeps (s : State) (t : TId) (ctx : Nat) (extra : List Store) (va : Word) (n : Nat) :
    q (s.readVirt t ctx extra va n).2 = q s := readPages_keeps h ..

/-! The parts of a memory instruction. -/

theorem loadParts_keeps (e : Env) (copies inv rc : Bool) : ∀ (t : List (Word × Nat)) (s : State),
    q (s.loadParts e copies inv rc t).2 = q s
  | [], _ => rfl
  | (va, n) :: t, s => by
    have hp := place_keeps h s e va n .read
    unfold State.loadParts
    split
    · rfl
    · split <;> rename_i e1 <;> rw [e1] at hp
      · exact hp
      · exact hp
      · exact hp
      · next pa nc u =>
        extract_lets cached x
        have hv : ∀ r, (if u.near e.tid e.t.ctx x = true then (Verd.pass, u) else u.verdict e.tid e.t.ctx pa n .read) = r →
            q r.2 = q s := by
          intro r hr; subst hr; split
          · exact hp
          · exact (verdict_keeps h ..).trans hp
        split <;> rename_i e2 <;> have h2 := hv _ e2
        · exact h2
        · exact h2
        · have h3 := loadParts_keeps e copies inv rc t ‹_›
          split
          · next e3 => rw [e3] at h3; exact h3.trans h2
          · exact h3.trans h2
theorem storeParts_keeps (e : Env) (rel : Option Nat) : ∀ (t : List (Word × List Byte)) (s : State),
    q (s.storeParts e rel t).2 = q s
  | [], _ => rfl
  | (va, b) :: t, s => by
    have hp := place_keeps h s e va b.length .write
    unfold State.storeParts
    split
    · rfl
    · split <;> rename_i e1 <;> rw [e1] at hp
      · exact hp
      · exact hp
      · exact hp
      · split
        · exact hp
        · have h3 := storeParts_keeps e rel t ‹_›
          split
          · next e3 => rw [e3] at h3; exact h3.trans hp
          · exact h3.trans hp
theorem rmwPart_keeps (s : State) (e : Env) (va : Word) (n : Nat) (lc rl : Bool) : q (s.rmwPart e va n lc rl).2 = q s := by
  have hp := place_keeps h s e va n .rmw
  unfold State.rmwPart
  split
  · rfl
  · split <;> rename_i e1 <;> rw [e1] at hp
    · exact hp
    · exact hp
    · exact hp
    · next pa nc u =>
      split
      · exact hp
      · have hv : ∀ r, (if lc = true then u.verdict e.tid e.t.ctx pa n .rmw else (Verd.pass, u)) = r → q r.2 = q s := by
          intro r hr; subst hr; split
          · exact (verdict_keeps h ..).trans hp
          · exact hp
        split <;> rename_i e2 <;> exact hv _ e2

end

end Sys2Proof.Machine
end

