-- ==== Sys2Proof/Laws/Keeps.lean ====
section
/-! SUPPORT. Which shared operations leave memory alone, said once for each: events and logs, threads and bands, links,
translations, tables of the slot scheduler, control space, deferred responses, engines, packets. Those that write it
keep its canonical form. -/
namespace Sys2Proof.Machine

/-! Events and logs. -/

@[simp] theorem raise_mem (s : State) (gs kind core lane slot ctx data : Nat) :
    (s.raise gs kind core lane slot ctx data).mem = s.mem := by
  unfold State.raise; simp only; split <;> rfl
@[simp] theorem raiseTh_mem (s : State) (t : TId) (kind data : Nat) : (s.raiseTh t kind data).mem = s.mem := raise_mem ..
@[simp] theorem health_mem (s : State) (gs c i : Nat) : (s.health gs c i).mem = s.mem := raise_mem ..
@[simp] theorem logErr_mem (s : State) (gs kind sev ctx core lane slot other : Nat) (a : Word) (count detail : Nat) :
    (s.logErr gs kind sev ctx core lane slot other a count detail).mem = s.mem := by
  unfold State.logErr; simp only; split
  · rfl
  · split <;> rfl
@[simp] theorem logTh_mem (s : State) (t : TId) (kind sev : Nat) (a : Word) (count detail : Nat) :
    (s.logTh t kind sev a count detail).mem = s.mem := logErr_mem ..
@[simp] theorem perfAdd_mem (s : State) (p : PId) (ctx event n : Nat) : (s.perfAdd p ctx event n).mem = s.mem := by
  unfold State.perfAdd; split
  · rfl
  · split <;> rfl

/-! Threads, rejoin registers and barrier objects. -/

@[simp] theorem wake_mem (s : State) (t : TId) : (s.wake t).mem = s.mem := rfl
@[simp] theorem park_mem (s : State) (t : TId) (w : Wait) : (s.park t w).mem = s.mem := rfl
@[simp] theorem noteAcquire_mem (s : State) (p : PId) (scope : Nat) : (s.noteAcquire p scope).mem = s.mem := by
  unfold State.noteAcquire; simp only; split <;> split <;> rfl
@[simp] theorem acquire_mem (s : State) (t : TId) (scope : Nat) : (s.acquire t scope).mem = s.mem := noteAcquire_mem ..
@[simp] theorem setRj_mem (s : State) (p : PId) (row j : Nat) (a b : BitVec 32) : (s.setRj p row j a b).mem = s.mem := rfl
@[simp] theorem rjCheck_mem (s : State) (p : PId) (row j : Nat) : (s.rjCheck p row j).mem = s.mem := by
  unfold State.rjCheck; simp only; split
  · rw [setRj_mem]; exact foldl_keeps State.mem _ (by intro b a; split <;> rfl) _ _
  · rfl
@[simp] theorem rjStrike_mem (s : State) (p : PId) (row j lane : Nat) : (s.rjStrike p row j lane).mem = s.mem := by
  simp [State.rjStrike]
@[simp] theorem strikeAll_mem (s : State) (t : TId) : (s.strikeAll t).mem = s.mem :=
  foldl_keeps State.mem _ (by intro b a; split <;> simp) _ _
@[simp] theorem setBar_mem (s : State) (p : PId) (b : BandRef) (i : Nat) (x : Bar) : (s.setBar p b i x).mem = s.mem := rfl
@[simp] theorem wakeBar_mem (s : State) (p : PId) (b : BandRef) (i scope : Nat) (gen : BitVec 32) :
    (s.wakeBar p b i scope gen).mem = s.mem := foldl_keeps State.mem _ (by intros; simp) _ _
@[simp] theorem tryComplete_mem (s : State) (p : PId) (b : BandRef) (i : Nat) : (s.tryComplete p b i).mem = s.mem := by
  unfold State.tryComplete; split
  · rfl
  · split <;> simp
@[simp] theorem barArrive_mem (s : State) (p : PId) (b : BandRef) (i scope : Nat) : (s.barArrive p b i scope).mem = s.mem := by
  unfold State.barArrive; split <;> simp
@[simp] theorem barPost_mem (s : State) (p : PId) (b : BandRef) (i n scope : Nat) : (s.barPost p b i n scope).mem = s.mem := by
  unfold State.barPost; split <;> simp
@[simp] theorem timelineDone_mem (s : State) (p : PId) (ctx tl num : Nat) (v : Word) :
    (s.timelineDone p ctx tl num v).mem = s.mem := by
  unfold State.timelineDone; split
  · rfl
  · exact (foldl_keeps State.mem _ (by intros; simp) _ _).trans rfl
@[simp] theorem takeNumber_mem (s : State) (p : PId) (ctx tl : Nat) : (s.takeNumber p ctx tl).2.mem = s.mem := by
  unfold State.takeNumber; split <;> rfl

/-! The life of a thread and of a band. -/

@[simp] theorem create_mem (s : State) (t : TId) (ctx entry : Nat) (pc : Word) (f : Thread → Thread) :
    (s.create t ctx entry pc f).mem = s.mem := rfl
@[simp] theorem freeIfDrained_mem (s : State) (t : TId) : (s.freeIfDrained t).mem = s.mem := by
  unfold State.freeIfDrained; simp only; split <;> rfl
@[simp] theorem sbDec_mem (s : State) (t : TId) (gen : Nat) (sb : Option Nat) : (s.sbDec t gen sb).mem = s.mem := by
  unfold State.sbDec; split
  · rfl
  · split <;> simp
@[simp] theorem endBand_mem (s : State) (p : PId) (b : BandRef) (ctx : Nat) (killed : Bool) : (s.endBand p b ctx killed).mem = s.mem := by
  unfold State.endBand; simp only; split
  · rfl
  · refine (foldl_keeps State.mem _ (by intros; rfl) _ _).trans ?_
    split <;> rfl
@[simp] theorem leaveBand_mem (s : State) (t : TId) : (s.leaveBand t).mem = s.mem := by
  unfold State.leaveBand; split
  · rfl
  · simp only; split
    · rfl
    · simp only [State.modTh_mem]; split <;> simp
@[simp] theorem joinBand_mem (s : State) (t : TId) (b : BandRef) : (s.joinBand t b).mem = s.mem := by
  unfold State.joinBand; simp only; split <;> rfl
@[simp] theorem newBand_mem (s : State) (p : PId) (k : Nat) (c : BitVec 48) (e : Nat) : (s.newBand p k c e).2.mem = s.mem := rfl
@[simp] theorem handlerEnd_mem (s : State) (t : TId) (err : Bool) (code : Nat) : (s.handlerEnd t err code).mem = s.mem := by
  unfold State.handlerEnd; split <;> rfl
@[simp] theorem exitErr_mem (s : State) (t : TId) : (s.exitErr t).mem = s.mem := by
  unfold State.exitErr; simp only; split <;> simp
@[simp] theorem retire_mem (s : State) (t : TId) (err : Bool) (code : Nat) : (s.retire t err code).mem = s.mem := by
  simp [State.retire]
@[simp] theorem killThread_mem (s : State) (t : TId) : (s.killThread t).mem = s.mem := by
  unfold State.killThread; split
  · rfl
  · simp only [State.setTh_mem]; split <;> simp
@[simp] theorem killBand_mem (s : State) (p : PId) (b : BandRef) : (s.killBand p b).mem = s.mem := by
  unfold State.killBand; split
  · rfl
  · rw [endBand_mem]; exact foldl_keeps State.mem _ (by intros; simp) _ _

/-! Traps. -/

@[simp] theorem holdThread_mem (s : State) (t : TId) (why : Nat) : (s.holdThread t why).mem = s.mem := rfl
@[simp] theorem pendTrap_mem (s : State) (t : TId) (c : Nat) (i : Word) : (s.pendTrap t c i).mem = s.mem := rfl
@[simp] theorem doubleFault_mem (s : State) (t : TId) (c f : Nat) : (s.doubleFault t c f).mem = s.mem := by
  simp [State.doubleFault]
@[simp] theorem setPacket_mem (s : State) (k : Packet) : (s.setPacket k).mem = s.mem := rfl
@[simp] theorem emitPacket_mem (s : State) (k : Packet) : (s.emitPacket k).mem = s.mem := rfl
@[simp] theorem sendPacket_mem (s : State) (k : Packet) : (s.sendPacket k).mem = s.mem := rfl
@[simp] theorem dropPacket_mem (s : State) (id : Nat) : (s.dropPacket id).mem = s.mem := rfl
@[simp] theorem dropWays_mem (s : State) (p : PId) (ctx : Nat) (c : PktKind → Bool) : (s.dropWays p ctx c).mem = s.mem :=
  dropWays_keeps apart_mem ..
@[simp] theorem dropAsks_mem (s : State) (t : TId) : (s.dropAsks t).mem = s.mem := dropWays_mem ..
@[simp] theorem askWay_mem (s : State) (p : PId) (ctx gen : Nat) (kind : PktKind) (pa : Nat) :
    (s.askWay p ctx gen kind pa).2.mem = s.mem := askWay_keeps apart_mem ..
@[simp] theorem translate_mem (s : State) (p : PId) (ctx : Nat) (va : Word) (k : AccKind) :
    (s.translate p ctx va k).2.mem = s.mem := translate_keeps apart_mem ..
@[simp] theorem verdict_mem (s : State) (t : TId) (ctx pa n : Nat) (k : AccKind) : (s.verdict t ctx pa n k).2.mem = s.mem :=
  verdict_keeps apart_mem ..
@[simp] theorem readVirt_mem (s : State) (t : TId) (ctx : Nat) (extra : List Store) (va : Word) (n : Nat) :
    (s.readVirt t ctx extra va n).2.mem = s.mem := readVirt_keeps apart_mem ..
@[simp] theorem readVector_mem (s : State) (t : TId) (cause : Nat) : (s.readVector t cause).2.mem = s.mem := by
  unfold State.readVector; simp only; split <;> simp
@[simp] theorem saveTrap_mem (s : State) (t : TId) (cause idx : Nat) (info : Word) (async : Bool) :
    (s.saveTrap t cause idx info async).mem = s.mem := perfAdd_mem ..
@[simp] theorem deliver_mem (s : State) (t : TId) (cause idx : Nat) (info : Word) (async : Bool) :
    (s.deliver t cause idx info async).mem = s.mem := by
  have hr := readVector_mem s t cause
  unfold State.deliver
  split
  · split <;> simp
  · split <;> rename_i e <;> rw [e] at hr
    · exact hr
    · exact hr
    · simpa using hr
    · simp only
      split
      · simpa using hr
      · split <;> simpa using hr

/-! Commits. -/

@[simp] theorem commitLane_mem (s : State) (f : Flight) (l : LaneRun) : (s.commitLane f l).1.mem = s.mem :=
  committed_mem s f l
@[simp] theorem putG_mem (s : State) (t : TId) (n : BitVec 6) (v : Word) : (s.putG t n v).mem = s.mem := rfl
@[simp] theorem missL1_mem (s : State) (t : TId) (ctx pa : Nat) : (s.missL1 t ctx pa).mem = s.mem :=
  missL1_keeps State.mem (fun _ _ _ => rfl) ..
@[simp] theorem fillLine_mem (s : State) (p : PId) (pa row : Nat) (far : Bool) : (s.fillLine p pa row far).mem = s.mem :=
  fillLine_keeps State.mem (fun _ _ _ => rfl) (fun _ _ _ => rfl) ..
@[simp] theorem setLane_mem (s : State) (l : LaneRun) : (s.setLane l).mem = s.mem := by
  unfold State.setLane; split <;> rfl
@[simp] theorem nextWord_mem (s : State) : s.nextWord.mem = s.mem := by unfold State.nextWord; split <;> rfl
@[simp] theorem mapLanes_mem (s : State) (g : Flight → LaneRun → LaneRun) : (s.mapLanes g).mem = s.mem := by
  unfold State.mapLanes; split <;> rfl

/-- Whatever a per-lane function keeps of memory, its run over the lanes keeps. -/
theorem foldLanes_mem (s : State) (order : List LaneRun → List LaneRun) (g : State → Flight → LaneRun → State × LaneRun)
    (h : ∀ u f l, (g u f l).1.mem = u.mem) : (s.foldLanes order g).mem = s.mem := by
  unfold State.foldLanes
  split
  · rfl
  · rw [nextWord_mem]
    refine foldl_keeps State.mem _ (fun b a => ?_) _ _
    split
    · split
      · rw [setLane_mem]; exact h _ _ _
      · rfl
    · rfl
@[simp] theorem orPause_mem (s s' : State) : (s.orPause s').mem = s'.mem := by
  unfold State.orPause; split
  · split <;> rfl
  · rfl
/-- A run of actions or of lanes keeps memory when what it does before commit and at commit does. -/
theorem runActs_mem (s : State) (pn : Bool) (pr : BitVec 3) (f : State → Env → ARes × State)
    (h : ∀ u e, (f u e).2.mem = u.mem) : (s.runActs pn pr f).mem = s.mem := by
  refine (orPause_mem ..).trans (foldLanes_mem s id _ fun u x l => ?_)
  have h := h u ⟨u, x, l⟩
  simp only
  split
  · rfl
  · split
    · rfl
    · split <;> simp_all
theorem runEnd_mem (s : State) (pn : Bool) (pr : BitVec 3) (order : List LaneRun → List LaneRun)
    (check : State → Env → Option (Nat × Word)) (effect : State → Env → State) (h : ∀ u e, (effect u e).mem = u.mem) :
    (s.runEnd pn pr order check effect).mem = s.mem := by
  refine foldLanes_mem s order _ fun u x l => ?_
  simp only
  split
  · rfl
  · split
    · rfl
    · exact (h _ _).trans (commitLane_mem ..)
theorem runLanes_mem (s : State) (pn : Bool) (pr : BitVec 3) (order : List LaneRun → List LaneRun)
    (f : State → Env → LRes × State) (h : ∀ u e, (f u e).2.mem = u.mem)
    (hg : ∀ u e go v, f u e = (.ok go, v) → ∀ w : State, (go w).mem = w.mem) : (s.runLanes pn pr order f).mem = s.mem := by
  refine foldLanes_mem s order _ fun u x l => ?_
  have h1 := h u ⟨u, x, l⟩
  have h2 := hg u ⟨u, x, l⟩
  simp only
  split
  · rfl
  · split <;> rename_i he <;> rw [he] at h1
    · exact (h2 _ _ he _).trans ((commitLane_mem ..).trans h1)
    · exact h1
    · exact h1
    · exact h1
    · exact h1

/-! Links. -/

@[simp] theorem setLink_mem (s : State) (gs p k : Nat) (l : Link) : (s.setLink gs p k l).mem = s.mem := rfl
@[simp] theorem moveRetry_mem (s : State) (gs p k : Nat) : (s.moveRetry gs p k).mem = s.mem := by
  unfold State.moveRetry; simp only; split
  · rfl
  · exact foldl_keeps State.mem _ (by intros; rfl) _ _
@[simp] theorem adoptFlits_mem (s : State) (gs p : Nat) : (s.adoptFlits gs p).mem = s.mem :=
  foldl_keeps State.mem _ (by intro b a; simp only; split <;> simp) _ _
@[simp] theorem linkTo_mem (s : State) (gs p k : Nat) (st : LinkSt) (w : Nat) (f : Link → Link) :
    (s.linkTo gs p k st w f).mem = s.mem := by
  have h (u : State) : (if st.isUp then u.adoptFlits gs p else u).mem = u.mem := by split <;> simp
  unfold State.linkTo; simp only; split
  · rw [h]; rfl
  · rw [logErr_mem, raise_mem, h]; rfl
@[simp] theorem leaveUp_mem (s : State) (gs p k : Nat) (st : LinkSt) (f : Link → Link) :
    (s.leaveUp gs p k st f).mem = s.mem := by
  unfold State.leaveUp; rw [linkTo_mem]; split <;> simp
@[simp] theorem trainLink_mem (s : State) (gs p k : Nat) : (s.trainLink gs p k).mem = s.mem := by
  unfold State.trainLink; split
  · rfl
  · split <;> simp
@[simp] theorem downLink_mem (s : State) (gs p k : Nat) : (s.downLink gs p k).mem = s.mem := by
  unfold State.downLink; split
  · rfl
  · split <;> simp

/-! The slot table. -/

@[simp] theorem setEntry_mem (s : State) (p : PId) (e : Nat) (n : Entry) : (s.setEntry p e n).mem = s.mem := rfl
@[simp] theorem bindEvent_mem (s : State) (p : PId) (e ctx : Nat) (st : ESt) : (s.bindEvent p e ctx st).mem = s.mem :=
  raise_mem ..
@[simp] theorem moveEntry_mem (s : State) (p : PId) (e : Nat) (st : ESt) : (s.moveEntry p e st).mem = s.mem :=
  (bindEvent_mem ..).trans rfl
@[simp] theorem stopUnits_mem (s : State) (p : PId) (e : Nat) : (s.stopUnits p e).mem = s.mem :=
  foldl_keeps State.mem _ (by intro b a; split <;> rfl) _ _
@[simp] theorem stopEntry_mem (s : State) (p : PId) (e : Nat) : (s.stopEntry p e).mem = s.mem := by
  unfold State.stopEntry; split <;> simp
@[simp] theorem contend_mem (s : State) (p : PId) : (s.contend p).mem = s.mem :=
  foldl_keeps State.mem _ (by intros; simp) _ _
@[simp] theorem entryStopped_mem (s : State) (p : PId) (e : Nat) : (s.entryStopped p e).mem = s.mem := by
  unfold State.entryStopped; split
  · rfl
  · simp only; split <;> simp
@[simp] theorem launchBand_mem (s : State) (p : PId) (e : Nat) (c : BitVec 48) (m : List TId) :
    (s.launchBand p e c m).mem = s.mem := by
  unfold State.launchBand; split
  · rfl
  · exact foldl_keeps State.mem _ (by intros; simp) _ _
@[simp] theorem launchBands_mem (p : PId) (e : Nat) (rec : List Byte) (c : Nat) : ∀ (n : Nat) (s : State) (j : Nat)
    (ts : List TId), (s.launchBands p e rec c n j ts).mem = s.mem
  | 0, _, _, _ => rfl
  | n + 1, s, j, ts => by
    unfold State.launchBands; simp only; rw [launchBands_mem p e rec c n, launchBand_mem]
@[simp] theorem rename_mem (s : State) (a b : TId) : (s.rename a b).mem = s.mem := rfl
@[simp] theorem unscanThread_mem (s : State) (t : TId) : (s.unscanThread t).mem = s.mem := by
  unfold State.unscanThread
  rfl
@[simp] theorem cancelOps_mem (s : State) (c : Op → Bool) : (s.cancelOps c).mem = s.mem := rfl
@[simp] theorem failMove_mem (s : State) (p : PId) (c : Move → Bool) : (s.failMove p c).mem = s.mem := rfl
@[simp] theorem killEntry_mem (s : State) (p : PId) (e : Nat) : (s.killEntry p e).mem = s.mem := by
  unfold State.killEntry; simp only; split
  · rfl
  · rw [cancelOps_mem]
    refine (foldl_keeps State.mem _ (by intros; simp) _ _).trans ?_
    exact (foldl_keeps State.mem _ (by intros; simp) _ _).trans rfl
@[simp] theorem killDone_mem (s : State) (p : PId) (e : Nat) : (s.killDone p e).mem = s.mem := by
  unfold State.killDone; simp only; split <;> simp
@[simp] theorem entryDone_mem (s : State) (p : PId) (e : Nat) : (s.entryDone p e).mem = s.mem := by
  unfold State.entryDone; simp only; split <;> simp
@[simp] theorem quantumExpiry_mem (s : State) (p : PId) (e : Nat) : (s.quantumExpiry p e).mem = s.mem := by
  unfold State.quantumExpiry; simp only; split <;> simp
@[simp] theorem killContext_mem (s : State) (gs x : Nat) : (s.killContext gs x).mem = s.mem := by
  unfold State.killContext; simp only; split
  · rfl
  · refine (foldl_keeps State.mem _ (fun b p => ?_) _ _).trans rfl
    rw [cancelOps_mem]
    refine (foldl_keeps State.mem _ (by intros; simp) _ _).trans ?_
    refine (foldl_keeps State.mem _ (by intros; simp) _ _).trans ?_
    exact (foldl_keeps State.mem _ (by intros; simp) _ _).trans rfl
@[simp] theorem freeContext_mem (s : State) (gs x : Nat) : (s.freeContext gs x).mem = s.mem := by
  unfold State.freeContext; simp only; split <;> rfl
@[simp] theorem createContext_mem (s : State) (gs x : Nat) : (s.createContext gs x).mem = s.mem := by
  unfold State.createContext; simp only; split <;> rfl

/-! Control space: a register of a unit is no memory. -/

@[simp] theorem writeWindow_mem (s : State) (gs row entry : Nat) (hi : Bool) (v : Word) :
    (s.writeWindow gs row entry hi v).mem = s.mem := rfl
@[simp] theorem scrubStart_mem (s : State) (gs : Nat) : (s.scrubStart gs).mem = s.mem := by
  unfold State.scrubStart; simp only; split <;> rfl
@[simp] theorem setNorm_mem (s : State) (gs k : Nat) (f : Norm → Norm) : (s.setNorm gs k f).mem = s.mem := rfl
@[simp] theorem normZero_mem (s : State) (gs k : Nat) : (s.normZero gs k).mem = s.mem := rfl
@[simp] theorem writeCtx_mem (s : State) (gs x k : Nat) (v : Word) : (s.writeCtx gs x k v).mem = s.mem := by
  unfold State.writeCtx; simp only
  split
  · split
    · rw [createContext_mem]; split <;> rfl
    · rw [killContext_mem]; split <;> rfl
    · split <;> rfl
  all_goals rfl
@[simp] theorem raiseLaunch_mem (s : State) (gs w : Nat) : (s.raiseLaunch gs w).mem = s.mem := by
  unfold State.raiseLaunch; simp only; split <;> simp
@[simp] theorem watchHit_mem (s : State) (pa n : Nat) : (s.watchHit pa n).mem = s.mem := by
  unfold State.watchHit; simp only; split
  · exact foldl_keeps State.mem _ (by intro b a; split <;> simp) _ _
  · rfl
@[simp] theorem resumeThread_mem (s : State) (t : TId) : (s.resumeThread t).mem = s.mem := by
  unfold State.resumeThread; simp only; split <;> rfl
@[simp] theorem writePc_mem (s : State) (t : TId) (v : Word) : (s.writePc t v).mem = s.mem := by
  unfold State.writePc; simp only; split <;> rfl
@[simp] theorem post_mem (s : State) (o : Op) (n : Nat) : (s.post o n).mem = s.mem := by
  unfold State.post; split
  · split <;> simp
  · rfl
@[simp] theorem postUnits_mem (o : Op) : ∀ (n : Nat) (s : State), (s.postUnits o n).mem = s.mem
  | 0, _ => rfl
  | n + 1, s => by unfold State.postUnits; rw [postUnits_mem o n, post_mem]
@[simp] theorem killShown_mem (s : State) (p : PId) (k : Nat) : (s.killShown p k).mem = s.mem := by
  unfold State.killShown; split <;> simp
@[simp] theorem measure_mem (s : State) (gs k : Nat) : (s.measure gs k).mem = s.mem := rfl
@[simp] theorem writeEol_mem (s : State) (gs : Nat) (v : Word) : (s.writeEol gs v).mem = s.mem := by
  unfold State.writeEol; simp only; split <;> simp
@[simp] theorem writeLog_mem (s : State) (gs k w : Nat) (v : Word) : (s.writeLog gs k w v).mem = s.mem := by
  unfold State.writeLog; simp only
  repeat' split
  all_goals rfl
@[simp] theorem writeHealth_mem (s : State) (gs off : Nat) (v : Word) (src : Option PId) : (s.writeHealth gs off v src).mem = s.mem := by
  unfold State.writeHealth; simp only
  repeat' split
  all_goals simp
@[simp] theorem faultAnswer_mem (s : State) (p : PId) (slot : Nat) (ab : Bool) : (s.faultAnswer p slot ab).mem = s.mem := by
  unfold State.faultAnswer; split
  · rfl
  · simp only; split
    · exact (foldl_keeps State.mem _ (fun b a => postUnits_mem ..) _ _).trans rfl
    · rfl
@[simp] theorem writeProc_mem (s : State) (p : PId) (off : Nat) (v : Word) : (s.writeProc p off v).mem = s.mem := by
  unfold State.writeProc; simp only
  repeat' split
  all_goals simp
/-- A choice between two states keeps what both keep. -/
theorem ite_keeps_mem {p : Prop} [Decidable p] {a b s : State} (ha : a.mem = s.mem) (hb : b.mem = s.mem) :
    (if p then a else b).mem = s.mem := by
  split
  · exact ha
  · exact hb
@[simp] theorem ctlWrite_mem (s : State) (gs a : Nat) (v : Word) (src : Option PId) : (s.ctlWrite gs a v src).mem = s.mem := by
  unfold State.ctlWrite; extract_lets o c
  repeat' (with_reducible refine ite_keeps_mem ?_ ?_)
  all_goals with_reducible first
    | exact State.modSite_mem ..
    | exact writeWindow_mem ..
    | exact writeCtx_mem ..
    | exact writeProc_mem ..
    | exact writeHealth_mem ..
    | exact (scrubStart_mem ..).trans (ite_keeps_mem (State.modSite_mem ..) rfl)
    | exact ite_keeps_mem (State.modSite_mem ..) rfl
    | (split <;> first | rfl | exact setNorm_mem .. | exact normZero_mem .. | exact trainLink_mem .. | exact downLink_mem ..)
    | rfl
@[simp] theorem ctlStore_mem (gs : Nat) (src : Option PId) : ∀ (n : Nat) (s : State) (a : Nat) (b : List Byte),
    (s.ctlStore gs a src b n).mem = s.mem
  | 0, _, _, _ => by unfold State.ctlStore; rfl
  | n + 1, s, a, b => by unfold State.ctlStore; rw [ctlStore_mem gs src n, ctlWrite_mem]

/-! The two operations that write memory: each keeps the canonical form, and says what memory becomes. -/

@[simp] theorem breakPromises_mem (s : State) (pa n : Nat) : (s.breakPromises pa n).mem = s.mem := by
  unfold State.breakPromises; simp only; split <;> rfl
theorem writeBytes_mem (s : State) (pa : Nat) (b : List Byte) (q : Bool) :
    (s.writeBytes pa b q).mem = Memory.write s.mem pa b := by
  unfold State.writeBytes; extract_lets x y z
  have hy : y.mem = Memory.write s.mem pa b := by
    unfold y; split <;> rfl
  have hz : z.mem = y.mem := ite_keeps_mem (State.modSite_mem ..) rfl
  rw [breakPromises_mem, hz, hy]
theorem writeMem_mem (s : State) (pa : Nat) (b : List Byte) (q : Bool) :
    (s.writeMem pa b q).mem = Memory.write s.mem pa b := by
  unfold State.writeMem; rw [watchHit_mem, writeBytes_mem]
theorem writeMem_wf (s : State) (pa : Nat) (b : List Byte) (q : Bool) (h : Memory.wf s.mem = true) :
    Memory.wf (s.writeMem pa b q).mem = true := by
  rw [writeMem_mem]; exact Memory.wf_write b s.mem pa h
theorem saveBytes_wf (s : State) (p : PId) (ctx off : Nat) (b : List Byte) (h : Memory.wf s.mem = true) :
    Memory.wf (s.saveBytes p ctx off b).mem = true := by
  unfold State.saveBytes; split
  · exact Memory.wf_write b s.mem _ h
  · exact h

end Sys2Proof.Machine
end

