-- ==== Sys2Proof/Tests/Slice0.lean ====
section
/-! SUPPORT. Tests: ill-formed terms that WellFormed refuses, words of every family decoded, single steps with results taken
from the spec, and for the statements with hypotheses states and operands that meet them. -/
namespace Sys2Proof.Tests
open Sys2Proof.Machine

/-! Ill-formed terms, one for each check. -/

def r (n : BitVec 6) : Src := .reg n
/-- A basic word with guard p7. -/
def bf (dst a b c : BitVec 6) : BForm := ⟨false, 7, dst, false, r a, r b, r c⟩
/-- A memory word with guard p7 and scoreboard 0. -/
def mf (dst a b : BitVec 6) (sbe : Bool) (off : BitVec 20) : MForm := ⟨false, 7, dst, r a, r b, 0, 0, false, false, sbe, 0, off⟩
/-- A queue-format word with guard p7. -/
def qf (dst a b c : BitVec 6) (sbe : Bool) : QForm := ⟨false, 7, dst, r a, r b, r c, sbe, 0⟩
def im : IntMod := ⟨0, 0, 0, false, false, false, false⟩
def fm : FltMod := ⟨false, false, .f32, .f32, 0, false, .dyn⟩
def wm : WideMod := ⟨.f32, .f32, .dyn, false, false, false, 0, 0⟩
def mm : MomMod := ⟨.dyn, 0, false, 0⟩

theorem test_ill_destination : (Instr.iadd (bf 32 1 2 0) im).wellFormed = false := by decide
theorem test_ill_source : (Instr.iadd (bf 1 58 2 0) im).wellFormed = false := by decide
theorem test_ill_predicate_seven : (Instr.icmp (bf 7 1 2 0) im).wellFormed = false := by decide
theorem test_ill_wide_number : (Instr.wadd (bf 1 16 2 0) wm).wellFormed = false := by decide
theorem test_ill_moment_number : (Instr.madd (bf 8 1 2 0) mm).wellFormed = false := by decide
theorem test_ill_unread_field : (Instr.iadd (bf 1 2 3 4) im).wellFormed = false := by decide
theorem test_ill_nw_destination : (Instr.iadd { bf 1 2 3 0 with nw := true } im).wellFormed = false := by decide
theorem test_ill_nw_control : (Instr.exit { bf 0 0 0 0 with nw := true }).wellFormed = false := by decide
theorem test_ill_int_mod : (Instr.imul (bf 1 2 3 0) { im with sat := true }).wellFormed = false := by decide
theorem test_ill_pos_without_i : (Instr.shl (bf 1 2 3 0) { im with pos := 3 }).wellFormed = false := by decide
theorem test_ill_lea_unsigned : (Instr.lea (bf 1 2 3 0) { im with u := true }).wellFormed = false := by decide
theorem test_ill_condition : (Instr.icmp (bf 1 2 3 0) { im with cond := 6 }).wellFormed = false := by decide
theorem test_ill_long_condition : (Instr.icmpImm ⟨false, 7, 1, false, r 2, 0xA0000000⟩).wellFormed = false := by decide
theorem test_ill_field_length : (Instr.bfx (bf 1 2 0 0) { im with pos := 32, lenm1 := 0, w := true }).wellFormed = false := by decide
theorem test_ill_segment : (Instr.shfl (bf 1 2 3 0) 0 6).wellFormed = false := by decide
theorem test_ill_float_mod : (Instr.fmin (bf 1 2 3 0) { fm with rnd := .rz }).wellFormed = false := by decide
theorem test_ill_fcmp : (Instr.fcmp (bf 1 2 3 0) { fm with cond := 8 }).wellFormed = false := by decide
theorem test_ill_fcvt_format : (Instr.fcvt (bf 1 2 0 0) { fm with fmt := .i8 }).wellFormed = false := by decide
theorem test_ill_flush : (Instr.fcvt (bf 1 2 0 0) { fm with fmt2 := .f16, ftz := true }).wellFormed = false := by decide
theorem test_ill_wide_format : (Instr.wadd (bf 1 2 3 0) { wm with fmt := .i4 }).wellFormed = false := by decide
theorem test_ill_scale_choice : (Instr.wadd (bf 1 2 3 0) { wm with sc := true }).wellFormed = false := by decide
theorem test_ill_element : (Instr.wext (bf 1 2 0 0) { wm with idx := 8 }).wellFormed = false := by decide
theorem test_ill_group : (Instr.wqnt (bf 1 15 0 0) { wm with fmt2 := .e4m3 }).wellFormed = false := by decide
theorem test_ill_moment_mod : (Instr.mmul (bf 1 2 3 0) { mm with n := true }).wellFormed = false := by decide
theorem test_ill_moment_form : (Instr.mmov (bf 1 2 0 0) { mm with fn := 3 }).wellFormed = false := by decide
theorem test_ill_load_scoreboard : (Instr.ld64 (mf 1 2 0 false 0)).wellFormed = false := by decide
theorem test_ill_load_order : (Instr.ld64 { mf 1 2 0 true 0 with ord := 2 }).wellFormed = false := by decide
theorem test_ill_inv_rc : (Instr.ld64 { mf 1 2 0 true 0 with inv := true, rc := true }).wellFormed = false := by decide
theorem test_ill_atomic_op : (Instr.red (mf 0 2 3 false 8)).wellFormed = false := by decide
theorem test_ill_ratom_type : (Instr.ratom (mf 0 2 3 true 24)).wellFormed = false := by decide
theorem test_ill_norm_format : (Instr.stn (mf 48 2 3 false 0)).wellFormed = false := by decide
theorem test_ill_fence_scoreboard : (Instr.fence { qf 0 0 0 0 false with sb := 1 } 0 0).wellFormed = false := by decide
theorem test_ill_bred_part : (Instr.bred (qf 0 1 2 0 false) .e4m3 1).wellFormed = false := by decide
theorem test_ill_span : (Instr.talloc (qf 1 0 0 0 false) 6).wellFormed = false := by decide
theorem test_ill_burst_size : (Instr.bread (qf 1 2 4 3 true) 0 3 0 0 false).wellFormed = false := by decide
theorem test_ill_burst_group : (Instr.bread (qf 1 2 29 3 true) 0 0 0 0 false).wellFormed = false := by decide
theorem test_ill_acrd_format : (Instr.acrd (qf 1 2 3 0 true) .e4m3 .dyn 0 false 0).wellFormed = false := by decide
theorem test_ill_plane_format : (Instr.xlds 1 .f32 false).wellFormed = false := by decide
theorem test_ill_zero_mode : (Instr.xzero 1 false true).wellFormed = false := by decide
theorem test_ill_dual_format : (Instr.xdual 1 2 0 1 .e4m3 false false false).wellFormed = false := by decide
theorem test_ill_put_size : (Instr.rput (mf 3 2 0 false 0)).wellFormed = false := by decide
theorem test_ill_wait_mode : (Instr.pwait (qf 0 1 0 0 false) 0 3).wellFormed = false := by decide
theorem test_ill_invalidation : (Instr.tlbi (bf 0 1 0 0) 3 false).wellFormed = false := by decide
theorem test_ill_event : (Instr.scrubGo 0).wellFormed = false := by decide

/-! Words written out from the encoding tables, each with the rule of its layout. -/

/-- R41, R149: FFMA.RZ g9, g8, g7, g6: OP 0x83, PRED 7, DST 9, SRCA 8, SRCB 7, SRCC 6, RND 2. -/
theorem test_word_ffma : decodeWord .s 0x8372420386000002 = .ok (.ffma (bf 9 8 7 6) { fm with rnd := .rz }) := rfl
/-- R41, R44, R149: FCVT of b0 from FP32 to E4M3 with FTZ into g1: SRCA 0x40, FMT2 3, FTZ. -/
theorem test_word_fcvt : decodeWord .s 0x8F70500000003008 =
    .ok (.fcvt ⟨false, 7, 1, false, .latch 0, r 0, r 0⟩ { fm with fmt2 := .e4m3, ftz := true }) := rfl
/-- R41, R158: WSUB.E4M3.AMAX.P2 w1, w2, w3: OP 0x01, FMT 3, P2, SC. -/
theorem test_word_wsub : decodeWord .w 0x0170408180030600 =
    .ok (.wsub (bf 1 2 3 0) { wm with fmt := .e4m3, p2 := true, sc := true }) := rfl
/-- R41, R173: MMUL m1, m2, m3: OP 0x45. -/
theorem test_word_mmul : decodeWord .w 0x4570408180000000 = .ok (.mmul (bf 1 2 3 0) mm) := rfl
/-- R248: BREAD.B128.WAF.sb3 g20, g9, g24, g12, 1, tl2, as its chapter writes it out. -/
theorem test_word_bread : decodeWord .m 0x3075024C0CB24C00 =
    .ok (.bread { qf 20 9 24 12 true with sb := 3 } 2 1 1 2 false) := rfl
/-- R248: TLWAIT tl2, g16. -/
theorem test_word_tlwait : decodeWord .m 0x3870040000000002 = .ok (.tlwait (qf 0 16 0 0 false) 2) := rfl
/-- R272: XDUAL.BF16.FIN a0, a1, t2, t3; XBA.RET 4; XOUT.F32 t4, a0, n3. -/
theorem test_word_xdual : decodeX 0x1208304080000001 = .ok (.xdual 2 3 0 1 .bf16 true false false) := rfl
theorem test_word_xba : decodeX 0x0500001000000001 = .ok (.xba 4 1) := rfl
theorem test_word_xout : decodeX 0x0B10000000000070 = .ok (.xout 4 0 .f32 0 false true 3 false) := rfl
/-- R271: XBIND.sb1 g9, g8; ACRD.F32.N8.sb2 w0, a1, g10, g0. -/
theorem test_word_xbind : decodeWord .m 0x4072420000900000 = .ok (.xbind { qf 9 8 0 0 true with sb := 1 }) := rfl
theorem test_word_acrd : decodeWord .m 0x4170028001A00C00 =
    .ok (.acrd { qf 0 10 0 1 true with sb := 2 } .f32 .dyn 3 false 0) := rfl
/-- R305: RPUT.B256.O.WAF.REL.sb1 [g8+0x100], w0; COLL.sb4 g20, g9. -/
theorem test_word_rput : decodeWord .m 0x5071820050900100 =
    .ok (.rput { mf 6 8 0 true 0x100 with scope := 2, ord := 2, sb := 1 }) := rfl
theorem test_word_coll : decodeWord .m 0x5475024000C00000 = .ok (.coll { qf 20 9 0 0 true with sb := 4 }) := rfl
/-- R216: STN.F32 [g23+32], w1, n4. -/
theorem test_word_stn : decodeWord .m 0x207105C080000020 = .ok (.stn (mf 4 23 1 false 32)) := rfl
/-- R252: ACOPYT.ADDF.sb0 g17, t0, g16, w0, 8, tl2. -/
theorem test_word_acopyt : decodeWord .m 0x3474440000825000 =
    .ok (.acopyt (qf 17 16 0 0 true) 2 2 2 0 false 0) := rfl

/-- R52, R57: a reserved bit, an opcode no pipe has, and a header without its mark are refused by name. -/
theorem test_word_reserved : decodeWord .s 0x3070408180C00000 = .error .reservedField := rfl
theorem test_word_unknown : decodeWord .s 0xFF70000000000000 = .error .illegalOpcode := rfl
theorem test_header_mark : (decodeHeader 0x5000000000000000).toOption = none := rfl

/-! A small machine: lane 3 of row 2 of core 0 runs a clause of one word at address 0x1000, in context 7. -/

def core0 : PId := ⟨0, 0⟩
def me : TId := ⟨core0, 3, 2⟩
def other : TId := ⟨core0, 4, 2⟩
def th0 : Thread := { Thread.free with st := .ready, ctx := 7, pc := 0x1000 }
def lane (t : Thread) : LaneRun := ⟨3, t, [], [], [], 0, t.seed, none, false, false, false⟩
def flight (t : Thread) : Flight := ⟨core0, 2, 0x1000, ⟨.s, 0, 0, false, false⟩, [0], 0, [lane t], 0⟩
/-- A page of local addresses 0x2000 to 0x3FFF, readable, writable and executable, at virtual address 0x2000. -/
def page : TlbEnt := ⟨7, 0x2000, 3, 0x201F⟩
/-- A page of control space at virtual address 0x4000. -/
def pageCtl : TlbEnt := ⟨7, 0x4000, 3, 0xF80000001F⟩
/-- A page of pool SRAM of site 1 at virtual address 0x6000. -/
def pagePool : TlbEnt := ⟨7, 0x6000, 3, 0x1400000001F⟩
/-- A page of DRAM of site 2, another reticle, at virtual address 0x8000. -/
def pageFar : TlbEnt := ⟨7, 0x8000, 3, 0x2000000001F⟩
/-- The window that lets context 7 of site 0 into local addresses 0 to 0xFFFFFFFFFF; `site0` has one for context 0 too. -/
def window : Window := ⟨0xFFFFFF0000000000, 0xF80000000007FFFF⟩
def proc0 : Proc := { Proc.reset with tlb := [page, pageCtl, pagePool, pageFar] }
def site0 : Site := { Site.reset with ctxs := [(5, ⟨1, 7, 0, 0x2000, 0⟩)], windows := [((0, 0), window), ((0, 1), { window with hi := 0xF80000000000FFFF })] }
def quiet : State := { State.reset with procs := [(core0, proc0)], sites := [(0, site0)] }
def machine (t : Thread) : State := { quiet with threads := [(me, t)], flights := [flight t] }

theorem oneLane (t : Thread) : OneLane (machine t) false 7 (flight t) [] (lane t) := ⟨rfl, rfl, rfl, rfl⟩

/-- The lane after an instruction, by a function of it. -/
def laneAfter {α : Type} (i : Instr) (s : State) (f : LaneRun → α) : Option α :=
  match exec i s with
  | .next t => (t.flights.head?.bind fun f => f.lanes.head?).map f
  | _ => none
/-- What an instruction writes to registers in its lane. -/
def writesOf (i : Instr) (t : Thread) : Option (List RegW) := laneAfter i (machine t) (·.writes)
/-- The fault it meets, by cause and information. -/
def faultOf (i : Instr) (t : Thread) : Option (Option (Nat × Word)) :=
  laneAfter i (machine t) fun l => l.fault.map fun x => (x.cause, x.info)
/-- What an instruction leaves, by a function of the state. -/
def after {α : Type} (i : Instr) (s : State) (f : State → α) : Option α :=
  match exec i s with
  | .next t => some (f t)
  | _ => none
def regs (l : List (Nat × Word)) : Thread := l.foldl (fun t x => t.setG x.1 x.2) th0

/-! Single steps, with the results that the rules give. -/

/-- R134: −2^63 − 1 saturates. -/
theorem test_isub_saturates : writesOf (.isub (bf 1 2 3 0) { im with sat := true })
    (regs [(2, 0x8000000000000000), (3, 1)]) = some [.g 1 0x8000000000000000] := by decide
/-- R128: a 32-bit result is sign-extended. -/
theorem test_iadd_width : writesOf (.iadd (bf 1 2 3 0) { im with w := true })
    (regs [(2, 0x7FFFFFFF), (3, 1)]) = some [.g 1 0xFFFFFFFF80000000] := by decide
/-- R136: a zero divisor gives all ones and the dividend. -/
theorem test_idiv_zero : writesOf (.idiv (bf 1 2 0 0) im) (regs [(2, 5)]) = some [.g 1 0xFFFFFFFFFFFFFFFF] := by decide
theorem test_irem_zero : writesOf (.irem (bf 1 2 0 0) im) (regs [(2, 5)]) = some [.g 1 5] := by decide
/-- R139: a count of the width or more leaves copies of the sign. -/
theorem test_sar_wide : writesOf (.sar (bf 1 2 3 0) im) (regs [(2, 0x8000000000000000), (3, 64)]) =
    some [.g 1 0xFFFFFFFFFFFFFFFF] := by decide
/-- R42: a write of g0 is discarded, so it reads zero as a source. -/
theorem test_g0 : writesOf (.or (bf 1 0 3 0) im) ((regs [(3, 9)]).setG 0 7) = some [.g 1 9] := by decide
/-- R46: a lane whose guard is false writes nothing and keeps the old destination in b0. -/
theorem test_guard_false : laneAfter (.iadd { bf 1 2 3 0 with pr := 0 } im) (machine (regs [(1, 8), (2, 1)]))
    (fun l => (l.writes, l.lat)) = some ([], [some (.g 8)]) := by decide
/-- R152: of −0 and +0 the minimum is −0. -/
theorem test_fmin_zero : writesOf (.fmin (bf 1 2 3 0) fm) (regs [(2, 0), (3, 0x80000000)]) = some [.g 1 0x80000000] := by decide
/-- R151: 1 + 2 is 3. -/
theorem test_fadd : writesOf (.fadd (bf 1 2 3 0) fm) (regs [(2, 0x3F800000), (3, 0x40000000)]) = some [.g 1 0x40400000] := by decide
/-- R175: a negative variance is the fault of its source and value. -/
theorem test_mset_negative : faultOf (.mset (bf 1 2 3 0) mm) (regs [(2, 0x3F800000), (3, 0xBF800000)]) =
    some (some (14, 0xBF80000000000001)) := by decide
/-- R119: a branch to an address that is not a multiple of 8. -/
theorem test_brx_unaligned : faultOf (.brx (bf 0 2 0 0)) (regs [(2, 0x1004)]) = some (some (1, 0x1004)) := by decide
/-- R119: a loop back by 3 words. -/
theorem test_bra_back : after (.bra ⟨false, 7, r 0, 0xFFFFFFFD⟩) (machine th0) (fun u => (u.th me).pc) = some 0xFE8 := by decide
/-- R348: TRAP gives its code. -/
theorem test_trap_code : faultOf (.trap (bf 0 0 0 0) 9) th0 = some (some (22, 9)) := by decide
/-- R349: HALT holds the thread. -/
theorem test_halt : after (.halt (bf 0 0 0 0)) (machine th0) (fun u => (u.th me).st) = some .held := by decide
/-- R200: a load of 8 bytes at 0x2004. -/
theorem test_ld64_unaligned : faultOf (.ld64 (mf 1 2 0 true 4)) (regs [(2, 0x2000)]) = some (some (7, 0x2004)) := by decide
/-- R192: no page stands at 0x8000000000000000, which is not canonical. -/
theorem test_ld64_canonical : faultOf (.ld64 (mf 1 2 0 true 0)) (regs [(2, 0x4000000000000000)]) =
    some (some (9, 0x4000000000000000)) := by decide

/-! For each statement with hypotheses, states and operands that meet them, clause by clause. A clause about a step from the
state `machine t` has its lane by `oneLane`. -/

/-- A lane that is idle, one skipped, one at a fault and one that takes its value: the four cases of `LaneAfter`. -/
theorem witness_Computes : (machine th0).flights = flight th0 :: [] ∧ (flight th0).lanes[0]? = some (lane th0) ∧
    (lane th0).active = true ∧ (lane th0).guard false 7 = true ∧ (lane th0).guard false 0 = false ∧
    ({ lane th0 with done := true } : LaneRun).active = false := by decide

theorem witness_LogicShiftsAndFields : (Instr.bfx (bf 1 2 0 0) { im with pos := 63 }).wellFormed = true ∧
    (Instr.bfi (bf 1 2 3 0) { im with pos := 0, lenm1 := 31, w := true }).wellFormed = true := by decide

theorem witness_LongImmediateForms : (Instr.icmpImm ⟨false, 7, 1, false, r 2, 0x97FFFFFF⟩).wellFormed = true := by decide

theorem witness_CompareSelectMoveAddress : (Instr.icmp (bf 1 2 3 0) { im with cond := 5, u := true }).wellFormed = true ∧
    (Instr.lea (bf 1 2 3 0) { im with cond := 3, w := true, u := true }).wellFormed = true := by decide

theorem witness_FloatOrderSignAndClass : (Instr.fcmp (bf 1 2 3 0) { fm with cond := 7 }).wellFormed = true := by decide

/-- `fn` takes each of the values that the clauses tell apart. -/
theorem witness_fn : wm.fn = 0 ∧ ({ wm with fn := 1 } : WideMod).fn ≠ 0 ∧ mm.fn = 0 ∧ ({ mm with fn := 1 } : MomMod).fn = 1 ∧
    ({ mm with fn := 2 } : MomMod).fn = 2 ∧ (1 : BitVec 3).toNat < 2 := by decide

/-- Two moments of mean 1 and variance 0, the least that is not negative, under independence. -/
theorem witness_MomentInstructions :
    let t := (th0.setM 1 0x3F800000).setM 2 0x3F800000
    let e : Env := ⟨machine t, flight t, lane t⟩
    let x := e.m (r 1)
    let y := e.m (r 2)
    cvMode mm.cm e.t.mcov = 0 ∧ (momMean x).isFin = true ∧ (momMean y).isFin = true ∧ (momVar x).isFin = true ∧
      (momVar y).isFin = true ∧ negVar (momVar x) = false ∧ negVar (momVar y) = false := by decide

/-- The formulas: two moments (1, 1) with correlation 1 and finite scalars; a mean of −∞ or +∞, a variance of +∞, and the ranges of
the rectifier, the sigmoid and the exponential. -/
theorem witness_MomentFormulas :
    let t := { (((th0.setM 1 0x3F8000003F800000).setM 2 0x3F8000003F800000).setG 3 0x3F800000) with mrho := 0x3F800000, mcov := 1 }
    let e : Env := ⟨machine t, flight t, lane t⟩
    let w := e.m (r 1)
    let mu := momMean w
    let v := momVar w
    let inf : Word := 0x7F8000007F800000
    mu.isFin = true ∧ v.isFin = true ∧ negVar v = false ∧ (f32 (e.g (r 3)).toNat).isFin = true ∧ cvMode mm.cm e.t.mcov = 1 ∧
    (f32 e.t.mrho.toNat).isFin = true ∧ v.dy.m ≠ 0 ∧ v.isZero = false ∧ mu.isZero = false ∧
    (momVar 0x3F800000).isZero = true ∧ (momMean 0x3F800000).isFin = true ∧
    momMean inf = .inf false ∧ momVar inf = .inf false ∧ momMean 0xFF800000 = .inf true ∧ (momMean 0x7FC00000).isNan = true ∧
    (v.dy.mul (dyInt 1764)).lt (mu.dy.mul mu.dy) = false ∧
    ((dyInt 490000).mul ((dyInt 1).add (v.dy.mul ⟨1, -1⟩))).lt (mu.dy.mul mu.dy) = false ∧
    (let u := ((mu.dy.mul (dyInt 2)).add v.dy).add v.dy
     Dy.lt (dyInt 700) u = false ∧ u.lt (dyInt (-700)) = false ∧ u.isZero = false) := by decide

theorem witness_GroupQueries : (machine th0).flights = flight th0 :: [] ∧ (5 : BitVec 3).toNat ≤ 5 := by decide

theorem witness_CommitAndGuards : (lane th0).acts = [] ∧ other ≠ (flight th0).tid (lane th0) ∧
    (machine th0).flights = flight th0 :: [] ∧ (flight th0).lanes = [lane th0] ∧ (lane th0).guard false 0 = false ∧
    (lane th0).guard true 7 = false := by decide

theorem witness_ThreadsYieldAndEnd :
    let e (n : Word) : Env := ⟨machine (regs [(2, n)]), flight (regs [(2, n)]), lane (regs [(2, n)])⟩
    ((e 0).g (r 2)).toNat % 2 ^ 32 + (0 : BitVec 24).toNat = 0 ∧ ((e 1).g (r 2)).toNat % 2 ^ 32 + (0 : BitVec 24).toNat ≠ 0 ∧
    ((((machine (regs [(2, 1)])).committed (flight (regs [(2, 1)])) (lane (regs [(2, 1)])))).th me).faultWaits = false ∧
    ((machine th0).th me).sb.toList.all (fun n => n == 0) = true ∧
    ((machine (th0.setSb 7 1)).th me).sb.toList.all (fun n => n == 0) = false ∧ (⟨0, 1⟩ : PId) ≠ me.p := by decide

def frame0 : Frame := ⟨1, 0, Vector.replicate 16 3, 0x2000⟩
/-- A thread with `n` saved frames. -/
def deep (n : Nat) : Thread := { th0 with frames := List.replicate n frame0 }

theorem witness_ControlTransfers :
    let e : Env := ⟨machine (regs [(2, 0x1008), (3, 0x1004)]), flight th0, lane (regs [(2, 0x1008), (3, 0x1004)])⟩
    e.g (r 2) ≠ 0 ∧ e.g (r 0) = 0 ∧ (e.g (r 2)).toNat % 8 = 0 ∧ (e.g (r 3)).toNat % 8 ≠ 0 ∧
    (deep 6).frames.length = 6 ∧ (deep 5).frames.length ≠ 6 ∧ (deep 0).frames = [] ∧ (deep 1).frames ≠ [] ∧
    th0.lnk.toNat % 8 = 0 ∧ ({ th0 with lnk := 4 } : Thread).lnk.toNat % 8 ≠ 0 ∧
    -- a target that is no multiple of 8 needs a clause that is at none, which no run reaches
    ((({ flight th0 with addr := 0x1004 } : Flight).addr + 8 * (1 : BitVec 32).signExtend 64 : Word)).toNat % 8 ≠ 0 := by decide

theorem witness_RegisterWindowsOverlap : ((deep 5).openFrame 9 0x1010).frames = ((deep 5).openFrame 9 0x1010).frames ∧
    ((deep 5).openFrame 9 0x1010).frames.length = 6 := by decide

/-- Lanes 31 and 32 on a core; a slot granted in row 3; with every row taken, none; a full band of 512. -/
def crowd : List (TId × Thread) := (List.range 16).map fun k => (⟨core0, 31, k⟩, { th0 with st := .parked })
def band1 : Band := ⟨1, 0, [(3, 2)], [], 0⟩
def fullBand : Band := { band1 with members := List.replicate 512 (3, 2) }
def member : Thread := { th0 with band := some ⟨0, 1⟩ }
/-- A machine whose thread is in band 0 of epoch 1. -/
def banded (b : Band) : State :=
  { machine member with procs := [(core0, { proc0 with epochs := [(0, 1)], bands := [(0, b)] })] }
theorem oneLane_banded (b : Band) : OneLane (banded b) false 7 (flight member) [] (lane member) := ⟨rfl, rfl, rfl, rfl⟩

set_option maxRecDepth 20000 in
theorem witness_SpawnCreatesAThread :
    let c := (machine th0).committed (flight th0) (lane th0)
    (0x1000 : Word).toNat % 8 = 0 ∧ (0x1001 : Word).toNat % 8 ≠ 0 ∧ lanesOf core0 = 32 ∧
    (c.spawnSlot core0 0 31).isSome = true ∧ (⟨core0, 31, 15⟩ : TId) ≠ me ∧
    ({ c with threads := crowd } : State).spawnSlot core0 0 31 = none ∧
    member.band = some ⟨0, 1⟩ ∧ (((banded fullBand).committed (flight member) (lane member)).proc core0).band ⟨0, 1⟩ = some fullBand ∧
    512 ≤ fullBand.members.length := by decide

/-- Every number taken, or still closed. -/
def noFree : Proc := { proc0 with bands := (List.range 64).map fun k => (k, band1) }

set_option maxRecDepth 20000 in
theorem witness_BandMembership :
    ((machine th0).th me).band = none ∧ ((banded band1).th me).band ≠ none ∧ proc0.freeBand = some 0 ∧ noFree.freeBand = none ∧
    (proc0.handle 0).bind proc0.band = none ∧ (proc0.handle 0) = none ∧
    ((banded band1).proc core0).handle 0x10000 = some ⟨0, 1⟩ ∧ ((banded band1).proc core0).band ⟨0, 1⟩ = some band1 ∧
    band1.members.length < 512 ∧ 512 ≤ fullBand.members.length ∧ (lane th0).acts = [] := by decide

/-- A band of one, whose end meets a tile at rest, one with work in flight, the sequencer, and a thread parked on its barrier. -/
def lastMember (work : List StreamWork) : State :=
  let r : Proc := { proc0 with epochs := [(0, 1)], bands := [(0, { band1 with members := [(3, 2)] })] }
  let x : Tile := ⟨.ready, 0, 0, false, ⟨0, 1⟩, 16, 0, false, false⟩
  { banded band1 with
    procs := [(core0, { r with tiles := [(1, x), (2, { x with cnt := 1 })], seq := { Seq.unbound with st := .idle, band := some ⟨0, 1⟩, work := work } })]
    threads := [(me, member), (other, { member with st := .parked, wait := .barrier ⟨0, 1⟩ 15 4 })] }
set_option maxRecDepth 20000 in
theorem witness_BandEnds :
    let c (w : List StreamWork) := (lastMember w).committed (flight member) (lane member)
    let q := (c []).proc core0
    OneLane (lastMember []) false 7 (flight member) [] (lane member) ∧ ((lastMember []).th me).band = some ⟨0, 1⟩ ∧
    q.band ⟨0, 1⟩ = some { band1 with members := [(3, 2)] } ∧ [(3, 2)].filter (· != (3, 2)) = [] ∧
    [(3, 2), (4, 2)].filter (· != (3, 2)) ≠ [] ∧ recordBound (q.entry 0).record = none ∧
    (q.tile 1).st ≠ .empty ∧ (q.tile 1).band = ⟨0, 1⟩ ∧ (q.tile 1).cnt = 0 ∧ (q.tile 2).cnt ≠ 0 ∧ q.seq.band = some ⟨0, 1⟩ ∧
    q.seq.st ≠ .unbound ∧ q.seq.work = [] ∧ ((c [StreamWork.idle]).proc core0).seq.work ≠ [] ∧
    ((c []).th other).st = .parked ∧ ((c []).th other).wait = .barrier ⟨0, 1⟩ 15 4 := by
  refine ⟨⟨rfl, rfl, rfl, rfl⟩, ?_⟩
  decide

theorem witness_RejoinRegisters :
    let s := machine th0
    let v := (s.setRj core0 2 7 8 0).proc core0 |>.rejoin 2 7
    ((s.proc core0).rejoin 2 7).1.getLsbD 3 = false ∧ v.1.getLsbD 3 = true ∧
    ((s.committed (flight th0) (lane th0)).th me).faultWaits = false ∧ ((s.proc core0).rejoin 2 7).1 = 0 ∧
    v.2 ≠ v.1 ∧ ((s.setRj core0 2 7 8 8).proc core0 |>.rejoin 2 7) = (8, 8) ∧
    ((machine { th0 with st := .parked }).th me).st = .parked := by decide

/-- Barrier 15 of band 0, which expects one arrival and stands at phase 4. -/
def bar4 : Bar := ⟨0, 4, 0, 1, 0, 0⟩
def barred (bo : Bar) : State := banded { band1 with bars := [(15, bo)] }

theorem witness_BarrierPhases : (barred bar4).bar core0 ⟨0, 1⟩ 15 = some bar4 ∧ bar4.exp ≠ 0 ∧ bar4.arr + 1 = bar4.exp ∧
    bar4.txp = 0 ∧ ({ member with st := .parked, wait := .barrier ⟨0, 1⟩ 15 4 } : Thread).st = .parked ∧
    phaseDone (bar4.gen + 1) (BitVec.ofNat 32 4) = true ∧ phaseDone bar4.gen (BitVec.ofNat 32 4) = false := by decide

set_option maxRecDepth 20000 in
theorem witness_BarrierInstructions :
    let passed (gen n : BitVec 32) : Bool := !(gen - n - 1).msb
    (lane member).acts = [] ∧ (machine th0).ownBar me 15 = none ∧ ((machine th0).th me).band = none ∧
    ((barred bar4).th me).band = some ⟨0, 1⟩ ∧ (barred bar4).ownBar me 15 = some (⟨0, 1⟩, bar4) ∧
    -- a handle of an earlier epoch
    (machine member).bar core0 ⟨0, 1⟩ 15 = none ∧ ((machine member).proc core0).handle 0x10000 = none ∧
    ((barred bar4).proc core0).handle 0x10000 = some ⟨0, 1⟩ ∧ ({ bar4 with exp := 0 } : Bar).exp = 0 ∧ bar4.exp ≠ 0 ∧
    passed 4 3 = true ∧ passed 4 4 = false ∧ (member.faultWaits = false) ∧
    (512 : Word).toNat ≤ 512 ∧ 512 < (513 : Word).toNat := by decide

def bytes256 : List Byte := List.replicate 256 0
set_option maxRecDepth 20000 in
theorem witness_TrussArrivalAndLaunch :
    let s := machine th0
    let u := (s.readVirt me 7 [] 0x2000 256).2
    (5 - 4 - 1 : BitVec 32).msb = false ∧ (4 - 4 - 1 : BitVec 32).msb = true ∧ th0.faultWaits = false ∧
    (0x2000 : Word).toNat % 256 = 0 ∧ (0x2080 : Word).toNat % 256 ≠ 0 ∧
    (s.readVirt me 7 [] 0x2000 256).1 = .ok bytes256 false ∧ (s.readVirt me 7 [] 0x10000000000000 256).1 = .trap 9 0x10000000000000 ∧
    (u.site 0).freeDl = some 0 ∧ ({ site0 with dlaunch := (List.range 64).map fun k => (k, ⟨[], true, false, 0⟩) } : Site).freeDl =
      none := by decide

/-- The vector of cause 1 at 0x2008 holds the handler's address 0x3000. -/
def vectored (t : Thread) : State := { machine t with mem := [(0x2009, 0x30)] }
set_option maxRecDepth 20000 in
theorem witness_TakingATrap :
    let s := vectored th0
    let saved := (s.setTh me { th0 with tp := 0x1000, tc := BitVec.ofNat 64 (15 * 256 + 1), ti := 9 }).perfAdd core0 7 10 1
    (s.th me).tst.getLsbD 0 = false ∧ (s.site 0).liveCtx (s.th me).ctx = some 5 ∧
    ((s.site 0).ctx 5).tvec + BitVec.ofNat 64 (8 * 1) = 0x2008 ∧
    (saved.readVirt me 7 [] 0x2008 8).1 = .ok (toBytes 8 0x3000) false ∧ (BitVec.ofNat 64 (ofBytes (toBytes 8 0x3000)) : Word) = 0x3000 ∧
    (0x3000 : Word) ≠ 0 ∧ (0x3000 : Word).toNat % 8 = 0 ∧ ((machine { th0 with tst := 1 }).th me).tst.getLsbD 0 = true ∧
    other ≠ me := by decide

/-- Queues with room and without, a poisoned vector, one that cannot be read and one at another site. -/
def vectorAt (a : Word) : State := { vectored th0 with sites := [(0, { site0 with ctxs := [(5, ⟨1, 7, 0, a, 0⟩)] })] }
def answerOf (r : RV × State) : Nat := match r.1 with | .ok _ false => 0 | .ok _ true => 1 | .trap _ _ => 2 | .wait => 3 | _ => 4
set_option maxRecDepth 20000 in
theorem witness_DoubleFaults :
    (machine { th0 with tst := 1 }).site 0 = site0 ∧ site0.events.length < 256 ∧
    256 ≤ ({ site0 with events := List.replicate 256 0 } : Site).events.length ∧
    answerOf (({ vectored th0 with poison := [0x80] } : State).readVirt me 7 [] 0x2008 8) = 1 ∧
    answerOf ((vectorAt 0x10000000000000).readVirt me 7 [] 0x10000000000008 8) = 2 ∧
    answerOf ((vectorAt 0x8000).readVirt me 7 [] 0x8008 8) = 3 ∧
    (vectorAt 0x8000).vectorWaits me 1 = true ∧ (vectored th0).vectorWaits me 1 = false ∧
    answerOf ((vectored { th0 with ctx := 9 }).readVector me 1) = 4 := by decide

theorem witness_TrapInstructionsAndReturn : th0.tst.getLsbD 1 = false ∧ ({ th0 with tst := 2 } : Thread).tst.getLsbD 1 = true ∧
    ({ th0 with tp := 4 } : Thread).tp.toNat % 8 ≠ 0 ∧ th0.tp.toNat % 8 = 0 := by decide

theorem witness_SpecialRegisters : (0x3FFFFFFFFFFFFFFF : Word).toNat / 2 ^ 62 = 0 ∧
    ((machine th0).site 0).ctxIdx ((((machine th0).committed (flight th0) (lane th0)).th me)).ctx = some 5 := by decide

set_option maxRecDepth 20000 in
/-- A spill whose frame no write is on its way to, or one is; a stack in the page, and one that is unaligned or unmapped. -/
theorem witness_WindowCommands :
    let t : Thread := { deep 1 with wsp := 0x3000 }
    let s := machine t
    let words (a : Word) := ((frame0.regs.toList ++ [frame0.lnk]).zipIdx).map fun x => (a + BitVec.ofNat 64 (8 * x.2), toBytes 8 x.1.toNat)
    let stored (a : Word) : Nat := match (s.storeParts ⟨s, flight t, lane t⟩ none (words a)).1 with | .ok es => es.length | .trap c _ => c | _ => 0
    t.frames.getLast? = some frame0 ∧ s.spillHeld me t frame0 = false ∧
    ({ s with reqs := [⟨9, me, 0, 7, 1, some 7, .value false, [], some [.g 8 5], none, none⟩] } : State).spillHeld me t frame0 = true ∧
    stored 0x3000 = 17 ∧ stored 0x10000000000000 = 9 ∧ ({ deep 6 with spilled := 1 } : Thread).frames.length = 6 ∧
    (0x4000000000010000 : Word).toNat / 2 ^ 62 = 1 ∧ (0x8000000000010000 : Word).toNat / 2 ^ 16 % 2 ^ 16 = 1 ∧
    answerOf (s.readVirt me 7 [] (0x3000 - 136) 136) = 0 ∧ answerOf (s.readVirt me 7 [] (0x10000000000000 - 136) 136) = 2 := by decide

theorem witness_CountersInvalidationsEvents : ((machine th0).site 0).ctxIdx th0.ctx = some 5 ∧
    ({ site0 with events := [1] } : Site).events = 1 :: [] ∧ (1 : Word).toNat / 2 ^ 58 ≠ 1 ∧ (2 ^ 58 : Word).toNat / 2 ^ 58 = 1 ∧ site0.events = [] ∧ th0.faultWaits = false := by decide

/-- A slot-table record of 32 bytes at 0x2000 with the operation `op`, and with the launch record at 0x3000. -/
def recorded (op : Byte) : State :=
  { machine th0 with mem := (if op = 0 then [] else [(0x2000, op)]) ++ [(0x2011, 0x30)] }
set_option maxRecDepth 20000 in
theorem witness_SlotTableInstructions :
    let s (op : Byte) := recorded op
    let rcd (op : Byte) : List Byte := match ((s op).readVirt me 7 [] 0x2000 32).1 with | .ok b _ => b | _ => []
    (∀ op ∈ ([0, 1, 2, 3, 4, 5] : List Byte), fieldAt (rcd op) 0 1 = op.toNat ∧
      ((s op).readVirt me 7 [] 0x2000 32).1 = .ok (rcd op) false) ∧
    ((s 0).readPhys ⟨s 0, flight th0, lane th0⟩ (fieldAt (rcd 0) 16 8) 256).1 = .ok bytes256 false ∧
    ((s 0).readVirt me 7 [] 0x10000000000000 32).1 = .trap 9 0x10000000000000 ∧
    ((s 0).proc ⟨0, fieldAt (rcd 0) 1 1⟩).move = none := by decide

/-- Records that each row of R356's table answers, and one that is accepted, with the launch record of `entry0`. -/
def rcdOf (op core entry slo shi ctx c : Byte) : List Byte := [op, core, entry, 0, slo, shi, ctx, 0, 0, 0, 0, 0, c] ++ List.replicate 19 0
def launch0 : List Byte := List.replicate 8 0 ++ [7, 0, 0, 1, 1, 1] ++ List.replicate 242 0
set_option maxRecDepth 20000 in
theorem witness_slotwTable :
    let s := machine th0
    let code (r : List Byte) := s.slotwCode 0 r launch0
    code (rcdOf 5 0 0 0 0 7 0) = 6 ∧ code (rcdOf 0 0 32 0 0 7 0) = 6 ∧ code (rcdOf 0 97 0 0 0 7 0) = 6 ∧
    code (rcdOf 0 0 0 0 0 9 0) = 3 ∧ code (rcdOf 1 0 0 0 0 7 0) = 1 ∧ code (rcdOf 2 0 0 0 0 7 0) = 1 ∧ code (rcdOf 3 0 0 0 0 7 0) = 1 ∧
    code (rcdOf 0 0 0 1 0 7 0) = 2 ∧ code (rcdOf 0 0 0 0 12 7 0) = 2 ∧ code (rcdOf 0 0 0 0 1 7 0) = 4 ∧ code (rcdOf 0 0 0 0 0 7 0) = 0 ∧
    (s.imageVerdict ⟨s, flight th0, lane th0⟩ 0x100000 .read).1 ≠ .wait := by decide

/-- Entry 31 of core 0 is stopped. -/
def stopped31 : State := { machine th0 with procs := [(core0, { proc0 with slots := [(31, { Entry.empty with st := .stopped, ctx := 7 })] })] }
theorem witness_Ctxsave :
    let c := stopped31.committed (flight th0) (lane th0)
    (0x1F00 : Word).toNat < 2 ^ 13 ∧ (0x1F00 : Word).getLsbD 7 = false ∧ ((c.proc core0).entry 31).st = .stopped ∧
    ((c.proc core0).entry 31).killing = false ∧ ((c.proc core0).entry 30).st ≠ .stopped ∧ (c.proc core0).move = none ∧
    (0x100000 : Word).toNat % 4096 = 0 ∧ (stopped31.imageVerdict ⟨stopped31, flight th0, lane th0⟩ 0x100000 .write).1 = .pass ∧ (0x100800 : Word).toNat % 4096 ≠ 0 := by decide

/-! Memory instructions: the page at 0x2000 to 0x3FFF, control space at 0x4000, pool SRAM at 0x6000. -/

/-- g2 holds an address. -/
def at2 (a : Word) : Env := ⟨machine (regs [(2, a)]), flight th0, lane (regs [(2, a)])⟩
/-- No window lets context 7 in. -/
def shut : State := { machine th0 with sites := [(0, { site0 with windows := [] })] }

theorem witness_LoadsAskTheirHomes :
    let s := machine th0
    let e := at2 0x2000
    let u := (s.place e 0x3FF8 8 .read).2
    (0x3FF8 : Word).toNat % 8 = 0 ∧ (0x3FF9 : Word).toNat % 8 ≠ 0 ∧ (s.place e 0x3FF8 8 .read).1 = .ok 0x3FF8 false ∧
    u.wayOf core0 7 (.access 0 0x3FF8) 0x3FF8 = .here ∧ u.windowFor core0 7 0x3FF8 8 .read = true ∧ shut.windowFor core0 7 0x3FF8 8 .read = false ∧
    (s.place e 0x10000000000000 8 .read).1 = .trap 9 ∧
    -- the granule at 0x20000 has its scale at 0x2000
    (((0x20000 : Word) >>> 4) + th0.gsd).toNat % 2 = 0 ∧ (((0x20000 : Word) >>> 4) + ({ th0 with gsd := 1 } : Thread).gsd).toNat % 2 ≠ 0 ∧
    (s.place e 0x2000 2 .read).1 = .ok 0x2000 false ∧ s.windowFor core0 7 0x2000 2 .read = true ∧
    (0x3E00 : Word).toNat % (64 * 2 ^ (firstOf (r 3) % 4)) = 0 ∧ (s.place e 0x3E00 512 .read).1 = .ok 0x3E00 false := by decide

/-- The request for the first word of site 2: not yet sent, on its way, discarded, come; and a copy of its line that needs none. -/
def far : Nat := 0x20000000000
def farPart : Part := ⟨0x8000, far, 8, true, false, false, none, false⟩
def farWay : Packet := packetOf (.access 0 far) 7 core0 0 ⟨2, 127⟩ 0 [] none 0
def asked (k : Packet) : State := { machine th0 with packets := [k], sites := [(0, site0), (2, { Site.reset with windows := [((0, 0), window)] })] }
def grant0 : Grant := ⟨0, 2, 7, 0, .read⟩
def farCopy : Copy := ⟨far / 128, List.replicate 128 5, 1, 2, []⟩
def nearby : State :=
  { machine th0 with
    procs := [(core0, { proc0 with l1 := [farCopy] })]
    sites := [(0, { site0 with grants := [grant0] })], tick := 1 }
theorem witness_near : nearby.near me 7 farPart = true := by
  have h : farCopy.serves 0 farPart 0 1 [] = true := by simp [Copy.serves, Copy.fresh, coreSpan, lineOf, farPart, farCopy]
  have c : (nearby.copyFor me farPart).isSome = true := by
    show (match [farCopy].find? (·.serves 0 farPart 0 1 []) with
      | some c => some (c, false)
      | none => _ : Option (Copy × Bool)).isSome = true
    simp [h]
  simp only [State.near, c, Bool.and_true]
  decide
theorem witness_ways :
    let s := asked farWay
    s.wayOf core0 7 (.access 0 far) far = .coming ∧ (machine th0).wayOf core0 7 (.access 0 far) far = .unasked ∧
    (asked { farWay with lost := true }).wayOf core0 7 (.access 0 far) far = .lost ∧
    (asked { farWay with hop := 2 }).wayOf core0 7 (.access 0 far) far = .here ∧ s.windowFor core0 7 far 8 .read = true ∧
    (machine th0).windowFor core0 7 far 8 .read = false ∧ (machine th0).near me 7 farPart = false ∧
    (s.place (at2 0x8000) 0x8000 8 .read).1 = .ok far false := by decide

theorem witness_StoresQueueTheirBytes :
    let s := machine th0
    let e := at2 0x2000
    (0x3FF8 : Word).toNat % 8 = 0 ∧ (0x3FFC : Word).toNat % 8 ≠ 0 ∧ (s.place e 0x3FF8 8 .write).1 = .ok 0x3FF8 false ∧
    (s.place e 0x4004 4 .write).1 = .ok 0xF800000004 false ∧ isControl 0xF800000004 = true ∧ isControl 0x3FF8 = false ∧ 4 % 8 ≠ 0 ∧
    (s.place e 0x10000000000000 8 .write).1 = .trap 9 ∧ (s.place e 0x3FE0 32 .write).1 = .ok 0x3FE0 false ∧
    (s.place e 0x2000 2 .write).1 = .ok 0x2000 false ∧ firstBad .f32 [(1, r 2, ⟨0x7F00, 0⟩)] = none ∧
    (firstBad .f32 [(1, r 2, ⟨0x0100, 0⟩)]).isSome = true ∧ (0x3E00 : Word).toNat % 512 = 0 ∧
    (s.place e 0x3E00 512 .write).1 = .ok 0x3E00 false := by decide

theorem witness_AtomicsAskTheirHomes :
    let s := machine th0
    let e := at2 0x2000
    (0x3FFC : Word).toNat % 4 = 0 ∧ (0x3FFD : Word).toNat % 4 ≠ 0 ∧ (s.place e 0x3FFC 4 .rmw).1 = .ok 0x3FFC false ∧
    (s.place e 0x10000000000000 4 .rmw).1 = .trap 9 ∧ (s.place e 0x4000 8 .rmw).1 = .ok 0xF800000000 false ∧
    isControl 0xF800000000 = true ∧ isControl 0x3FFC = false ∧ s.windowFor core0 7 0x3FFC 4 .rmw = true ∧
    shut.windowFor core0 7 0x3FFC 4 .rmw = false ∧ (s.place e 0x3FE0 32 .rmw).1 = .ok 0x3FE0 false ∧
    s.windowFor core0 7 0x3FE0 32 .rmw = true ∧ s.wayOf core0 7 (.access 0 0x3FE0) 0x3FE0 = .here ∧ (32 : BitVec 20).getLsbD 5 = true ∧ (0 : BitVec 20).getLsbD 5 = false ∧
    (s.place e 0x7F80 128 .rmw).1 = .ok 0x14000001F80 false ∧
    regionOf (paSite 0x14000001F80) (paLocal 0x14000001F80) = some .poolSram ∧
    regionOf (paSite 0x2000) (paLocal 0x2000) ≠ some .poolSram ∧ (0x7FC0 : Word).toNat % 128 ≠ 0 := by decide

theorem witness_CommitQueuesStoresAndRequests : (3 : Nat) ≠ me.slot ∧ (7 : Nat) < 8 ∧ other ≠ me ∧
    (reqOf (some 7) (.value false) [] none).sb = some 7 ∧ (reqOf none (.value true) [] none).sb = none := by decide

/-- Tables of context 7 at site 2. -/
def farTables : State := { machine th0 with sites := [(0, { site0 with ctxs := [(5, ⟨1, 7, 0x20000000000, 0, 0⟩)] })] }
theorem witness_FencesRangesAndHints :
    let s := machine th0
    (s.place (at2 0) 0x3FFF 1 .read).1 = .ok 0x3FFF false ∧ (s.place (at2 0) 0x10000000000000 1 .read).1 = .trap 9 ∧
    (s.site core0.site).liveCtx th0.ctx = some 5 ∧ (s.rangePieces core0 7 0x2000 256).1.isSome = true ∧
    -- the range's table is at another site; a walk that ends in the core's own site
    (farTables.rangePieces core0 7 0x10000000000 64).1 = none ∧
    (match (s.walkOn core0 7 0 0).1 with | .wait _ => true | _ => false) = false ∧
    (!false && regionOf (paSite 0x3FFF) (paLocal 0x3FFF) == some .dram && (paSite 0x3FFF == core0.site || false)) = true := by decide

/-- The lines of the page, with no pin before; and a pin of another owner. -/
theorem witness_PinCountsNewLines :
    let c := machine th0
    let lines := pinLines (at2 0) ((c.rangePieces core0 7 0x2000 256).1.getD [])
    (c.rangePieces core0 7 0x2000 256).1.isSome = true ∧
    ((c.site 0).pins.length + lines.length ≤ 2 ^ 21) ∧ lines = [64, 65] ∧
    (PinOwner.ctx 9, 64) ∈ ({ site0 with pins := [(.ctx 9, 64)] } : Site).pins := by decide

/-! Engines and tiles. -/

/-- A walk of 64 units of 64 bytes from 0x2000, and one of 128 bytes. -/
def walk0 : Walk := ⟨0x2000, 2, false, 0, [⟨64, 0, 0, 64⟩, ⟨1, 0, 0, 0⟩, ⟨1, 0, 0, 0⟩, ⟨1, 0, 0, 0⟩, ⟨1, 0, 0, 0⟩, ⟨1, 0, 0, 0⟩]⟩
def walk1 : Walk := { walk0 with unit := 3 }
def walker : Thread := { member with walks := Vector.replicate 4 (some walk0) }
/-- A walk descriptor of one point at 0x2000, and an update descriptor of one FP32 element in pool SRAM. -/
def walkBytes : List Byte := toBytes 8 0x2000 ++ List.replicate 24 0 ++ (List.replicate 6 (toBytes 24 1)).flatten ++ List.replicate 16 0
def bupdBytes : List Byte := toBytes 8 0x6000 ++ toBytes 8 0x6004 ++ toBytes 8 0x6008 ++ toBytes 8 0x600C ++ toBytes 4 1 ++ List.replicate 92 0
def ready16 : Tile := ⟨.ready, 0, 0, false, ⟨0, 1⟩, 16, 0, false, false⟩
/-- Tile 63 of 8192 bytes, READY, belongs to the band of the thread. -/
def tiled (x : Tile) : State :=
  { banded band1 with procs := [(core0, { proc0 with epochs := [(0, 1)], bands := [(0, band1)], tiles := [(63, x)] })] }

set_option maxRecDepth 20000 in
theorem witness_EngineInstructions :
    let s := machine th0
    (0x2040 : Word).toNat % 64 = 0 ∧ (0x2020 : Word).toNat % 64 ≠ 0 ∧
    (s.readVirt me 7 [] 0x2040 192).1 = .ok (List.replicate 192 0) false ∧ walkBad (List.replicate 192 0) = true ∧
    walkBad walkBytes = false ∧ walkBytes.length = 192 ∧
    (walker.walks[3]?).getD none = some walk0 ∧ (th0.walks[3]?).getD none = none ∧
    walk0.misaligned 64 = none ∧ (walk0.misaligned 128).isSome = true ∧ ((machine th0).th me).band = none ∧
    ((banded band1).th me).band ≠ none ∧ walk0.unit ≠ walk1.unit ∧ walk0.points = 64 ∧
    ({ walk0 with ctrs := [] } : Walk).points ≠ walk0.points ∧
    ((machine th0).site 0).ctxIdx ((machine th0).th me).ctx = some 5 ∧ th0.handler = none ∧ (⟨0, 1⟩ : PId) ≠ me.p := by decide

set_option maxRecDepth 20000 in
theorem witness_EngineTilesAndUpdates :
    let s := machine th0
    let t := ((tiled ready16).proc core0).tile 63
    ((tiled ready16).th me).band = some ⟨0, 1⟩ ∧ t.st ≠ .empty ∧ t.band = ⟨0, 1⟩ ∧
    8128 % 64 = 0 ∧ 8128 + 64 ≤ 512 * t.size ∧ (t.enter 0).isSome = true ∧ (t.enter 1).isSome = true ∧ (t.enter 2).isSome = true ∧
    walk0.misaligned walk0.unitBytes = none ∧ badScale .f32 ⟨0x7F00, 0⟩ = false ∧ ((machine th0).proc core0 |>.tile 63).st = .empty ∧
    bupdBad (List.replicate 128 0) = true ∧ bupdBad bupdBytes = false ∧ bupdBytes.length = 128 ∧
    (s.arrays (at2 0) 0 [(0x6000, 4, .rmw), (0x6004, 4, .rmw), (0x6008, 4, .rmw), (0x600C, 4, .read)]).1.toOption =
      some [0x14000000000, 0x14000000004, 0x14000000008, 0x1400000000C] ∧ paSite 0x14000000004 = paSite 0x14000000000 := by decide

set_option maxRecDepth 20000 in
theorem witness_TilesAndTimelines :
    ((machine th0).proc core0 |>.tile 63).st = .empty ∧ ((banded band1).th me).band = some ⟨0, 1⟩ ∧ ((machine th0).th me).band = none ∧
    (0 : Word).toNat = 0 ∧ 2 ^ 19 < (0x80001 : Word).toNat ∧ (0x80000 : Word).toNat ≤ 2 ^ 19 ∧
    ((banded band1).proc core0).findRun ((0x80000 + 511) / 512) = some 0 ∧ (lane member).acts = [] ∧
    ((tiled ready16).proc core0 |>.tile 63).band = ⟨0, 1⟩ ∧ ({ ready16 with st := .filling } : Tile).st = .filling ∧
    ({ ready16 with st := .draining } : Tile).st = .draining ∧ ({ ready16 with band := ⟨1, 1⟩ } : Tile).band ≠ ⟨0, 1⟩ ∧
    (let h : Hold := { Hold.empty with acked := true, before := 1, report := true }
     let u := ((machine th0).modTh me fun th => { th with hold := h }).settle me
     (0 : Nat) ≤ (u.tlOf ⟨machine th0, flight th0, lane th0⟩ 15).dn ∧ (u.tlOf ⟨machine th0, flight th0, lane th0⟩ 15).dn < 1 ∧
       (u.th me).faultWaits = false) ∧
    (qf 1 2 3 0 true).sbe = true ∧ (qf 1 2 3 0 false).sbe = false := by decide

/-- Tile 63 of a band of the stopped entry 30, with a scrub under way and without; a tile store with no room. -/
def foreign (x : Tile) : State :=
  let s := tiled { x with band := ⟨1, 1⟩ }
  { s with procs := s.procs.map fun p => (p.1, { p.2 with
      epochs := [(0, 1), (1, 1)], bands := [(0, band1), (1, { band1 with entry := 30 })]
      slots := [(30, { Entry.empty with st := .stopped })] }) }
set_option maxRecDepth 20000 in
theorem witness_TileClaims :
    ((foreign ready16).proc core0).stoppedOwner ⟨1, 1⟩ 0 = some 30 ∧ (foreign { ready16 with scrub := true }).tileClaim core0 0 63 = none ∧
    ((tiled ready16).proc core0).stoppedOwner ⟨0, 1⟩ 0 = none ∧
    (((tiled ready16).claimRun core0 0 ((2 ^ 19 + 511) / 512) (List.range 64)).proc core0).findRun ((2 ^ 19 + 511) / 512) = none := by decide

/-! The matrix unit: core 0 runs a stream at 0x2000 for band 0, with tiles 0 and 1 of 16 units. -/

def seq0 : Seq := { Seq.unbound with st := .running, spc := 0x2000, band := some ⟨0, 1⟩, last := some ⟨0, 1⟩, ctx := 7 }
def loop0 : Loop := ⟨0x2000, 0x2008, 2, 0⟩
def tile0 : Tile := ⟨.ready, 0, 0, false, ⟨0, 1⟩, 16, 0, false, false⟩
def bars4 : Band := { band1 with bars := [(15, bar4)] }
def streamCore (q : Seq) : Proc :=
  let r : Proc := { proc0 with seq := q, epochs := [(0, 1)], bands := [(0, bars4)] }
  { r with tiles := [(0, tile0), (1, { tile0 with base := 8192 })] }
def streaming (q : Seq) : State :=
  { quiet with procs := [(core0, streamCore q)], threads := [(me, member)], stream := some (core0, 0) }

theorem witness_SequencerBindingAndReads :
    let s := banded band1
    let seated (q : Seq) : State := { s with procs := [(core0, { (s.proc core0) with seq := q })] }
    (0x2008 : Word).toNat % 8 = 0 ∧ (0x2004 : Word).toNat % 8 ≠ 0 ∧ ((machine th0).th me).band = none ∧ (s.th me).band = some ⟨0, 1⟩ ∧
    seq0.st ≠ .unbound ∧ (s.proc core0).seq.st = .unbound ∧
    decide (seq0.st = .idle ∨ seq0.st = .faulted) = false ∧ seq0.band = some ⟨0, 1⟩ ∧
    (let q : Seq := { seq0 with st := .faulted }
     decide (q.st = .idle ∨ q.st = .faulted) = true ∧ ({ q with band := some ⟨1, 1⟩ } : Seq).band ≠ some ⟨0, 1⟩) ∧
    ((seated seq0).th me).band ≠ none ∧ ((seated seq0).proc core0).seq.band = ((seated seq0).th me).band ∧
    ¬ ((s.th me).band ≠ none ∧ (s.proc core0).seq.st ≠ .unbound ∧ (s.proc core0).seq.band = (s.th me).band) := by decide

theorem witness_StreamControlWords :
    (streaming seq0).stream = some (core0, 0) ∧ seq0.loops = [] ∧ seq0.spc + 8 = loop0.stop ∧ seq0.spc + 8 ≠ ({ loop0 with stop := 0x2010 } : Loop).stop ∧
    1 < loop0.rem ∧ ({ loop0 with rem := 1 } : Loop).rem ≤ 1 ∧ (0 : BitVec 12) = 0 ∧ (1 : BitVec 12) ≠ 0 ∧
    4 ≤ (List.replicate 4 loop0).length ∧ (List.replicate 3 loop0).length < 4 ∧
    (({ seq0 with band := none } : Seq).band.bind fun b => (streaming seq0).bar core0 b 15) = none ∧ seq0.work = [] ∧
    seq0.band = some ⟨0, 1⟩ ∧ (streaming seq0).bar core0 ⟨0, 1⟩ 15 = some bar4 ∧
    (bar4.gen - 3 - 1).msb = false ∧ (bar4.gen - 4 - 1).msb = true ∧ bar4.exp ≠ 0 ∧ ({ bar4 with exp := 0 } : Bar).exp = 0 ∧
    seq0.begins = true ∧
    ({ seq0 with work := [{ StreamWork.idle with writes := true }] } : Seq).work ≠ [] := by decide

/-- A plane and an accumulator for each of the checks. -/
def plane (f : Fmt) : Plane := ⟨f, [], []⟩
def intAcc : AccTile := { AccTile.fresh with int := true }

set_option maxRecDepth 20000 in
theorem witness_StreamArrayWords :
    let s := streaming seq0
    let t := (s.proc core0).tile 0
    s.stream = some (core0, 0) ∧ seq0.begins = true ∧ seq0.loaderFree = true ∧ seq0.arrayFree = true ∧ seq0.drainFree = true ∧
    ({ seq0 with work := [{ StreamWork.idle with tiles := [0] }] } : Seq).loaderFree = false ∧ seq0.settled 7 = true ∧
    seq0.untouched 7 = true ∧ t.st ≠ .empty ∧ some t.band = seq0.band ∧ ¬ ((s.proc core0).tile 2).st ≠ .empty ∧
    (s.enterTiles core0 1 [0]).isSome = true ∧ (s.enterTiles core0 1 [0, 1]).isSome = true ∧ (s.enterTiles core0 0 [0]).isSome = true ∧
    denseBytes .bf16 ≤ t.size * 512 ∧ denseBytes .bf16 = 8192 ∧ drainBytes .bf16 ≤ t.size * 512 ∧
    formatBad .bf16 none AccTile.fresh = true ∧ formatBad .bf16 (some (plane .bf16)) AccTile.fresh = false ∧
    formatBad .i8 (some (plane .i8)) intAcc = false ∧ scalesBad AccTile.fresh (some (plane .bf16)) [] = false ∧
    scalesBad intAcc (some ⟨.i8, [], [0x7F01]⟩) [] = true ∧ seq0.layout.getLsbD 0 = false ∧ (0 : BitVec 3) ≠ 1 ∧
    AccTile.fresh.int = false ∧ intAcc.int = true ∧ Fmt.f32 ≠ Fmt.bf16 ∧ Fmt.isInt .bf16 = false ∧ Fmt.bf16.bits ≠ 8 := by decide

theorem read_empty (a n : Nat) : Memory.read [] a n = List.replicate n 0 := by
  induction n generalizing a with
  | zero => rfl
  | succ n ih => simp [Memory.read, Memory.get, ih, List.replicate_succ]

set_option maxRecDepth 20000 in
/-- The compressed tile of a mask of zeros. -/
theorem witness_XmmsTile : let b := (Memory.read [] 0 512).toArray
    sparseOk .bf16 b = true ∧ sparseBytes .bf16 (livePos b).length ≤ 512 := by
  simp only [read_empty]
  decide

theorem codeAt_zero (b : Array Byte) (h : ∀ k, b.getD k 0 = 0) (off e : Nat) : codeAt .bf16 b off e = 0 := by
  simp only [codeAt, h]; rfl

/-- Variances that are all +0, whose tile is all zeros. -/
theorem witness_XmomVariances (b : Array Byte) (h : ∀ k, b.getD k 0 = 0) (tr : Bool) :
    ∀ r ∈ streamed .bf16 b tr, ∀ v ∈ r, negVar v = false := by
  intro r hr v hv
  simp only [streamed, denseCodes, tabulate, codeAt_zero b h, List.mem_map] at hr
  obtain ⟨⟨row, k⟩, hm, rfl⟩ := hr
  obtain ⟨⟨x, j⟩, hx, rfl⟩ := List.mem_map.1 hv
  obtain ⟨_, _, rfl⟩ := List.mem_map.1 (List.fst_mem_of_mem_zipIdx hm)
  obtain ⟨_, _, this⟩ := List.mem_map.1 (List.fst_mem_of_mem_zipIdx hx)
  subst this
  simp only [underScale, show blocksOf .bf16 = 0 from rfl, if_true]
  decide
theorem zeros_getD (n k : Nat) : (Memory.read [] 0 n).toArray.getD k 0 = 0 := by
  rw [read_empty]; simp [Array.getD]
/-- A tile whose element 0 is −1. -/
theorem witness_XmomNegative : ∃ r ∈ streamed .bf16 (Memory.read [(0, 0x80), (1, 0xBF)] 0 2).toArray false, ∃ v ∈ r, negVar v = true := by
  decide

theorem witness_IntegerAccumulation :
    let c : Cell := ⟨BitVec.ofInt 36 (2 ^ 35 - 2), false, false, false, false⟩
    let d : Cell := ⟨BitVec.ofInt 36 (-2 ^ 35), false, false, false, false⟩
    let sum (c : Cell) (ps : List (Int × Int)) : Int := c.v.toInt + (ps.map fun x => x.1 * x.2).sum
    c.hold = false ∧ ({ c with hold := true } : Cell).hold = true ∧ sum c [(1, 1)] < 2 ^ 35 ∧ 2 ^ 35 ≤ sum c [(1, 2)] ∧
    -2 ^ 35 ≤ sum d [] ∧ sum d [(1, -1)] < -2 ^ 35 := by decide

theorem witness_MatrixTileOrder : (63 : Nat) < 64 ∧ (4095 : Nat) < 4096 ∧ (3 : Nat) < 4 := by decide

/-! The fabric. -/

set_option maxRecDepth 20000 in
theorem witness_CollectivesVersionsWaits :
    let s := machine th0
    (0x2080 : Word).toNat % 128 = 0 ∧ (0x2040 : Word).toNat % 128 ≠ 0 ∧
    (s.readVirt me 7 [] 0x2080 128).1 = .ok (List.replicate 128 0) false ∧ (s.readVirt me 7 [] 0x10000000000000 128).1 = .trap 9 0x10000000000000 ∧
    ((s.proc core0).chan 63).pkts = [] ∧ ((s.proc core0).chan 63).count ≤ (th0.seen.get 0 63) ∧
    Tab.get 0 [((63 : Nat), (0 : Nat))] 63 < ({ (s.proc core0).chan 63 with count := 1 } : Chan).count ∧
    (s.site 0).ctxIdx th0.ctx = some 5 ∧ (0 : Nat) ≤ ((s.proc core0).timeline 5 15).dn ∧ ((s.proc core0).timeline 5 15).dn < 1 ∧
    (s.site 0).active.toNat = 0x10000 % 2 ^ 16 ∧ (s.site 0).active.toNat ≠ 1 % 2 ^ 16 ∧ th0.faultWaits = false := by decide

/-- A set that context 7 owns, from local address 0. -/
def sets0 : State := { machine th0 with sites := [(0, { site0 with mcsets := [(16 * 255 + 1, 0x10007)] })] }
def partsOf (r : PRes) : Option (List Part) := match r with | .ok ps => some ps | _ => none

set_option maxRecDepth 20000 in
theorem witness_SendsAndMulticast :
    let s := machine th0
    let ps : List Part := [⟨0x2000, 0x2000, 32, false, false, false, none, false⟩]
    -- channel 1 of port processor 97 of site 0
    let w : Word := 0x4000000
    (31 : Nat) < 32 ∧ (65536 : Nat) ≤ 65536 ∧ 65536 % 32 = 0 ∧ (65536 : Nat) < 65568 ∧ (0x2020 : Word).toNat % 32 = 0 ∧ (0x2010 : Word).toNat % 32 ≠ 0 ∧
    badDest w.toNat = false ∧ badDest 0 = true ∧ partsOf (s.spanOf (at2 0) .read 0x2000 32).1 = some ps ∧
    128 % 128 = 0 ∧ 64 % 128 ≠ 0 ∧
    (let a : Word := 255
     let x := sets0.site 0
     let ctl := x.setWord 255 1
     a ≠ 0 ∧ a.toNat ≤ 255 ∧ ctl.getLsbD 16 = true ∧ ctl.toNat % 2 ^ 16 = th0.ctx ∧ ((x.setWord 255 0).toNat % 2 ^ 40 + 512) % 512 = 0 ∧
       (x.setWord 255 0).toNat % 2 ^ 40 + 512 % 2 ^ 40 < 2 ^ 40) ∧ ¬ (0 : Word) ≠ 0 := by decide

set_option maxRecDepth 20000 in
theorem witness_ReceivesReductionsQuantisation :
    let s := machine th0
    let part (va : Word) (n : Nat) : Part := ⟨va, va.toNat, n, false, false, false, none, false⟩
    (0x2020 : Word).toNat % 32 = 0 ∧ (0x2010 : Word).toNat % 32 ≠ 0 ∧
    partsOf (s.spanOf (at2 0) .write 0x2000 0).1 = some [part 0x2000 1] ∧ ((s.proc core0).chan 63).pkts = [] ∧
    (0 : Nat) < 1 ∧ (1 : Nat) ≤ 2 ^ 20 ∧ 2 ^ 20 < 2 ^ 20 + 1 ∧ 32 % 32 = 0 ∧ 33 % 32 ≠ 0 ∧ (0x2002 : Word).toNat % 4 ≠ 0 ∧
    partsOf (s.spanOf (at2 0) .write 0x2000 4).1 = some [part 0x2000 4] ∧ partsOf (s.spanOf (at2 0) .read 0x2004 4).1 = some [part 0x2004 4] ∧
    ((at2 0).sa 0x20000).toNat % 2 = 0 ∧
    partsOf (s.span (at2 0) .write (scalePieces (at2 0) 0x20000 1)).1 = some [part 0x2000 2] := by decide

/-- The engine of a port instruction whose places are at hand, refused, and at another site; one still behind an earlier store; and
the buffers that PRECV finds. -/
def portReq (w : PortWork) : Req := ⟨9, me, 0, 7, 0, some 7, .port 31 w 0 0, [], none, none, none⟩
def precv0 : Req := ⟨9, me, 0, 7, 0, some 7, .precv 31, [], none, none, none⟩
def reachOf (r : Reach × State) : Nat := match r.1 with | .may => 0 | .fails => 1 | .waits => 2
def fillOf (f : Fill) : Nat := match f with | .done _ => 0 | .fails _ => 1 | .waits _ => 2
def chanPkt0 : ChanPkt := ⟨List.replicate 32 1, 0, 0, false, false, 0, 0⟩
set_option maxRecDepth 20000 in
theorem witness_PortEngines :
    let w : PortWork := .pred 1 false .f32 0x2000 0x3000 [] [] 1
    let r := portReq w
    let s : State := { machine (th0.setSb 7 1) with reqs := [r] }
    let held : State := { s with stores := [⟨1, me, 0, 7, 0x3FF8, 0x3FF8, [1], .plain, 8, none, none, false, false, false, [0]⟩] }
    let filling (va : Word) : Nat := fillOf (({ s with reqs := [precv0] } : State).fillBuffer core0 5 ⟨9, va, 32⟩ chanPkt0)
    s.req 9 = some r ∧ r.resp = none ∧ s.carried core0 0 9 = true ∧ held.carried core0 0 9 = false ∧
    reachOf (s.reqReach r [([(0x3000, 4)], .read), ([(0x2000, 4)], .write)]) = 0 ∧
    reachOf (({ s with poison := [0xC0] } : State).reqReach r [([(0x3000, 4)], .read)]) = 1 ∧
    reachOf (s.reqReach r [([(far, 4)], .read)]) = 2 ∧
    filling 0x2000 = 0 ∧ filling 0x10000000000000 = 1 ∧ filling 0x8000 = 2 ∧
    ({ proc0 with chans := [(5, ⟨[⟨9, 0x2000, 32⟩], [chanPkt0], 0⟩)] } : Proc).channelOf 9 = some 5 := by decide

/-! The turns. No proof sees what the clocks of log 6 give, so a witness that needs time to have passed has a clock that did
tick as its hypothesis. -/

theorem witness_nanoseconds (h : 100000 ≤ Config.nanos 0) : 100000 ≤ nanoSpan 0 1 := by simpa [nanoSpan, sumUpTo] using h
theorem witness_portWait (h : 10000000 ≤ Config.nanos 0) : 10000000 ≤ nanoSpan 0 1 := by simpa [nanoSpan, sumUpTo] using h
theorem witness_cycles (h : 4096 ≤ Config.coreCycles 0 0) : 4096 ≤ procSpan core0 0 1 ∧ 64 ≤ procSpan core0 0 1 := by
  simp only [show procSpan core0 0 1 = coreSpan 0 0 1 from rfl, coreSpan, sumUpTo]; omega
theorem witness_noTime (n : Nat) : nanoSpan n n < 100000 ∧ nanoSpan n n < 10000000 := by simp [nanoSpan]
theorem witness_quantum (h : 1024 ≤ Config.coreCycles 0 0) :
    1 ≤ ({ State.reset with tick := 1 } : State).atime core0 { Entry.empty with st := .active } := by
  show 1 ≤ (sumUpTo (Config.coreCycles 0) 1 - sumUpTo (Config.coreCycles 0) 0) / 1024
  simp only [sumUpTo]; omega

/-- A store of the thread, of each kind, on its way to the last word of the page or to a pool. -/
def store0 (k : StoreKind) (pa n : Nat) : Store :=
  ⟨9, me, 0, 7, 0x3FF8, pa, List.replicate n 1, k, 8, some 7, none, false, false, false, []⟩
def onWay (x : Store) : State := { machine (th0.setSb 7 1) with stores := [x] }
def fits (x : Store) (a : Nat) : Bool :=
  (onWay x).arrived core0 7 9 a && (paRegion a x.size).isSome && !isControl a && (onWay x).windowFor core0 7 a x.size x.kind.access

theorem witness_StoresOnTheirWay :
    let x := store0 .plain 0x3FF8 8
    let m := store0 (.multi [(0x3FF8, 0)]) 0 8
    let b := store0 (.bfa []) 0x2000 0
    let d := store0 (.red 0 false) 0x3FF8 8
    ({ (machine th0).proc core0 with queues := [(2, [x])] } : Proc).queues.get [] 2 = x :: [] ∧ (machine th0).reqs = [] ∧
    (machine th0).stores = [] ∧ ({ x with rel := some 1 } : Store).rel = some 1 ∧
    (onWay x).store 9 = some x ∧ (onWay x).storeReady x = true ∧ fits x 0x3FF8 = true ∧ fits m 0x3FF8 = true ∧ fits b 0x2000 = true ∧
    fits d 0x3FF8 = true ∧ (onWay b).poisoned 0x2000 128 = false ∧ (onWay d).req 9 = none ∧
    -- 8 bytes across the end of DRAM, and a window that is not there
    (paRegion 0xFFFFFFFFC 8).isNone = true ∧ shut.windowFor core0 7 0x3FF8 8 .write = false ∧
    ({ x with done := true } : Store).done = true ∧ ((onWay x).th me).gen = x.gen ∧ ((onWay x).th me).st ≠ .exiting ∧
    (onWay x).locate me 0 = some me := by decide

set_option maxRecDepth 20000 in
/-- A store for site 2, and one of several own destinations; one whose home's site is off; one whose answer is on its way. -/
theorem witness_StoresGoOut :
    let x := store0 .plain far 8
    let y := store0 (.multi [(0x14000001F80, 0), (far, 0)]) 0 8
    let s := onWay x
    paSite x.pa ≠ x.t.p.site ∧ s.dead core0.site = false ∧
    (([(0x14000001F80, 0), (far, 0)] : List (Nat × Nat)).map (·.1)).filter (fun a => siteWaf (paSite a) == siteWaf y.t.p.site && paSite a != y.t.p.site) ≠ [] ∧
    s.arrived core0 7 9 far = false ∧ ({ onWay (store0 .plain 0x3FF8 8) with sites := [(0, { site0 with off := true })] } : State).arrived core0 7 9 0x3FF8 = false ∧
    ({ s with packets := [packetOf (.answer 9 far) 7 ⟨2, 126⟩ 0 ⟨0, 127⟩ 0 [] none 0] } : State).answering 9 = true ∧ s.answering 9 = false := by
  decide

/-- A load, and an atomic, of the last word of the page. -/
def part0 : Part := ⟨0x3FF8, 0x3FF8, 8, true, false, false, none, false⟩
def req0 (k : ReqKind) : Req := ⟨9, me, 0, 7, 0, some 7, k, [part0], none, none, none⟩
def load0 : Req := req0 (.load (.scalar 8 false 31) none)
def atom0 : Req := req0 (.load (.atom 0 false 1 31) none)
def asking (r : Req) : State := { machine (th0.setSb 7 1) with reqs := [r] }
def copy0 : Copy := ⟨127, List.replicate 128 5, 1, 2, [255]⟩
def copied : State := { asking load0 with procs := [(core0, { proc0 with l1 := [copy0] })], tick := 1 }
theorem witness_copyFor : copied.copyFor load0.t part0 = some (copy0, false) := by
  have h : copy0.serves 0 part0 0 1 [] = true := by simp [Copy.serves, Copy.fresh, coreSpan, copy0, lineOf, part0]
  show (match [copy0].find? (·.serves 0 part0 0 1 []) with
    | some c => some (c, false)
    | none => _) = some (copy0, false)
  simp [h]

set_option maxRecDepth 20000 in
theorem witness_LoadsAndAtomicsOnTheirWay :
    (asking load0).req 9 = some load0 ∧ load0.parts = [part0] ∧ part0.got = none ∧ load0.resp = none ∧ (asking load0).inOrder load0 = true ∧
    (LoadKind.scalar 8 false 31).isAtomic = false ∧ (LoadKind.atom 0 false 1 31).isAtomic = true ∧
    (asking load0).partReady load0 part0 = true ∧ (asking load0).copyFor load0.t part0 = none ∧
    copied.partReady load0 part0 = true ∧
    (asking atom0).atomicReady atom0 (if part0.rc then some 1 else none) = true ∧ (asking atom0).poisoned 0x3FF8 8 = false ∧
    ({ asking atom0 with poison := [255] } : State).poisoned 0x3FF8 8 = true ∧
    (let r : Req := { load0 with resp := some [.g (31 : BitVec 5).toNat 5] }
     r.resp = some [.g (31 : BitVec 5).toNat 5] ∧ r.poison = none ∧ (asking r).locate r.t r.gen = some me ∧
       ((asking r).th me).fid = r.fid ∧ ((asking r).th me).gen = r.gen ∧ ((asking r).th me).st ≠ .exiting) ∧
    (let r : Req := { load0 with resp := some [], poison := some 0x3FF8, sb := none }
     (asking r).locate r.t r.gen = some me ∧ ((asking r).th me).hold = Hold.empty) := by decide

/-- For context 7, a root table at 0x2000 whose first entry names a table at 0x4000, whose first entry is a leaf. -/
def tables : State := { machine th0 with sites := [(0, { site0 with ctxs := [(5, ⟨1, 7, 0x2000, 0, 0⟩)] })], mem := [(0x2000, 1), (0x2001, 0x40), (0x4000, 0x0F)] }
theorem witness_CachesTranslationsErrors :
    let s := machine th0
    (tables.site 0).liveCtx 7 = some 5 ∧
    (match walk tables ⟨0, 0⟩ 7 0x2000 0 with | .ok e lvl => some (e, lvl) | _ => none) = some (0x0F, 1) ∧
    s.reaches 0 0 = true ∧ s.windowOk 0 (siteWaf 0) 7 (mkPa 0 0x3FF8) 1 .read = true ∧
    shut.windowOk 0 (siteWaf 0) 7 (mkPa 0 0x3FF8) 1 .read = false ∧
    ({ proc0 with l1 := [copy0] } : Proc).l1.find? (fun c => c.line == 127) = some copy0 ∧
    (asking (req0 (.range true [(0x2000, 64)]))).req 9 = some (req0 (.range true [(0x2000, 64)])) ∧
    (s.th me).st ≠ .free ∧
    (let h : Hold := { Hold.empty with icinv := some (false, some (0x2000, 64)) }
     s.holdMet me { th0 with hold := { h with icinv := none } } = true) ∧
    (let h : Hold := { Hold.empty with tlbi := some (2, 0, true) }
     s.holdMet me { th0 with hold := { h with tlbi := none } } = true) := by decide

set_option maxRecDepth 20000 in
/-- A walk whose table is another site's; a verdict asked for there; an invalidation whose range needs one. -/
theorem witness_FarTables :
    (match walk farTables ⟨0, 0⟩ 7 0x20000000000 0x10000000000 with | .wait _ => true | _ => false) = true ∧
    (asked { farWay with hop := 2 }).judged 0 2 7 = true ∧ (asked farWay).judged 0 2 7 = false ∧ (machine th0).judged 0 0 7 = true ∧
    (asked { farWay with hop := 2 }).windowOk 0 0 7 (mkPa 2 0) 1 .read = true ∧
    ((machine th0).icDrops core0 7 (some (0x2000, 64))).1 = some [(64, 64)] ∧
    (farTables.icDrops core0 7 (some (0x10000000000, 64))).1 = none := by decide

/-- A clause of one NOP at 0x2000, at which the thread stands. -/
def nopClause : List Host.Cell := [(0x2007, 0xA0), (0x200D, 0x70), (0x200E, 0x70)]
def standing0 : State :=
  let t : Thread := { th0 with pc := 0x2000 }
  { quiet with threads := [(me, t)], mem := Memory.write [] 0x2000 (toBytes 8 0xA000000000000000 ++ toBytes 8 0x0070000000000000) }

set_option maxRecDepth 20000 in
theorem witness_ThreadTurns :
    let s := machine th0
    (quiet.standing core0 .s = []) ∧
    (let cs := standing0.standing core0 .s
     let m := standing0.markCands core0 .s cs
     let cs' := cs.map fun c => ({ c with th := m.th c.t } : Cand)
     (m.pick core0 cs' (m.throttled core0 .s (sortBy Cand.before cs'))).map (fun k => k.group.map laneOf |>.length) = some 1) ∧
    s.flights = flight th0 :: [] ∧ (flight th0).lanes = [lane th0] ∧ (lane th0).fault = none ∧ (lane th0).frozen = false ∧
    (lane th0).done = false ∧ th0.st = .ready ∧ standing0.inFlight me = false ∧ th0.hold = Hold.empty ∧ th0.tst.getLsbD 0 = false ∧
    nextPend [⟨21, 0, false⟩, ⟨11, 0, true⟩] = some ⟨11, 0, true⟩ ∧
    ({ th0 with st := .held } : Thread).st = .held ∧ ({ th0 with st := .stopped } : Thread).st = .stopped ∧
    (deep 1).frames.getLast? = some frame0 ∧ (deep 1).spilled ≠ 65535 ∧ s.spillHeld me (deep 1) frame0 = false ∧
    (deep 6).frames.length = 6 ∧ ({ deep 1 with spilled := 1 } : Thread).spilled ≠ 0 ∧
    (s.readVirt me 7 [] (0x3000 - 136) 136).1 = .ok (List.replicate 136 0) false := by decide

set_option maxRecDepth 20000 in
theorem witness_windowSpill :
    let t : Thread := { deep 1 with wsp := 0x3000 }
    let s : State := { quiet with threads := [(me, t)] }
    s.inFlight me = false ∧
    (match (s.storeParts (Env.at s me) none (((frame0.regs.toList ++ [frame0.lnk]).zipIdx).map fun x =>
      (t.wsp + BitVec.ofNat 64 (8 * x.2), toBytes 8 x.1.toNat))).1 with | .ok es => some es.length | _ => none) = some 17 := by decide

set_option maxRecDepth 20000 in
/-- A lane whose fault waits for its vector, one that takes it at once, one that waits to commit; a thread under a context that is
not live, and one whose vector is another site's. -/
theorem witness_LateTraps :
    let x : LFault := ⟨0, 1, 0, false⟩
    let l := { lane th0 with fault := some x }
    let f := { flight th0 with lanes := [l] }
    ({ vectorAt 0x8000 with flights := [] } : State).trapWaits f l = true ∧ ({ vectored th0 with flights := [] } : State).trapWaits f l = false ∧
    ({ lane th0 with stall := true } : LaneRun).stall = true ∧ x.later = false ∧
    (vectorAt 0x8000).vectorWaits (f.tid l) 1 = true ∧ (vectored th0).vectorWaits (f.tid l) 1 = false ∧
    answerOf ((vectored { th0 with ctx := 9 }).readVector me 21) = 4 := by decide

/-- A bulk read of two points, the second outside; a copy; an addition to a tile; an update. -/
def two : List Ctr := [⟨2, 0, 1, 64⟩, ⟨1, 0, 1, 0⟩, ⟨1, 0, 1, 0⟩, ⟨1, 0, 1, 0⟩, ⟨1, 0, 1, 0⟩, ⟨1, 0, 1, 0⟩]
def walk2 : Walk := ⟨0x2000, 2, true, 0, two⟩
def bread2 : OpKind := .bread walk2 64 0x2000 [] [] 512 0 none
def op0 (k : OpKind) : Op := ⟨9, me, 0, 7, 0, none, some 2, 1, 0, k, 0, 0, false, false, 0, [], [], [], [], [], [], [], none, false, false, false⟩
def running (o : Op) : State := { machine th0 with ops := [o] }
def burst0 : Burst := ⟨0, [0, 0, 0, 0, 0, 0], false, 0x2000, 0x2000, none, 0, false⟩
def addrOf (r : EngAddr × State) : Option Nat := match r.1 with | .ok pa => some pa | _ => none

set_option maxRecDepth 20000 in
theorem witness_EngineTurns :
    let o := op0 bread2
    let s := running o
    s.op 9 = some o ∧ o.stopped = false ∧ o.cancel = false ∧ s.carried core0 0 9 = true ∧ o.again = [] ∧ o.next < walk2.points ∧
    s.bufferUse core0 + 64 ≤ 65536 ∧ walk2.point 0 = ([0, 0, 0, 0, 0, 0], 0x2000, true) ∧
    walk2.point 1 = ([1, 0, 0, 0, 0, 0], 0x2040, false) ∧
    addrOf (s.engineAddr { o with next := 1 } false 0x2000 64 .read) = some 0x2000 ∧
    (let p : Op := { o with next := 1, bursts := [burst0] }
     (p.bursts.find? fun b => b.seq == 0 && b.data.isNone) = some burst0) ∧
    s.loadOk core0 7 9 0x2000 64 .read = true ∧ shut.loadOk core0 7 9 0x2000 64 .read = false ∧ s.poisoned 0x2000 64 = false ∧
    s.underway core0 0x2000 64 = false ∧ isControl 0x2000 = false ∧
    (let p : Op := { o with next := 2 }
     p.next = walk2.points ∧ p.bursts = [] ∧ p.held = [] ∧ p.handlers = [] ∧ (running p).handlerStoresDone p = true ∧ (9 ∉ p.kids)) ∧
    (let b : Burst := { burst0 with data := some (List.replicate 64 0) }
     let p : Op := { o with next := 1, bursts := [b] }
     let s := running p
     (s.landed core0).find? (fun x => s.mayAdmit x.1) = some (p, b) ∧ (∀ x ∈ s.landed core0, s.bandGone x.1 = false) ∧
       s.hlive core0 < (s.proc core0).hmax ∧ s.handlerSlot core0 = some ⟨core0, 0, 12⟩) := by decide

set_option maxRecDepth 20000 in
theorem witness_EngineTurnsOfCopies :
    (let p := op0 (.copy walk0 walk0)
     let s := running p
     p.kind.isCopy = true ∧ p.out = false ∧ p.staged = none ∧ s.carried core0 0 9 = true ∧
       ({ p with again := [3] } : Op).again = 3 :: [] ∧ s.underway core0 0x2000 64 = false ∧ p.held = [] ∧ p.next < p.kind.total ∧ ({ p with next := 64 } : Op).next = p.kind.total ∧
       walk0.point 0 = ([0, 0, 0, 0, 0, 0], 0x2000, true) ∧ addrOf (s.engineAddr p true 0x2000 64 .write) = some 0x2000 ∧
       s.loadOk core0 7 9 0x2000 64 .write = true) ∧
    -- the element's words may lie anywhere that the core reaches
    (let p := op0 (.bupd bupdBytes 0x2000 0x2004 0x2008 0x200C)
     let s := running p
     (0 : Nat) < p.kind.total ∧ p.next ≤ 0 ∧ (0 + 1) ∉ p.again ∧ s.loadOk core0 7 9 0x2000 4 .rmw = true ∧
       s.poisoned 0x2000 4 = false ∧ s.loadOk core0 7 9 0x200C 4 .read = true) ∧
    ({ proc0 with efq := [(3, ⟨3, false, true, 2, 7, 0x2000, 13⟩)] } : Proc).efq.find 3 = some ⟨3, false, true, 2, 7, 0x2000, 13⟩ ∧
    (let t : Tile := { ready16 with st := .filling, scrub := true }
     t.st ≠ .empty ∧ t.scrub = true) := by decide

set_option maxRecDepth 20000 in
/-- An engine's bytes at another site: asked for, on the way, come, discarded; units whose places are both at hand; an answer out. -/
theorem witness_EngineWays :
    let o := { op0 bread2 with next := 1, bursts := [{ burst0 with pa := far }] }
    let k : Packet := { farWay with kind := .access 9 far }
    let s (k : Packet) : State := { asked k with ops := [o] }
    (running o).wayOf core0 7 (.access 9 far) far = .unasked ∧ (s k).wayOf core0 7 (.access 9 far) far = .coming ∧
    (s { k with hop := 2 }).wayOf core0 7 (.access 9 far) far = .here ∧ (s { k with lost := true }).wayOf core0 7 (.access 9 far) far = .lost ∧
    (s k).opCarried o = true ∧ (s k).abroad 9 = true ∧ (running o).abroad 9 = false ∧
    ((running o).unitWays o [0x2000, 0x2040]).1 = true ∧ ((running o).unitWays o [0x2000, far]).1 = false := by decide

theorem witness_StreamTurns :
    let w : StreamWork := { StreamWork.idle with id := 4, accs := [7], fin := true, rows := 63, raises := [(7, List.replicate 64 ⟨true, false, false⟩)] }
    let d : StreamWork := { StreamWork.idle with id := 5, band := some ⟨0, 1⟩, tiles := [0], writes := true, accs := [7] }
    let q : Seq := { seq0 with work := [w, d] }
    let s := streaming q
    (q.work.find? fun w => w.isArray && w.accs.contains 7 && decide (w.rows < 64)) = some w ∧ w.fin = true ∧
    (List.replicate 64 (⟨true, false, false⟩ : RowFlags))[w.rows]? = some ⟨true, false, false⟩ ∧ w.squares = [] ∧ d.squares = [] ∧
    ({ w with rows := 64 } : StreamWork).isArray = true ∧ 64 ≤ ({ w with rows := 64 } : StreamWork).rows ∧
    (q.work.find? (·.id == 5)) = some d ∧ d.isArray = false ∧ q.ending = false ∧ w.tiles = [] ∧ d.tiles = [0] ∧
    ((s.proc core0).tile 0).st ≠ .empty ∧ seq0.st = .running ∧ q.band = some ⟨0, 1⟩ ∧ (s.proc core0).band ⟨0, 1⟩ = some bars4 ∧
    (3, 2) ∈ bars4.members ∧
    (let r := req0 (.acrd 7 6 false 63 0 1 0 .rn 15 0)
     (asking r).req 9 = some r ∧ r.resp = none ∧ ((asking r).proc core0 |>.seq.acc 7).wm = 64 ∧ 63 < 64 ∧
       (asking r).locate r.t r.gen = some me ∧ ({ AccTile.fresh with wm := 63 } : AccTile).wm ≤ 63) ∧
    (let r := req0 (.acwm 7 64 31)
     (asking r).req 9 = some r ∧ 64 ≤ ((asking r).proc core0 |>.seq.acc 7).wm ∧ ({ AccTile.fresh with wm := 63 } : AccTile).wm < 64) := by decide

/-- Core 0 with entry 31 in a state, that wants row 15 of lane 0, and a stopped thread of entry 30 in row 15. -/
def entry0 (st : ESt) : Entry := { Entry.empty with st := st, slo := 15, shi := 15, ctx := 7, record := List.replicate 12 0 ++ [1] ++ List.replicate 243 0 }
def halted : Thread := { th0 with st := .stopped, entry := 30 }
def scheduled (e : Entry) (l : List (TId × Thread)) : State :=
  { quiet with procs := [(core0, { proc0 with slots := [(30, entry0 .stopped), (31, e)] })], threads := l }
def stoppedAt : TId := ⟨core0, 0, 15⟩

set_option maxRecDepth 20000 in
theorem witness_SlotTableTurns :
    let w := scheduled (entry0 .wait) [(stoppedAt, halted)]
    let a := scheduled { entry0 .active with quantum := 1 } []
    (entry0 .stopping).st = .stopping ∧
    ((scheduled (entry0 .stopping) []).stopUnits core0 31).allStopped core0 31 = true ∧
    ((scheduled (entry0 .stopping) [(me, { th0 with entry := 31 })]).stopUnits core0 31).allStopped core0 31 = true ∧
    -- scan-out of the thread in the slot that entry 31 wants
    w.entryThreads core0 30 = [(stoppedAt, w.th stoppedAt)] ∧ (w.th stoppedAt).movable = true ∧
    stoppedAt ∈ (((w.proc core0).slots.filter fun x => x.1 != 30 && w.isClear core0 x.1).flatMap fun x => w.wantedSlots core0 x.1) ∧
    -- activation
    (let c := scheduled (entry0 .wait) []
     c.isClear core0 31 = true ∧ c.slotsReady core0 31 = true ∧ fieldAt (entry0 .wait).record 14 1 = 0 ∧
       c.wantedSlots core0 31 = [stoppedAt]) ∧
    (let r := List.replicate 14 0 ++ [65] ++ List.replicate 241 0
     fieldAt r 14 1 = 65 ∧ ((List.range 64).filter fun k => (proc0.bands.find k).isNone && !proc0.closing.any (·.num == k)).length < 65) ∧
    -- restore
    (let c := scheduled (entry0 .stopped) []
     c.isClear core0 31 = true ∧ c.slotsReady core0 31 = true ∧ (c.proc core0).sbands = [] ∧ (c.proc core0).stiles = [] ∧
       (c.proc core0).sseqs = [] ∧ c.engineRoom core0 31 = true ∧ (c.proc core0).move = none ∧ (entry0 .stopped).killing = false) ∧
    (a.proc core0 |>.entry 31).quantum ≠ 0 ∧ (entry0 .active).quantum = 0 ∧
    (let r : Proc := { proc0 with slots := [(31, { entry0 .active with quantum := 1 }), (30, entry0 .wait)] }
     (r.slots.any fun x => x.1 != 31 && x.2.pending && x.2.overlaps (r.entry 31) && x.2.prio == (r.entry 31).prio) = true) ∧
    a.entryThreads core0 31 = [] ∧ (a.proc core0).bands = [] ∧ a.ops = [] ∧ ({ entry0 .stopped with killing := true } : Entry).killing = true ∧
    ({ proc0 with bands := [(0, band1)] } : Proc).bands.find 0 = some band1 ∧
    (let m : Move := ⟨31, 0x100000, false, false, 7, 9⟩
     m.entry = 31 ∧ m.load = false ∧ m.err = false ∧ ({ m with load := true } : Move).load = true ∧ ({ m with err := true } : Move).err = true ∧
       (quiet.imageReach 0 m .write).1 = .may ∧ (quiet.imageReach 0 m .read).1 = .may ∧
       (quiet.imageReach 0 { m with image := 0xFFFF00000 } .write).1 = .fails ∧
       -- an image at another site is on its way
       (quiet.imageReach 0 { m with image := 0x20000100000 } .write).1 = .waits ∧ (scheduled (entry0 .stopped) []).atRest core0 31 = true ∧
       (scheduled (entry0 .stopped) []).enginesFit core0 31 = true ∧
       (let s := scheduled (entry0 .stopped) [(me, { halted with entry := 31 })]
        ({ s with stores := [{ store0 .plain 0x3FF8 8 with gen := halted.gen }] } : State).atRest core0 31 = false)) := by decide

set_option maxRecDepth 20000 in
/-- A stopped entry with a band scanned out whose number is free, and one whose number is taken; an entry under a kill. -/
theorem witness_Restores :
    let s (b : Tab Nat Band) := { quiet with procs := [(core0, { proc0 with
      slots := [(31, entry0 .stopped)], bands := b, sbands := [((31, 0), { band1 with entry := 31 })] })] }
    ((s []).claimAll core0 31 |>.readBack core0 31).canRestore core0 31 = true ∧
    ((s [(0, band1)]).claimAll core0 31 |>.readBack core0 31).canRestore core0 31 = false ∧
    ({ entry0 .wait with killing := true } : Entry).killing = true ∧
    (scheduled (entry0 .wait) []).isClear core0 31 = true := by decide

theorem witness_ControlSpaceTurns :
    let good : Scrub := ⟨0, 0xFFFFFFFFF, false, false, 0, 0⟩
    let bad : Scrub := ⟨0, 0x1000000000, false, false, 0, 0⟩
    (63 : Nat) < 64 ∧ (15 : Nat) < 16 ∧ isCompute 0 = true ∧ good.base ≤ good.limit ∧
    paRegion (mkPa 0 0) (good.limit + 1 - good.base) = some .dram ∧ paRegion (mkPa 0 0) (bad.limit + 1 - bad.base) = none ∧
    (machine th0).mem = [] ∧ ({ good with busy := true } : Scrub).busy = true ∧ good.busy = false ∧
    (5 : BitVec 16) ≠ site0.active ∧ (0x5 : Word).extractLsb' 0 16 = ({ site0 with shadow := 5 } : Site).shadow ∧
    (0 : Word).extractLsb' 0 16 = site0.active ∧ ((9 : Word).extractLsb' 0 16 ≠ site0.shadow) ∧
    ({ site0 with maskNext := [(3, true, 1)] } : Site).maskNext = [(3, true, 1)] ∧
    (site0.ctx 6).st = 0 ∧ site0.ctxIdx (site0.ctx 6).id = none ∧ (site0.ctx 5).st = 1 ∧
    (({ site0 with ctxs := [(5, ⟨2, 7, 0, 0, 0⟩)] } : Site).ctx 5).st = 2 ∧
    (∀ p ∈ quiet.procs, p.1.site = 0 → ∀ e ∈ p.2.slots, e.2.st ≠ .empty → e.2.ctx ≠ 7) ∧ quiet.threads = [] ∧ quiet.ops = [] ∧
    quiet.reqs = [] ∧ (∀ p ∈ quiet.procs, p.2.move = none ∧ p.2.closing = []) := by decide

/-- The port of site 0 to its neighbour has 16 lanes, its external port 8. -/
def linked (st : LinkSt) : Link := { linkReset 0 3 0 with st := st }
theorem witness_LinkTurns :
    linkPresent 0 3 0 = true ∧ linkPresent 0 4 0 = true ∧ laneCount 0 3 = 16 ∧ laneCount 0 4 = 8 ∧
    (machine th0).link 0 3 0 = linkReset 0 3 0 ∧ (linkReset 0 3 0).st = .down ∧ (linked .failed).st = .failed ∧
    covers 0xFFFF (fullMask 0 3) = true ∧ covers 0x00FF (fullMask 0 3) = false ∧ lowHalf 0 3 0x00FF = some 0x00FF ∧
    lowHalf 0 3 0x7F00 = none ∧ (15 : Nat) < laneCount 0 3 ∧ (0x00FF : BitVec 16).getLsbD 7 = true ∧ (0x00FF : BitVec 16).getLsbD 8 = false ∧
    lowHalf 0 3 ((linkReset 0 3 0).good) = none ∧ lowHalf 0 3 (0x00FF &&& ~~~0x0001) = none ∧ lowHalf 0 3 (0xFFFF &&& ~~~0x0001) = some 0xFF00 ∧
    16 ≤ ({ linked .up with crc := 15 } : Link).crc + 1 ∧ ({ linked .half with crc := 14 } : Link).crc + 1 < 16 ∧
    (linked .up).st.isUp = true ∧ (linked .half).st.isUp = true := by decide

/-- Packets from port processor 97 of site 0. -/
def pkt (dst : PId) (hop : Nat) : Packet := { packetOf (.data 0) 7 ⟨0, 97⟩ 0 dst 1 [] (some 9) 3 with id := 9, hop := hop }
def moving (k : Packet) : State := { machine th0 with packets := [k] }
/-- A site whose external port is up. -/
def openSite : Site := { site0 with links := [((4, 0), { linkReset 0 4 0 with st := .up, weight := 8 })] }
def closing0 : Closing := ⟨0, 1, 0, 7, List.replicate 10 0 ++ [1] ++ List.replicate 245 0, false, true⟩

set_option maxRecDepth 20000 in
theorem witness_PacketTurns :
    let k := pkt ⟨2, 98⟩ 0
    let s := moving k
    s.packet 9 = some k ∧ k.hop ≠ k.dst.site ∧ s.dead 0 = false ∧ k.crossing = false ∧ s.cleared k = true ∧ k.load = [] ∧ k.via = none ∧
    siteWaf k.dst.site = siteWaf k.hop ∧ siteWaf (pkt ⟨64, 98⟩ 0).dst.site ≠ siteWaf (pkt ⟨64, 98⟩ 0).hop ∧ isCompute 0 = true ∧
    isCompute 1 = false ∧ s.egressOf 0 = none ∧ k.waitAt = none ∧ k.heldAt = none ∧
    ({ s with sites := [(0, { site0 with off := true })] } : State).dead 0 = true ∧
    -- an earlier store still queued holds the packet back; a buffer that a window keeps out
    ({ s with procs := [(⟨0, 97⟩, { Proc.reset with queues := [(0, [{ store0 .plain 0x3FF8 8 with id := 1 }])] })] } : State).cleared k = false ∧
    (match shut.loadPacket { k with load := [(0x2000, 32)] } with | .nack c _ => c | _ => 0) = 3 ∧
    -- on a link, as the first of its buffer that is no marker
    (let x : Packet := { k with wire := some (0, 3, 0), crossing := true }
     let l : Link := { linkReset 0 3 0 with st := .up, retry := [⟨0, 0, 0, some 1⟩, ⟨0, 1, 9, none⟩] }
     let u : State := { moving x with sites := [(0, { site0 with links := [((3, 0), l)] })] }
     u.packet 9 = some x ∧ neighbour 0 3 = some 1 ∧ u.dead 1 = false ∧ pastMarks (u.link 0 3 0).retry = ⟨0, 1, 9, none⟩ :: [] ∧
       (u.link 0 3 0).st.isUp = true ∧ x.flow = none) ∧
    -- its own endpoint, that of another site, and one that is up at the destination
    (let u : State := { s with sites := [(0, openSite), (64, openSite)] }
     u.egressOf 0 = some 0 ∧ u.sillUp 64 = true) ∧
    (let u : State := { s with sites := [(0, { site0 with egress := 0x89 }), (9, openSite)] }
     u.egressOf 0 = some 9) ∧
    -- at its destination
    (let x := pkt ⟨2, 98⟩ 2
     x.hop = x.dst.site ∧ x.crossing = false ∧ (moving x).cleared x = true ∧ x.load = []) ∧
    verOrder 0xFFFF 0 = 1 ∧ verOrder 0x7FFF 0 = 2 ∧ verOrder 0x8000 0 = 1 ∧ verOrder 0 0 = 0 ∧
    ({ k with ext := some true } : Packet).ext = some true ∧ siteWaf k.src.site = siteWaf k.dst.site ∧ k.ext ≠ some true := by decide

/-- A site whose mesh port to the pool at 1 is up, and the pool's to the site at 2. -/
def meshed : State :=
  let up (g port : Nat) : Link := { linkReset g port 0 with st := .up, weight := 16 }
  { machine th0 with sites := [(0, { site0 with links := [((3, 0), up 0 3)], rtActive := [(1, 0x800), (2, 0x800)] }), (1, { Site.reset with links := [((3, 0), up 1 3)], rtActive := [(2, 8)] })] }
set_option maxRecDepth 20000 in
theorem witness_PacketWays :
    let k := pkt ⟨2, 98⟩ 0
    let s : State := { meshed with packets := [k] }
    let m : Packet := { k with kind := .multi 9 [far] }
    ({ k with lost := true } : Packet).lost = true ∧ s.cleared k = true ∧
    (match s.planeOf k with | .mesh p => p | _ => 9) = 3 ∧ (match (moving k).planeOf k with | .none => true | _ => false) = true ∧
    s.fanOut m [far] = [([3], [far])] ∧ (moving m).fanOut m [far] = [([], [far])] ∧ (s.fanOut m [far, 0x14000000000]).length = 1 ∧
    ((moving m).fanOut m [far, 0x14000000000]).length ≠ 1 ∧
    -- at the pool
    (let x := pkt ⟨2, 98⟩ 1
     let u : State := { meshed with packets := [x] }
     u.leastPort 1 (u.candidates 1 (u.route 1 (some x.ver) 2)) = some 3 ∧ u.crossRoom x 3 = true ∧
       (moving x).leastPort 1 ((moving x).candidates 1 ((moving x).route 1 (some x.ver) 2)) = none ∧
       u.portUp 1 3 = true ∧ u.spread 1 3 (u.liveLinks 1 3) x.lot = some 0 ∧ u.linkRoom x 3 0 = true ∧
       (let full : Packet := { x with id := 8, xport := some 3, data := List.replicate 4000 0 }
        ({ u with packets := [full, x] } : State).crossRoom x 3 = false)) ∧
    -- over the external plane
    (let y : Packet := { pkt ⟨64, 98⟩ 0 with wire := some (0, sillPort 0, 0), crossing := true }
     let u : State := { moving y with sites := [(0, openSite), (64, openSite)] }
     u.farEnd y = some (64, sillIn 64) ∧ ({ u with sites := [(0, openSite)] } : State).farEnd y = none ∧
       ({ moving { y with wire := none, crossing := false } with sites := [(0, openSite), (64, openSite)] } : State).linkRoom y (sillPort 0) 0 = true ∧
       u.spread 0 (sillPort 0) (u.liveLinks 0 (sillPort 0)) y.lot = some 0) ∧
    -- its buffer is another site's
    (match s.loadPacket { k with load := [(far, 32)] } with | .waits _ => true | _ => false) = true ∧
    -- an access and an answer that have come
    (let r := req0 (.load (.scalar 8 false 31) none)
     (asking r).awaits 9 = true ∧ quiet.awaits 9 = false) := by decide

set_option maxRecDepth 20000 in
theorem witness_PacketAnswersAndChunks :
    let k := pkt ⟨2, 98⟩ 0
    (let r := req0 (.psend 31)
     (asking r).req 9 = some r ∧ r.resp = none ∧ k.req = some 9) ∧
    (let x := store0 .plain 0x14000001F80 8
     (onWay x).store 9 = some x ∧ (onWay x).locate x.t x.gen = some me) ∧
    (let r := req0 (.coll 31 0 [])
     (asking r).req 9 = some r ∧ ({ asking r with threads := [] } : State).locate r.t r.gen = none ∧ 
       descBad ([2, 0, 0, 0, 0, 0, 0, 0, 1, 0, 0, 0, 1] ++ List.replicate 115 0) = false) ∧
    (let x := pkt ⟨0, 98⟩ 0
     x.hop = x.dst.site ∧ x.crossing = false ∧ (moving x).cleared x = true) ∧
    (({ proc0 with closing := [closing0] } : Proc).closing.find? fun c => c.num == 0 && c.chunk) = some closing0 ∧
    recordBound closing0.record = some (0, 0, 0) ∧ (tables.dyingBytes core0 7 0 128).1 ≠ none ∧
    (let s := streaming seq0
     ((s.proc core0).tile 0).st ≠ .empty ∧ ((s.proc core0).tile 0).band = ⟨closing0.num, closing0.epoch⟩ ∧ closing0.killed = false ∧
       ((s.proc core0).tile 0).st ≠ .filling) ∧
    ({ closing0 with killed := true } : Closing).killed = true := by decide

/-- Only core 0 of site 0 takes part. -/
def trussed (arrived : Bool) : State :=
  let masked : Tab Nat Site := (List.range 64).map fun g => (g, { Site.reset with masks := [(15, if g = 0 then 1 else 0)] })
  { State.reset with procs := [(core0, { proc0 with tarr := [(15, arrived)] })], sites := masked }

set_option maxRecDepth 20000 in
theorem witness_trussRelease : (trussed true).trussCores 15 = [core0] ∧ (trussed true).trel = [] ∧
    ((trussed true).proc core0).tarr.get false 15 = true ∧ ((trussed false).proc core0).tarr.get false 15 = false ∧
    (∃ p ∈ (trussed false).trussCores 15, ((trussed false).proc p).tarr.get false 15 = false) ∧
    (core0, 15) ∈ ({ trussed true with trel := [(core0, 15)] } : State).trel := by decide

/-- The header of a write by context 7, and of one of an opcode that R297 reserves. -/
def header (op : Nat) : BitVec 256 := BitVec.ofNat 256 (2 ^ 252 + op * 2 ^ 244 + 7 * 2 ^ 146 + 0x2000)
def hosted : State :=
  { machine th0 with released := true, sites := [(0, { openSite with hosts := [(1, BitVec.ofNat 64 (2 ^ 63))] })] }

set_option maxRecDepth 20000 in
theorem witness_TrussAndOutsideTurns :
    hosted.sillUp 0 = true ∧ (machine th0).sillUp 0 = false ∧ badHeader (header 0) = false ∧ badHeader (header 14) = true ∧
    badHeader (header 7) = false ∧ isControl ((header 0).extractLsb' 0 64).toNat = false ∧
    (paRegion ((header 0).extractLsb' 0 64).toNat 8).isSome = true ∧
    hosted.windowOk 0 0 ((header 0).extractLsb' 146 16).toNat 0x2000 8 .write = true ∧
    shut.windowOk 0 0 7 0x2000 8 .write = false ∧ (0x2000 : Nat) % 8 = 0 ∧ (11 : BitVec 4).toNat ≤ 11 ∧
    paSite ((header 0).extractLsb' 0 64).toNat = 0 ∧ ((header 6).extractLsb' 244 6).toNat = 6 ∧ badHeader (header 6) = false ∧
    badHeader (header 3) = false ∧ badHeader (BitVec.ofNat 256 0) = true ∧ isControl 0x2000 = false ∧
    hosted.hostCheck 0 0 0x2000 8 .write = .pass 0 ⟨⟨0, 127⟩, 0, 0⟩ ∧ hosted.hostCheck 0 0 0x2000 8 .rmw = .pass 0 ⟨⟨0, 127⟩, 0, 0⟩ ∧
    hosted.hostCheck 0 0 0x2000 8 .read ≠ .discard ∧ hosted.poisoned 0x2000 8 = false ∧ (machine th0).hostCheck 0 1 0x2000 8 .write = .refused ∧
    hosted.hostCheck 0 9999 0x2000 8 .write = .discard := by decide

set_option maxRecDepth 20000 in
/-- A load and a store on their way to another wafer, and the headers of the answers for them. -/
theorem witness_AnswersFromOutside :
    let a := mkPa 64 0x2000
    let h : BitVec 256 := BitVec.ofNat 256 (2 ^ 252 + 2 * 2 ^ 244 + 7 * 2 ^ 146 + a)
    let p : Part := { part0 with pa := a }
    let r : Req := { load0 with parts := [p] }
    let x := store0 .plain a 8
    let s : State := { hosted with reqs := [r], stores := [x], packets := [packetOf (.access 9 a) 7 core0 0 ⟨64, 127⟩ 0 [] none 0] }
    badHeader h = false ∧ (h.extractLsb' 244 6).toNat = 2 ∧ s.extWaiter 0 h = some r ∧ s.req r.id = some r ∧ p.got = none ∧ p.n = 8 ∧
    s.extStore 0 h = some x ∧ isControl a = false ∧ s.bufferFlits (sillIn 0) 0 = 0 := by decide

/-- An image of framer firmware of the highest version, with the smallest image and the shortest signature. -/
def image0 : Image :=
  ⟨toBytes 4 0x4B56494D ++ List.replicate 4 0 ++ toBytes 4 0xFFFFFFFF ++ toBytes 4 1 ++ List.replicate 64 0 ++ toBytes 2 1 ++ List.replicate 1326 0, true⟩
set_option maxRecDepth 20000 in
theorem witness_imageGood : imageGood 0 0 image0 = true ∧ imageGood 0 0 { image0 with genuine := false } = false := by
  simp only [imageGood, Bool.and_eq_true, Bool.and_eq_false_iff, decide_eq_true_eq]
  exact ⟨⟨by decide, Nat.le_trans (Nat.le_of_lt_succ (Config.otpMin 0 0).isLt) (by decide)⟩, by decide⟩
/-- The same image as a record of identity. -/
def record0 : Image := ⟨image0.header.set 4 2, true⟩
set_option maxRecDepth 20000 in
theorem witness_recordGood : imageGood 0 2 record0 = true ∧ imageGood 0 2 image0 = false := by
  simp only [imageGood, Bool.and_eq_true, Bool.and_eq_false_iff, decide_eq_true_eq]
  exact ⟨⟨by decide, Nat.le_trans (Nat.le_of_lt_succ (Config.otpMin 0 2).isLt) (by decide)⟩, by decide⟩
set_option maxRecDepth 20000 in
/-- The alarm states that a site which starts finds on its wafer; a pool that its framer boots. -/
theorem witness_Alarms :
    let at' (k : Nat) : State := { State.reset with sites := [(1, { Site.reset with alarm := k })] }
    (at' 4).armed 0 = 4 ∧ (at' 3).armed 0 = 2 ∧ (at' 2).armed 0 = 2 ∧ (at' 1).armed 0 = 1 ∧ (at' 0).armed 0 = 1 ∧
    isCompute 1 = false ∧ reporting 1 = 0 ∧ Site.reset.boot = 0 ∧ ({ Site.reset with boot := 1 } : Site).boot = 1 := by decide

set_option maxRecDepth 20000 in
theorem witness_DeviceTurns :
    let hot : Therm := ⟨true, 1600, 1600⟩
    let all (b : Nat) : State := { State.reset with sites := (List.range 64).map fun g => (g, { Site.reset with boot := b, master := g == 0 }) }
    (State.reset.power = true) ∧ ({ State.reset with power := false } : State).power = false ∧ isCompute 0 = true ∧ Site.reset.boot = 0 ∧
    Site.reset.keys = true ∧ (∃ x ∈ (all 3).ownSites, ((all 3).site x).master = true) ∧ (∀ x ∈ (all 3).ownSites, (all 3).accounted x = true) ∧
    (∃ x ∈ (all 1).ownSites, (all 1).accounted x = false) ∧ Site.reset.alarm = 0 ∧ 0 ∈ State.reset.ownSites ∧ (2 : Nat) ≤ 2 ∧
    4800 < 4801 ∧ Site.reset.ilim = 4800 ∧ hot.hot 100 = true ∧ ({ hot with temp := 1599 } : Therm).hot 100 = false ∧
    ({ site0 with below := some 0 } : Site).below = some 0 ∧ site0.below = none ∧ (4 : Nat) < 5 ∧
    100 * 4559 < 95 * 4800 ∧ 95 * 4800 ≤ 100 * 4560 ∧ (15 : Nat) < 16 ∧ (3 : Nat) ≤ 3 ∧ (1759 : BitVec 16).toInt < 1760 ∧
    1600 ≤ (1600 : BitVec 16).toInt ∧ 1760 ≤ (1760 : BitVec 16).toInt := by decide

/-! The machine as a whole. -/

/-- A state that runs a word, and one that the power has left. -/
theorem witness_StepKeepsMemoryCanonical : State.reset.canonical ∧ ∃ t, step State.reset = .next t := ⟨rfl, _, rfl⟩

theorem witness_EncodeDecodeAgree : (Instr.ffma (bf 31 8 7 6) { fm with rnd := .rs }).wellFormed = true ∧
    (∃ i, decodeWord .s 0x8372420386000002 = .ok i) ∧ (∃ i, decodeX 0x0500001000000001 = .ok i) ∧
    (∃ h, decodeHeader 0xA000000000000000 = .ok h) := ⟨by decide, ⟨_, rfl⟩, ⟨_, rfl⟩, ⟨_, rfl⟩⟩

def seen (l : List Turn) : State := { State.reset with agenda := l }
theorem witness_StepRunsDecodedInstruction :
    (seen [.event .powerOff]).agenda = .event .powerOff :: [] ∧ (seen [.stream core0]).agenda = .stream core0 :: [] ∧
    (machine th0).agenda = [] ∧ (machine th0).power = true ∧ (machine th0).stream = none ∧ (machine th0).flights = flight th0 :: [] ∧
    (streaming seq0).stream = some (core0, 0) ∧ State.reset.flights = [] ∧ ({ flight th0 with idx := 1 } : Flight).words[1]? = none ∧
    (flight th0).words[0]? = some 0 := by decide
theorem witness_streamWords : decodeX 0x0500001000000001 = .ok (.xba 4 1) ∧ decodeX 0xFF00000000000000 = .error .illegalOpcode ∧
    decodeX 0x0000000000000001 = .error .reservedField ∧ decodeWord .s 0x0070000000000000 = .ok (.nop (bf 0 0 0 0)) := ⟨rfl, rfl, rfl, rfl⟩

theorem witness_OnlyPowerLossStops : ({ State.reset with power := false } : State).agenda = [] ∧
    ({ State.reset with power := false } : State).power = false ∧ State.reset.power = true ∧ (seen [.event .powerOnReset]).agenda ≠ [] := by decide

theorem witness_RegisterFileRules : (31 : Nat) < 32 ∧ (6 : Nat) < 7 ∧ (15 : Nat) < 16 ∧ (7 : Nat) < 8 := by decide
end Sys2Proof.Tests
end

section
/-! The device (R10, R23, R376, R377, R380 to R385): power, boot, the alarm, clocks, heat, rings and wear. The body of a site
is what queued events, log entries, moves of links and kills leave alone of it; each of these is followed once, and the turns
of the device are read off the body. -/
namespace Sys2Proof.Machine

/-! The body of a site. -/

/-- A site with its event queue, error log, links, pins, contexts and cached verdicts blanked. -/
def Site.body (q : Site) : Site :=
  { q with
    events := [], lost := 0, pend := 0, logLost := 0, logNext := 0, log := [], links := [], pins := [], ctxs := [], stlb := []
    grants := [] }

/-- The body of a site of the machine. -/
def State.body (s : State) (g : Nat) : Site := (s.site g).body

theorem body_setSite (s : State) (g x : Nat) (v : Site) : (s.setSite g v).body x = if x = g then v.body else s.body x := by
  unfold State.body
  split
  · next h => rw [h, State.site_setSite]
  · next h => rw [State.site_setSite_ne _ _ _ _ h]

/-- An update that commutes with the blanking acts on the body. -/
theorem body_modSite {f : Site → Site} (hf : ∀ q, (f q).body = f q.body) (s : State) (g x : Nat) :
    (s.modSite g f).body x = if x = g then f (s.body x) else s.body x := by
  unfold State.modSite
  rw [body_setSite]
  split
  · next h => rw [hf, h]; rfl
  · rfl

theorem body_modSite_self {f : Site → Site} {s : State} {g : Nat} (hf : ∀ q, (f q).body = f q.body) :
    (s.modSite g f).body g = f (s.body g) :=
  (body_modSite hf s g g).trans (if_pos rfl)

/-- Steps that each update the body of one site the same way, and change nothing when repeated there. -/
theorem body_foldl {step : State → Nat → State} {f : Site → Site}
    (hstep : ∀ s g x, (step s g).body x = if x = g then f (s.body x) else s.body x) (hf : ∀ q, f (f q) = f q)
    (l : List Nat) (s : State) (x : Nat) : (l.foldl step s).body x = if x ∈ l then f (s.body x) else s.body x := by
  induction l generalizing s with
  | nil => rfl
  | cons g l ih =>
    rw [List.foldl_cons, ih, hstep]
    by_cases hg : x = g
    · simp [hg, hf]
    · simp [hg]

/-! Events, log entries and links. -/

/-- A part of the state that holds no packet, and of a site its body at most. -/
structure OffRecord {γ : Type} (q : State → γ) : Prop where
  site : ∀ (s : State) (g : Nat) (v : Site), v.body = s.body g → q (s.setSite g v) = q s
  packets : ∀ (s : State) k, q { s with packets := k } = q s

theorem offRecord_mem : OffRecord State.mem := ⟨fun _ _ _ _ => rfl, fun _ _ => rfl⟩
theorem offRecord_threads : OffRecord State.threads := ⟨fun _ _ _ _ => rfl, fun _ _ => rfl⟩
theorem offRecord_procs : OffRecord State.procs := ⟨fun _ _ _ _ => rfl, fun _ _ => rfl⟩
theorem offRecord_body (x : Nat) : OffRecord fun s => s.body x where
  site s g v hv := by
    rw [body_setSite]
    split
    · next h => rw [hv, h]
    · rfl
  packets _ _ := rfl

section
variable {γ : Type} {q : State → γ} (h : OffRecord q)
include h

theorem raise_keeps (s : State) (gs kind core lane slot ctx data : Nat) : q (s.raise gs kind core lane slot ctx data) = q s := by
  unfold State.raise; simp only
  split <;> exact h.site _ _ _ rfl
theorem health_keeps (s : State) (gs cause i : Nat) : q (s.health gs cause i) = q s := raise_keeps h ..
theorem logErr_keeps (s : State) (gs kind sev ctx core lane slot other : Nat) (a : Word) (count detail : Nat) :
    q (s.logErr gs kind sev ctx core lane slot other a count detail) = q s := by
  unfold State.logErr; simp only
  split
  · exact h.site _ _ _ rfl
  · split <;> exact h.site _ _ _ rfl
theorem setLink_keeps (s : State) (gs port k : Nat) (l : Link) : q (s.setLink gs port k l) = q s := h.site _ _ _ rfl
theorem moveRetry_keeps (s : State) (gs port k : Nat) : q (s.moveRetry gs port k) = q s := by
  unfold State.moveRetry; extract_lets live l goes mark moved kept
  split
  · rfl
  · exact (h.packets _ _).trans ((setLink_keeps h ..).trans (foldl_keeps q _ (fun b _ => setLink_keeps h b ..) _ _))
theorem adoptFlits_keeps (s : State) (gs port : Nat) : q (s.adoptFlits gs port) = q s := by
  refine foldl_keeps q _ (fun b k => ?_) _ _
  simp only
  split
  · exact moveRetry_keeps h ..
  · rfl
theorem linkTo_keeps (s : State) (gs port k : Nat) (st : LinkSt) (weight : Nat) (f : Link → Link) :
    q (s.linkTo gs port k st weight f) = q s := by
  unfold State.linkTo; extract_lets l set adopted ev
  have ha : q adopted = q s := by
    unfold adopted; split
    · exact (adoptFlits_keeps h ..).trans (setLink_keeps h ..)
    · exact setLink_keeps h ..
  split
  · exact ha
  · exact (logErr_keeps h ..).trans ((raise_keeps h ..).trans ha)
theorem leaveUp_keeps (s : State) (gs port k : Nat) (st : LinkSt) (f : Link → Link) : q (s.leaveUp gs port k st f) = q s := by
  unfold State.leaveUp
  refine (linkTo_keeps h ..).trans ?_
  split
  · exact moveRetry_keeps h ..
  · rfl
theorem trainLink_keeps (s : State) (gs port k : Nat) : q (s.trainLink gs port k) = q s := by
  unfold State.trainLink
  split
  · rfl
  · split
    · exact linkTo_keeps h ..
    · exact linkTo_keeps h ..
    · exact leaveUp_keeps h ..
    · exact leaveUp_keeps h ..
    · rfl
theorem trainAll_keeps (s : State) (gs : Nat) : q (s.trainAll gs) = q s :=
  foldl_keeps q _ (fun b _ => foldl_keeps q _ (fun c _ => trainLink_keeps h c ..) _ b) _ s
theorem laneFail_keeps (s : State) (gs port k lane : Nat) : q (s.laneFail gs port k lane) = q s := by
  unfold State.laneFail
  split
  · rfl
  · simp only
    split
    · exact leaveUp_keeps h ..
    · exact setLink_keeps h ..
    · split
      · exact leaveUp_keeps h ..
      · rfl
    · rfl
theorem refuseImage_keeps (s : State) (gs : Nat) : q (s.refuseImage gs) = q s := logErr_keeps h ..
/-- Of a failure to boot BOOT alone stands off the record. -/
theorem bootFail_keeps (s : State) (gs : Nat) : q (s.bootFail gs) = q (s.modSite gs fun x => { x with boot := 2 }) := by
  unfold State.bootFail; simp only
  split
  · exact (foldl_keeps q _ (fun b _ => health_keeps h b ..) _ _).trans (health_keeps h ..)
  · exact health_keeps h ..
/-- A pool's turn of its boot stays on the pool's site. -/
theorem bootPool_keeps (hs : ∀ (s : State) (g : Nat) (v : Site), q (s.setSite g v) = q s) (s : State) (gs x : Nat) (i : Image) :
    q (s.bootPool gs x i) = q s := by
  unfold State.bootPool
  split
  · rfl
  · split
    · exact hs ..
    · split
      · exact (trainAll_keeps h ..).trans (hs ..)
      · exact (bootFail_keeps h ..).trans ((hs ..).trans (refuseImage_keeps h ..))
    · rfl

end

/-! Kills: of the sites they change the pins of bands, and the context's entry and cached translations and verdicts, and no more. -/

@[simp] theorem setTh_body (s : State) (t : TId) (v : Thread) (x : Nat) : (s.setTh t v).body x = s.body x := rfl
@[simp] theorem modTh_body (s : State) (t : TId) (f : Thread → Thread) (x : Nat) : (s.modTh t f).body x = s.body x := rfl
@[simp] theorem modProc_body (s : State) (p : PId) (f : Proc → Proc) (x : Nat) : (s.modProc p f).body x = s.body x := rfl
@[simp] theorem rjStrike_body (s : State) (p : PId) (row j lane x : Nat) : (s.rjStrike p row j lane).body x = s.body x := by
  unfold State.rjStrike State.rjCheck; simp only
  split
  · refine (foldl_keeps (State.body · x) _ (fun b l => ?_) _ _).trans rfl
    split <;> rfl
  · rfl
@[simp] theorem strikeAll_body (s : State) (t : TId) (x : Nat) : (s.strikeAll t).body x = s.body x := by
  refine foldl_keeps (State.body · x) _ (fun b j => ?_) _ _
  split
  · exact rjStrike_body ..
  · rfl
@[simp] theorem handlerEnd_body (s : State) (t : TId) (err : Bool) (code x : Nat) :
    (s.handlerEnd t err code).body x = s.body x := by
  unfold State.handlerEnd; split <;> rfl
@[simp] theorem endBand_body (s : State) (p : PId) (b : BandRef) (ctx : Nat) (killed : Bool) (x : Nat) :
    (s.endBand p b ctx killed).body x = s.body x := by
  unfold State.endBand; simp only
  split
  · rfl
  · refine (foldl_keeps (State.body · x) _ (by intros; rfl) _ _).trans ?_
    have hpins (u : State) : (u.modSite p.site fun q => { q with pins := q.pins.filter fun y => y.1 != .band p b }).body x =
        u.body x := (offRecord_body x).site u _ _ rfl
    split <;> exact hpins _
@[simp] theorem leaveBand_body (s : State) (t : TId) (x : Nat) : (s.leaveBand t).body x = s.body x := by
  unfold State.leaveBand; split
  · rfl
  · simp only; split
    · rfl
    · rw [modTh_body]; split
      · exact endBand_body ..
      · rfl
@[simp] theorem killThread_body (s : State) (t : TId) (x : Nat) : (s.killThread t).body x = s.body x := by
  unfold State.killThread; split
  · rfl
  · have hgone : (if (s.th t).st = .exiting then s else ((s.handlerEnd t true 0).leaveBand t).strikeAll t).body x = s.body x := by
      split <;> simp
    exact hgone
@[simp] theorem killBand_body (s : State) (p : PId) (b : BandRef) (x : Nat) : (s.killBand p b).body x = s.body x := by
  unfold State.killBand; split
  · rfl
  · rw [endBand_body]; exact foldl_keeps (State.body · x) _ (by intros; simp) _ _
@[simp] theorem cancelOps_body (s : State) (c : Op → Bool) (x : Nat) : (s.cancelOps c).body x = s.body x := rfl
@[simp] theorem failMove_body (s : State) (p : PId) (c : Move → Bool) (x : Nat) : (s.failMove p c).body x = s.body x := rfl
@[simp] theorem killEntry_body (s : State) (p : PId) (e x : Nat) : (s.killEntry p e).body x = s.body x := by
  unfold State.killEntry; simp only
  split
  · rfl
  · rw [cancelOps_body, modProc_body]
    refine (foldl_keeps (State.body · x) _ (by intros; simp) _ _).trans ?_
    exact (foldl_keeps (State.body · x) _ (by intros; simp) _ _).trans rfl
@[simp] theorem killContext_body (s : State) (gs c x : Nat) : (s.killContext gs c).body x = s.body x := by
  unfold State.killContext; simp only
  split
  · rfl
  · refine (foldl_keeps (State.body · x) _ (fun b p => ?_) _ _).trans ((offRecord_body x).site _ _ _ rfl)
    rw [cancelOps_body]
    refine (foldl_keeps (State.body · x) _ (by intros; simp) _ _).trans ?_
    refine (foldl_keeps (State.body · x) _ (by intros; simp) _ _).trans ?_
    exact (foldl_keeps (State.body · x) _ (by intros; simp) _ _).trans rfl

/-! Power (R377, R380). -/

theorem procSpan_self (p : PId) (a : Nat) : procSpan p a a = 0 := by
  unfold procSpan coreSpan
  split <;> exact Nat.sub_self _

/-- The clocks start again at the reset: no cycle has passed on any processor since. -/
theorem powerOnReset_leads (s : State) : Leads .powerOnReset s fun u => u.mem = [] ∧ u.threads = [] ∧ u.procs = [] ∧
    u.power = true ∧ u.released = false ∧ u.wafer = s.wafer ∧ ∀ p, u.cycles p = 0 :=
  ⟨_, rfl, rfl, rfl, rfl, rfl, rfl, rfl, fun p => procSpan_self p s.tick⟩

/-! The alarm that a site starts with (R380). -/

/-- Some site of the wafer has its alarm in a state. -/
def State.alarmOn (s : State) (k : Nat) : Prop := ∃ x ∈ s.ownSites, (s.site x).alarm = k

theorem any_alarm_iff (s : State) (k : Nat) : (s.ownSites.any fun g => (s.site g).alarm == k) = true ↔ s.alarmOn k := by
  simp [State.alarmOn]

section
variable {s : State} {g : Nat}

theorem armed_latched (h : (s.site g).alarm = 4 ∨ s.alarmOn 4) : s.armed g = 4 :=
  if_pos (by simpa [State.alarmOn] using h)
theorem armed_struck (hg : (s.site g).alarm ≠ 4) (h4 : ¬ s.alarmOn 4) (h : s.alarmOn 2 ∨ s.alarmOn 3) : s.armed g = 2 :=
  (if_neg (by simpa [State.alarmOn] using not_or.mpr ⟨hg, h4⟩)).trans (if_pos (by simpa [State.alarmOn] using h))
theorem armed_quiet (hg : (s.site g).alarm ≠ 4) (h4 : ¬ s.alarmOn 4) (h2 : ¬ s.alarmOn 2) (h3 : ¬ s.alarmOn 3) :
    s.armed g = 1 :=
  (if_neg (by simpa [State.alarmOn] using not_or.mpr ⟨hg, h4⟩)).trans
    (if_neg (by simpa [State.alarmOn] using not_or.mpr ⟨h2, h3⟩))

end

/-! Boot (R376, R377). -/

/-- A site whose boot ROM has started and has armed the alarm. -/
def State.arming (s : State) (g : Nat) : State := s.modSite g fun q => { q with boot := 1, alarm := s.armed g }

/-- A site whose firmware has been taken: ready, its schedule slots filled, its firmware's thread placed, its links in training. -/
def State.booted (s : State) (g : Nat) (sched : List (Nat × Nat × Image)) : State :=
  ((sched.foldl (fun s x => s.loadSlot g x)
    ((s.arming g).modSite g fun q => { q with boot := 3, master := g % 64 == masterSite })).startFirmware g).trainAll g

theorem arming_body (s : State) (g : Nat) : (s.arming g).body g = { s.body g with boot := 1, alarm := s.armed g } :=
  body_modSite_self (by intro; rfl)

/-- A slot is filled on its processor alone. -/
theorem loadSlot_keeps {γ : Type} {q : State → γ} (h : OffRecord q)
    (hp : ∀ (s : State) (p : PId) (v : Proc), q (s.setProc p v) = q s) (s : State) (g : Nat) (x : Nat × Nat × Image) : q (s.loadSlot g x) = q s := by
  unfold State.loadSlot
  split
  · rfl
  · split
    · exact hp ..
    · exact refuseImage_keeps h ..

theorem loadSlot_good {k slot : Nat} {i : Image} (s : State) (g : Nat) (hk : k < 5) (hs : slot < 16) (hi : imageGood g 1 i = true) :
    slot ∈ ((s.loadSlot g (k, slot, i)).proc ⟨g, 97 + k⟩).fw := by
  simp only [State.loadSlot, hk, hs, hi, decide_true, Bool.and_self, Bool.not_true, Bool.false_eq_true, if_false, if_true,
    State.proc_modProc]
  split
  · next h => exact List.contains_iff_mem.mp h
  · exact List.mem_cons_self

theorem loadSlot_bad {k slot : Nat} {i : Image} (s : State) (g : Nat) (hk : k < 5) (hs : slot < 16) (hi : imageGood g 1 i = false) :
    s.loadSlot g (k, slot, i) = s.refuseImage g := by
  simp [State.loadSlot, hk, hs, hi]

theorem startFirmware_body (s : State) (g x : Nat) : (s.startFirmware g).body x = s.body x :=
  (offRecord_body x).site s g _ rfl

theorem startFirmware_th (s : State) (g : Nat) :
    ((s.startFirmware g).th ⟨⟨g, 96⟩, 0, 0⟩).st = .ready ∧
      ((s.startFirmware g).th ⟨⟨g, 96⟩, 0, 0⟩).pc = Config.firmware g 0 &&& ~~~7 := by
  simp [State.startFirmware, State.create]

theorem booted_mem (s : State) (g : Nat) (sched : List (Nat × Nat × Image)) : (s.booted g sched).mem = s.mem :=
  (trainAll_keeps offRecord_mem ..).trans
    (foldl_keeps State.mem _ (fun b x => loadSlot_keeps offRecord_mem (fun _ _ _ => rfl) b g x) sched _)

theorem booted_body (s : State) (g : Nat) (sched : List (Nat × Nat × Image)) :
    (s.booted g sched).body g = { s.body g with boot := 3, alarm := s.armed g, master := g % 64 == masterSite } := by
  unfold State.booted
  rw [trainAll_keeps (offRecord_body g), startFirmware_body,
    foldl_keeps (State.body · g) _ (fun b x => loadSlot_keeps (offRecord_body g) (fun _ _ _ => rfl) b g x)]
  rw [body_modSite_self, arming_body]
  exact fun _ => rfl

theorem booted_th (s : State) (g : Nat) (sched : List (Nat × Nat × Image)) :
    ((s.booted g sched).th ⟨⟨g, 96⟩, 0, 0⟩).st = .ready ∧
      ((s.booted g sched).th ⟨⟨g, 96⟩, 0, 0⟩).pc = Config.firmware g 0 &&& ~~~7 := by
  have hth : ∀ (u : State) (t : TId), (u.trainAll g).th t = u.th t := fun u t =>
    congrArg (Tab.get Thread.free · t) (trainAll_keeps offRecord_threads u g)
  unfold State.booted
  rw [hth]
  exact startFirmware_th _ g

theorem bootFails_body (s : State) (g : Nat) :
    (((s.arming g).refuseImage g).bootFail g).body g = { s.body g with boot := 2, alarm := s.armed g } := by
  rw [bootFail_keeps (offRecord_body g), body_modSite_self, refuseImage_keeps (offRecord_body g), arming_body]
  exact fun _ => rfl

section
variable {s : State} {g : Nat} {record fw : Image} {sched : List (Nat × Nat × Image)} {pools : List (Nat × Image)}

theorem execBootStart_idle (h : s.power = false ∨ isCompute g = false ∨ (s.site g).boot ≠ 0 ∧ (s.site g).boot ≠ 3) :
    execBootStart g record fw sched pools s = .next s := by
  unfold execBootStart
  rcases h with h | h | ⟨h0, h3⟩
  · simp [h]
  · simp [h]
  · simp [h0, h3]

theorem execBootStart_ready (hp : s.power = true) (hc : isCompute g = true) (hb : (s.site g).boot = 3) :
    execBootStart g record fw sched pools s =
      .next (pools.foldl (fun s x => s.bootPool g x.1 x.2) (sched.foldl (fun s x => s.loadSlot g x) s)) := by
  unfold execBootStart
  exact if_pos ⟨hp, hc, hb⟩

variable (hp : s.power = true) (hc : isCompute g = true) (hb : (s.site g).boot = 0)
include hp hc hb

theorem execBootStart_fails (h : imageGood g 2 record = false ∨ (s.site g).keys = false ∨ imageGood g 0 fw = false) :
    execBootStart g record fw sched pools s = .next (((s.arming g).refuseImage g).bootFail g) := by
  unfold execBootStart
  rcases h with h | h | h
  · simp [hp, hc, hb, h, State.arming]
  · simp [hp, hc, hb, h, State.arming]
  · simp [hp, hc, hb, h, State.arming]

theorem execBootStart_boots (hr : imageGood g 2 record = true) (hk : (s.site g).keys = true) (hf : imageGood g 0 fw = true) :
    execBootStart g record fw sched [] s = .next (if g % 64 = masterSite ∧ (s.booted g sched).timeBase = 0 then
      { s.booted g sched with timeBase := max 1 (s.booted g sched).tick } else s.booted g sched) := by
  unfold execBootStart
  simp only [hp, hc, hb, hr, hk, hf]
  rfl

theorem bootStart_fails_leads (h : imageGood g 2 record = false ∨ (s.site g).keys = false ∨ imageGood g 0 fw = false) :
    Leads (.bootStart g record fw sched pools) s fun u =>
      (u.mem = s.mem ∧ u.threads = s.threads) ∧ (u.site g).boot = 2 ∧ (u.site g).alarm = s.armed g := by
  have hbody := bootFails_body s g
  refine ⟨_, execBootStart_fails hp hc hb h, ⟨?_, ?_⟩, congrArg Site.boot hbody, congrArg Site.alarm hbody⟩
  · exact (bootFail_keeps offRecord_mem ..).trans (refuseImage_keeps offRecord_mem (s.arming g) g)
  · exact (bootFail_keeps offRecord_threads ..).trans (refuseImage_keeps offRecord_threads (s.arming g) g)

/-- The master also starts the timebase, of which none of this speaks. -/
theorem bootStart_boots_leads (hr : imageGood g 2 record = true) (hk : (s.site g).keys = true) (hf : imageGood g 0 fw = true) :
    Leads (.bootStart g record fw sched []) s fun u =>
      u.mem = s.mem ∧ (u.site g).boot = 3 ∧ (u.site g).alarm = s.armed g ∧ (u.site g).master = (g % 64 == masterSite) ∧
      (u.th ⟨⟨g, 96⟩, 0, 0⟩).st = .ready ∧ (u.th ⟨⟨g, 96⟩, 0, 0⟩).pc = Config.firmware g 0 &&& ~~~7 := by
  have hbody := booted_body s g sched
  have hbooted := And.intro (booted_mem s g sched) (And.intro (congrArg Site.boot hbody)
    (And.intro (congrArg Site.alarm hbody) (And.intro (congrArg Site.master hbody) (booted_th s g sched))))
  refine ⟨_, execBootStart_boots hp hc hb hr hk hf, ?_⟩
  split <;> exact hbooted

end

section
variable {s : State} {g : Nat} {record fw : Image} (hp : s.power = true) (hc : isCompute g = true) (hb : (s.site g).boot = 3)
include hp hc hb

/-- At run time the framer fills a schedule slot; what it does for its pools meanwhile touches no processor. -/
theorem bootStart_slot_leads {k slot : Nat} (i : Image) (pools : List (Nat × Image)) (hk : k < 5) (hs : slot < 16) :
    Leads (.bootStart g record fw [(k, slot, i)] pools) s fun u => (u.mem = s.mem ∧ u.threads = s.threads) ∧
      (imageGood g 1 i = true → slot ∈ (u.proc ⟨g, 97 + k⟩).fw) ∧ (imageGood g 1 i = false → u.procs = s.procs) := by
  have hpools {γ : Type} {q : State → γ} (h : OffRecord q) (hq : ∀ (s : State) (g : Nat) (v : Site), q (s.setSite g v) = q s)
      (v : State) : q (pools.foldl (fun s x => s.bootPool g x.1 x.2) v) = q v :=
    foldl_keeps q _ (fun b x => bootPool_keeps h hq b g x.1 x.2) pools v
  refine ⟨_, execBootStart_ready hp hc hb, ⟨?_, ?_⟩, fun hi => ?_, fun hi => ?_⟩
  · exact (hpools offRecord_mem (fun _ _ _ => rfl) _).trans (loadSlot_keeps offRecord_mem (fun _ _ _ => rfl) ..)
  · exact (hpools offRecord_threads (fun _ _ _ => rfl) _).trans (loadSlot_keeps offRecord_threads (fun _ _ _ => rfl) ..)
  · have hprocs := hpools offRecord_procs (fun _ _ _ => rfl) (s.loadSlot g (k, slot, i))
    unfold State.proc
    exact hprocs ▸ loadSlot_good s g hk hs hi
  · refine (hpools offRecord_procs (fun _ _ _ => rfl) _).trans ?_
    exact (congrArg State.procs (loadSlot_bad s g hk hs hi)).trans (refuseImage_keeps offRecord_procs ..)

/-- The turn of one pool. -/
theorem bootStart_pool_leads {x : Nat} {i : Image} {b : Nat} (h : ((s.bootPool g x i).site x).boot = b) :
    Leads (.bootStart g record fw [] [(x, i)]) s fun u => (u.mem = s.mem ∧ u.threads = s.threads) ∧ (u.site x).boot = b :=
  ⟨_, execBootStart_ready hp hc hb, ⟨bootPool_keeps offRecord_mem (fun _ _ _ => rfl) s g x i,
    bootPool_keeps offRecord_threads (fun _ _ _ => rfl) s g x i⟩, h⟩

end

section
variable {s : State} {g x : Nat} {i : Image} (hx : isCompute x = false) (hg : reporting x = g)
include hx hg

theorem bootPool_first (hb : (s.site x).boot = 0) : ((s.bootPool g x i).site x).boot = 1 := by
  simp [State.bootPool, hx, hg, hb]

theorem bootPool_second (hb : (s.site x).boot = 1) :
    ((s.bootPool g x i).site x).boot = if imageGood x 2 i then 3 else 2 := by
  unfold State.bootPool
  rw [if_neg (by simp [hx, hg]), hb]
  simp only
  split
  · show (State.body _ x).boot = 3
    rw [trainAll_keeps (offRecord_body x), body_modSite_self (by intro; rfl)]
  · show (State.body _ x).boot = 2
    rw [bootFail_keeps (offRecord_body x), body_modSite_self (by intro; rfl)]

end

/-! The release of the wafer (R377). -/

theorem waferRelease_goes {s : State} (hm : ∃ x ∈ s.ownSites, (s.site x).master = true)
    (ha : ∀ x ∈ s.ownSites, s.accounted x = true) : exec .waferRelease s = .next { s with released := true } :=
  if_pos (Bool.and_eq_true_iff.mpr ⟨List.any_eq_true.mpr hm, List.all_eq_true.mpr ha⟩)

theorem waferRelease_waits {s : State} (h : ∃ x ∈ s.ownSites, s.accounted x = false) : exec .waferRelease s = .next s := by
  obtain ⟨x, hx, hbad⟩ := h
  refine if_neg fun hall => ?_
  have hgood := List.all_eq_true.mp (Bool.and_eq_true_iff.mp hall).2 x hx
  exact Bool.false_ne_true (hbad.symm.trans hgood)

/-! The alarm (R380). -/

/-- The source that a sensor leaves at its site. -/
def Site.marked (q : Site) (sensor : Nat) : Site :=
  if q.alarm = 4 then q else { q with alarmSrc := q.alarmSrc ||| (1#3 <<< sensor) }

/-- The alarm of a site moves to a state. -/
def Site.alarmTo (k : Nat) (q : Site) : Site := { q with alarm := k }

/-- The alarm strikes at a site: its state, logged and raised. -/
def State.struck (site sensor : Nat) (s : State) (g : Nat) : State :=
  ((s.modSite g (Site.alarmTo 2)).logErr g 12 2 0 127 0 0 (site % 64) 0 1 sensor).health g 1 sensor

theorem marked_body (q : Site) (sensor : Nat) : (q.marked sensor).body = q.body.marked sensor := by
  show (if q.alarm = 4 then q else _).body = if q.alarm = 4 then _ else _
  split <;> rfl
@[simp] theorem marked_alarm (q : Site) (sensor : Nat) : (q.marked sensor).alarm = q.alarm := by
  unfold Site.marked; split <;> rfl
@[simp] theorem marked_alarmSrc (q : Site) (sensor : Nat) :
    (q.marked sensor).alarmSrc = if q.alarm = 4 then q.alarmSrc else q.alarmSrc ||| 1#3 <<< sensor := by
  unfold Site.marked; split <;> rfl

theorem struck_keeps {γ : Type} {q : State → γ} (h : OffRecord q) (site sensor : Nat) (s : State) (g : Nat) :
    q (s.struck site sensor g) = q (s.modSite g (Site.alarmTo 2)) :=
  (health_keeps h ..).trans (logErr_keeps h ..)
theorem struck_body (site sensor : Nat) (s : State) (g x : Nat) :
    (State.struck site sensor s g).body x = if x = g then (s.body x).alarmTo 2 else s.body x :=
  (struck_keeps (offRecord_body x) ..).trans (body_modSite (by intro; rfl) ..)

/-- The sites of the wafer whose alarm is in a state. -/
def State.alarmSites (s : State) (k : Nat) : List Nat := s.ownSites.filter fun g => (s.site g).alarm == k

theorem mem_alarmSites {s : State} {k x : Nat} : x ∈ s.alarmSites k ↔ x ∈ s.ownSites ∧ (s.site x).alarm = k := by
  simp [State.alarmSites]

/-- The sensor's source stands at its site, and nothing else has moved yet. -/
def State.marked (s : State) (g sensor : Nat) : State := s.modSite g (·.marked sensor)

theorem state_marked_body (s : State) (g sensor x : Nat) :
    (s.marked g sensor).body x = if x = g then (s.body x).marked sensor else s.body x :=
  body_modSite (fun q => marked_body q sensor) s g x
theorem state_marked_alarm (s : State) (g sensor x : Nat) : ((s.marked g sensor).site x).alarm = (s.site x).alarm := by
  refine (congrArg Site.alarm (state_marked_body s g sensor x)).trans ?_
  split
  · exact marked_alarm ..
  · rfl

theorem execAlarmSensor_strikes {s : State} {g sensor : Nat} (h : sensor ≤ 2) : execAlarmSensor g sensor s =
    .next (((s.marked g sensor).alarmSites 1).foldl (State.struck g sensor) (s.marked g sensor)) := by
  unfold execAlarmSensor
  exact if_neg (Nat.not_lt.mpr h)

theorem alarmSensor_leads (s : State) (g : Nat) {sensor : Nat} (h : sensor ≤ 2) :
    Leads (.alarmSensor g sensor) s fun u => (u.mem = s.mem ∧ u.threads = s.threads) ∧
      (∀ x ∈ s.ownSites, (s.site x).alarm = 1 → (u.site x).alarm = 2) ∧
      (∀ x, (s.site x).alarm ≠ 1 → (u.site x).alarm = (s.site x).alarm) ∧
      (u.site g).alarmSrc = if (s.site g).alarm = 4 then (s.site g).alarmSrc else (s.site g).alarmSrc ||| 1#3 <<< sensor := by
  have hit (x : Nat) : x ∈ (s.marked g sensor).alarmSites 1 ↔ x ∈ s.ownSites ∧ (s.site x).alarm = 1 := by
    rw [mem_alarmSites, state_marked_alarm]; rfl
  have hu := body_foldl (struck_body g sensor) (fun _ => rfl) ((s.marked g sensor).alarmSites 1) (s.marked g sensor)
  refine ⟨_, execAlarmSensor_strikes h, ⟨?_, ?_⟩, fun x hx h1 => ?_, fun x h1 => ?_, ?_⟩
  · exact foldl_keeps State.mem _ (struck_keeps offRecord_mem g sensor) _ _
  · exact foldl_keeps State.threads _ (struck_keeps offRecord_threads g sensor) _ _
  · exact congrArg Site.alarm ((hu x).trans (if_pos ((hit x).mpr ⟨hx, h1⟩)))
  · exact (congrArg Site.alarm ((hu x).trans (if_neg fun hx => h1 ((hit x).mp hx).2))).trans (state_marked_alarm ..)
  · refine (congrArg Site.alarmSrc (hu g)).trans ?_
    have hsrc := congrArg Site.alarmSrc ((state_marked_body s g sensor g).trans (if_pos rfl))
    split <;> exact hsrc.trans (marked_alarmSrc ..)

/-- Kills of contexts touch no memory; each site that the alarm had struck goes to OTP's choice. -/
theorem alarmContextsKilled_leads {s : State} {g : Nat} (ha : (s.site g).alarm = 2) (hg : g ∈ s.ownSites) :
    Leads .alarmContextsKilled s fun u => u.mem = s.mem ∧ (u.site g).alarm = if Config.otpErase then 3 else 4 := by
  have hhit : g ∈ s.alarmSites 2 := mem_alarmSites.mpr ⟨hg, ha⟩
  refine ⟨_, if_neg fun he => List.ne_nil_of_mem hhit (List.isEmpty_iff.mp he), ?_, ?_⟩
  · refine (foldl_keeps State.mem _ (by intros; rfl) _ _).trans (foldl_keeps State.mem _ (fun b r => ?_) _ _)
    exact foldl_keeps State.mem _ (by intros; simp) _ _
  · refine congrArg Site.alarm ((body_foldl (body_modSite (f := Site.alarmTo (if Config.otpErase then 3 else 4)) (by intro; rfl))
      (fun _ => rfl) _ _ g).trans (if_pos hhit))

/-- What the erase leaves at a site. -/
def Site.erased (q : Site) : Site := { q with alarm := if q.alarm = 3 then 4 else q.alarm, keys := false }

theorem erased_erased (q : Site) : q.erased.erased = q.erased := by
  unfold Site.erased
  by_cases h : q.alarm = 3 <;> simp [h]

theorem keyEraseDone_leads {s : State} {g : Nat} (ha : (s.site g).alarm = 3) (hg : g ∈ s.ownSites) :
    Leads .keyEraseDone s fun u => (u.mem = s.mem ∧ u.threads = s.threads) ∧ (u.site g).alarm = 4 ∧
      ∀ x ∈ s.ownSites, (u.site x).keys = false := by
  have hbody (x : Nat) (hx : x ∈ s.ownSites) :
      (s.ownSites.foldl (fun s g => s.modSite g Site.erased) s).body x = (s.body x).erased :=
    (body_foldl (body_modSite (by intro; rfl)) erased_erased s.ownSites s x).trans (if_pos hx)
  have hexec : exec .keyEraseDone s = .next (s.ownSites.foldl (fun s g => s.modSite g Site.erased) s) := by
    show execKeyEraseDone s = _
    rw [execKeyEraseDone, if_pos ((any_alarm_iff s 3).mpr ⟨g, hg, ha⟩)]
    rfl
  refine ⟨_, hexec, ⟨?_, ?_⟩, ?_, fun x hx => congrArg Site.keys (hbody x hx)⟩
  · exact foldl_keeps State.mem _ (by intros; rfl) _ _
  · exact foldl_keeps State.threads _ (by intros; rfl) _ _
  · exact (congrArg Site.alarm (hbody g hg)).trans (if_pos ha)

/-! Power and clocks (R381, R382). -/

theorem telemetryUpdate_leads (s : State) (g vin iout vcore pwr : Nat) :
    Leads (.telemetryUpdate g vin iout vcore pwr) s fun u => (u.mem = s.mem ∧ u.threads = s.threads) ∧
      (u.site g).vin = vin % 2 ^ 16 ∧ (u.site g).iout = iout % 2 ^ 16 ∧ (u.site g).vcore = vcore % 2 ^ 12 ∧
      (u.site g).pwr = pwr % 2 ^ 19 ∧ (u.site g).below =
        if 100 * (iout % 2 ^ 16) < 95 * (s.site g).ilim then some ((s.site g).below.getD s.tick) else none := by
  refine ⟨_, rfl, ⟨rfl, rfl⟩, ?_⟩
  rw [State.site_modSite]
  exact ⟨rfl, rfl, rfl, rfl, rfl⟩

section
variable {s : State} {g : Nat}

theorem clockStepDown_current (h : (s.site g).ilim < (s.site g).iout) :
    exec (.clockStepDown g) s = .next ((s.setSite g { s.site g with
      mhz := max 800 ((s.site g).mhz - 100), lim := true }).logErr g 11 1 0 127 0 0 (g % 64) 0 1 (s.site g).iout) := by
  show execClockStepDown g s = _
  simp [execClockStepDown, h, State.modSite]

theorem clockStepDown_heat (hi : (s.site g).iout ≤ (s.site g).ilim) (h : ((s.site g).therm.any fun t => t.2.hot 100) = true) :
    exec (.clockStepDown g) s = .next (s.setSite g { s.site g with mhz := max 800 ((s.site g).mhz - 100) }) := by
  have hcurrent : decide ((s.site g).ilim < (s.site g).iout) = false := decide_eq_false (Nat.not_lt.mpr hi)
  show execClockStepDown g s = _
  simp only [execClockStepDown, hcurrent, h, Bool.false_or, Bool.or_false, if_true, Bool.false_eq_true, if_false, State.modSite]

theorem clockStepUp_steps {t : Nat} (hb : (s.site g).below = some t) (ht : 100000 ≤ nanoSpan t s.tick)
    (hcool : ((s.site g).therm.any fun t => t.2.hot 100) = false) :
    exec (.clockStepUp g) s = .next (s.setSite g { s.site g with mhz := min 1600 ((s.site g).mhz + 100) }) := by
  show execClockStepUp g s = _
  simp only [execClockStepUp, hb, decide_eq_true ht, hcool, Bool.not_false, Bool.and_self, if_true, State.modSite]

theorem clockStepUp_early {t : Nat} (hb : (s.site g).below = some t) (ht : nanoSpan t s.tick < 100000) :
    exec (.clockStepUp g) s = .next s := by
  show execClockStepUp g s = _
  simp only [execClockStepUp, hb, decide_eq_false (Nat.not_le.mpr ht), Bool.false_and, Bool.false_eq_true, if_false]

theorem clockStepUp_above (hb : (s.site g).below = none) : exec (.clockStepUp g) s = .next s := by
  show execClockStepUp g s = _
  simp only [execClockStepUp, hb, Bool.false_and, Bool.false_eq_true, if_false]

end

/-! Heat (R383). -/

/-- The peak of a sensor after a reading. -/
def Therm.peakWith (old : Therm) (t : BitVec 16) : BitVec 16 :=
  if old.valid = false ∨ old.peak.toInt < t.toInt then t else old.peak

/-- The reading stands in the sensor's register. -/
def State.sensed (s : State) (g k : Nat) (t : BitVec 16) : State :=
  s.modSite g fun q => { q with therm := q.therm.put k ⟨true, (q.therm.get ⟨false, 0, 0⟩ k).peakWith t, t⟩ }

/-- From 100 °C on the clock steps down. -/
def State.slowed (s : State) (g k : Nat) (t : BitVec 16) : State :=
  if 1600 ≤ t.toInt then
    (s.modSite g fun q => { q with mhz := max 800 (q.mhz - 100) }).logErr g 11 1 0 127 0 0 (g % 64) (BitVec.ofNat 64 k) 1 t.toNat
  else s

/-- From 110 °C on the site shuts down, its contexts killed. -/
def State.shutDown (s : State) (g k : Nat) (t : BitVec 16) : State :=
  if 1760 ≤ t.toInt then
    (((s.ctxsWithThreads g).foldl (fun s x => s.killContext g x) s).modSite g fun q => { q with off := true }).health g 2 k
  else s

theorem execThermalUpdate_eq {s : State} {g k : Nat} (t : BitVec 16) (hk : k < if isCompute g then 16 else 4) :
    execThermalUpdate g k t s = .next (((s.sensed g k t).slowed g k t).shutDown g k t) := by
  unfold execThermalUpdate
  rw [if_neg (Nat.not_le.mpr hk)]
  simp only [State.sensed, Therm.peakWith, Bool.not_eq_true']
  rfl

section
variable (s : State) (g k : Nat) (t : BitVec 16)

theorem slowed_mem : (s.slowed g k t).mem = s.mem := by
  unfold State.slowed
  split
  · exact logErr_keeps offRecord_mem ..
  · rfl
theorem shutDown_mem : (s.shutDown g k t).mem = s.mem := by
  unfold State.shutDown
  split
  · exact (health_keeps offRecord_mem ..).trans (foldl_keeps State.mem _ (by intros; simp) _ _)
  · rfl

theorem sensed_body : (s.sensed g k t).body g = { s.body g with
    therm := (s.body g).therm.put k ⟨true, ((s.body g).therm.get ⟨false, 0, 0⟩ k).peakWith t, t⟩ } :=
  body_modSite_self (by intro; rfl)
theorem slowed_body : (s.slowed g k t).body g =
    { s.body g with mhz := if 1600 ≤ t.toInt then max 800 ((s.body g).mhz - 100) else (s.body g).mhz } := by
  unfold State.slowed
  split
  · exact (logErr_keeps (offRecord_body g) ..).trans (body_modSite_self (by intro; rfl))
  · rfl
theorem shutDown_body : (s.shutDown g k t).body g = { s.body g with off := if 1760 ≤ t.toInt then true else (s.body g).off } := by
  unfold State.shutDown
  split
  · rw [health_keeps (offRecord_body g), body_modSite_self, foldl_keeps (State.body · g) _ (by intros; simp)]
    exact fun _ => rfl
  · rfl

end

/-- What a reading leaves at its site. -/
def Site.heated (q : Site) (k : Nat) (t : BitVec 16) : Site := { q with
  therm := q.therm.put k ⟨true, (q.therm.get ⟨false, 0, 0⟩ k).peakWith t, t⟩
  mhz := if 1600 ≤ t.toInt then max 800 (q.mhz - 100) else q.mhz
  off := if 1760 ≤ t.toInt then true else q.off }

theorem thermalUpdate_leads (s : State) {g k : Nat} (t : BitVec 16) (hk : k < if isCompute g then 16 else 4) :
    Leads (.thermalUpdate g k t) s fun u => u.mem = s.mem ∧
      (u.site g).therm.get ⟨false, 0, 0⟩ k = ⟨true, ((s.site g).therm.get ⟨false, 0, 0⟩ k).peakWith t, t⟩ ∧
      (t.toInt < 1600 → (u.site g).mhz = (s.site g).mhz ∧ (u.site g).off = (s.site g).off) ∧
      (1600 ≤ t.toInt → (u.site g).mhz = max 800 ((s.site g).mhz - 100)) ∧ (1760 ≤ t.toInt → (u.site g).off = true) := by
  have hu : (((s.sensed g k t).slowed g k t).shutDown g k t).body g = (s.body g).heated k t := by
    rw [shutDown_body, slowed_body, sensed_body]; rfl
  have hmhz := congrArg Site.mhz hu
  have hoff := congrArg Site.off hu
  refine ⟨_, execThermalUpdate_eq t hk, (shutDown_mem ..).trans (slowed_mem ..), ?_, fun hcool => ⟨?_, ?_⟩, fun hhot => ?_,
    fun hhot => ?_⟩
  · exact (congrArg (fun q : Site => q.therm.get ⟨false, 0, 0⟩ k) hu).trans (Tab.get_put_self ..)
  · exact hmhz.trans (if_neg (Int.not_le.mpr hcool))
  · exact hoff.trans (if_neg fun h => by omega)
  · exact hmhz.trans (if_pos hhot)
  · exact hoff.trans (if_pos hhot)

/-! Rings and wear (R384, R385). -/

/-- A ring whose lock changes: the register, and the detune measured anew. -/
def State.relocked (s : State) (g k : Nat) (lock : Bool) : State :=
  (s.modSite g fun q => { q with
    rings := q.rings.put k { (s.site g).rings.get ⟨false, false, 0, 0, 0⟩ k with lock := lock } }).measure g k

theorem relocked_lock (s : State) (g k : Nat) (lock : Bool) :
    (((s.relocked g k lock).body g).rings.get ⟨false, false, 0, 0, 0⟩ k).lock = lock := by
  show (((s.relocked g k lock).site g).rings.get ⟨false, false, 0, 0, 0⟩ k).lock = lock
  simp [State.relocked, State.measure]

theorem ringLockLoss_leads (s : State) (g : Nat) {k : Nat} (hk : k < 16) :
    Leads (.ringLockLoss g k) s fun u => (u.mem = s.mem ∧ u.threads = s.threads) ∧
      ((u.site g).rings.get ⟨false, false, 0, 0, 0⟩ k).lock = false := by
  have hbody := laneFail_keeps (offRecord_body g) (s.relocked g k false) g (sillPort g) 0 (k % 8)
  refine ⟨_, if_neg (Nat.not_le.mpr hk), ⟨?_, ?_⟩, ?_⟩
  · exact laneFail_keeps offRecord_mem (s.relocked g k false) ..
  · exact laneFail_keeps offRecord_threads (s.relocked g k false) ..
  · exact (congrArg (fun q : Site => (q.rings.get ⟨false, false, 0, 0, 0⟩ k).lock) hbody).trans (relocked_lock s g k false)

theorem ringLockRegain_leads (s : State) (g : Nat) {k : Nat} (hk : k < 16) :
    Leads (.ringLockRegain g k) s fun u => (u.mem = s.mem ∧ u.threads = s.threads) ∧
      ((u.site g).rings.get ⟨false, false, 0, 0, 0⟩ k).lock = true :=
  ⟨_, if_neg (Nat.not_le.mpr hk), ⟨rfl, rfl⟩, relocked_lock s g k true⟩

theorem writeEol_keeps {γ : Type} {q : State → γ} (h : OffRecord q) (s : State) (g : Nat) (v : Word) :
    q (s.writeEol g v) = q (s.modSite g fun x => { x with eol := maskW v 0xFFFF }) := by
  unfold State.writeEol; simp only
  split
  · exact health_keeps h ..
  · rfl

/-- The end-of-life word holds a monitor's number and a count of months below 256, which its mask keeps. -/
theorem eol_mask {limit months : Nat} (hl : limit ≤ 3) :
    maskW (BitVec.ofNat 64 (limit % 4 * 256 + min months 255)) 0xFFFF = BitVec.ofNat 64 (limit * 256 + min months 255) := by
  have hsmall : limit * 256 + min months 255 < 2 ^ 16 := by omega
  rw [Nat.mod_eq_of_lt (Nat.lt_succ_of_le hl)]
  apply BitVec.eq_of_toNat_eq
  have hmask : (0xFFFF : Word).toNat = 2 ^ 16 - 1 := rfl
  rw [maskW, BitVec.toNat_and, hmask, Nat.and_two_pow_sub_one_eq_mod, BitVec.toNat_ofNat,
    Nat.mod_eq_of_lt (a := limit * 256 + min months 255) (by omega), Nat.mod_eq_of_lt hsmall]

theorem wearSample_leads (s : State) (g : Nat) {m limit : Nat} (months : Nat) (v : BitVec 32) (hm : m ≤ 3) (hl : limit ≤ 3) :
    Leads (.wearSample g m v (months, limit)) s fun u => (u.mem = s.mem ∧ u.threads = s.threads) ∧
      (u.site g).eol = BitVec.ofNat 64 (limit * 256 + min months 255) ∧ (u.site g).wear.find m =
        some (v ++ (match (s.site g).wear.find m with | some w => w.extractLsb' 0 32 | none => v)) := by
  have hbody (u : State) (w : Word) : (u.writeEol g w).body g = { u.body g with eol := maskW w 0xFFFF } :=
    (writeEol_keeps (offRecord_body g) u g w).trans (body_modSite_self (by intro; rfl))
  refine ⟨_, if_neg (Nat.not_lt.mpr hm), ⟨?_, ?_⟩, ?_, ?_⟩
  · exact writeEol_keeps offRecord_mem ..
  · exact writeEol_keeps offRecord_threads ..
  · exact (congrArg Site.eol (hbody _ _)).trans (eol_mask hl)
  · refine (congrArg (fun q : Site => q.wear.find m) ((hbody _ _).trans (by rw [body_setSite, if_pos rfl]))).trans ?_
    exact if_pos rfl

/-- Settles O53: each turn of the device does what its rules say. -/
theorem deviceTurns : Obligations.DeviceTurns := by
  unfold Obligations.DeviceTurns
  intro s g
  refine ⟨rfl, powerOnReset_leads s, ⟨armed_latched, armed_struck, armed_quiet⟩,
    fun record fw sched pools => ⟨execBootStart_idle, fun hp hc hb => ?_, fun hp hc hb => ⟨fun k slot i => ?_, fun x i hx hg => ?_⟩⟩,
    waferRelease_goes, waferRelease_waits, fun sensor => ⟨fun h => if_pos h, alarmSensor_leads s g⟩, alarmContextsKilled_leads,
    keyEraseDone_leads, telemetryUpdate_leads s g, clockStepDown_current, clockStepDown_heat,
    fun t hb => ⟨clockStepUp_steps hb, clockStepUp_early hb⟩, clockStepUp_above, fun k t => thermalUpdate_leads s t,
    fun k hk => ⟨ringLockLoss_leads s g hk, ringLockRegain_leads s g hk⟩,
    fun m months limit v => wearSample_leads s g months v⟩
  · exact ⟨bootStart_fails_leads hp hc hb, bootStart_boots_leads hp hc hb⟩
  · exact bootStart_slot_leads hp hc hb i pools
  · exact ⟨fun h => bootStart_pool_leads hp hc hb (bootPool_first hx hg h),
      fun h => bootStart_pool_leads hp hc hb (bootPool_second hx hg h)⟩

end Sys2Proof.Machine
end

section
/-! The integer accumulator (R85): a chunk of integer products is summed exactly. -/
namespace Sys2Proof.Machine

theorem dy_ofInt (i : Int) : (X.ofInt i).dy = ⟨i, 0⟩ := by
  unfold X.ofInt X.dy
  by_cases h : i < 0
  · have habs : -(i.natAbs : Int) = i := by omega
    simp only [h, decide_true, if_true, habs]
  · have habs : (i.natAbs : Int) = i := by omega
    simp only [h, decide_false, Bool.false_eq_true, if_false, habs]

theorem Dy.add_whole (a b : Int) : Dy.add ⟨a, 0⟩ ⟨b, 0⟩ = ⟨a + b, 0⟩ := by simp [Dy.add, Dy.at]

/-- The sum of a chunk of integer products, from an integer on. -/
theorem foldl_products (ps : List (Int × Int)) (a : Int) :
    (ps.map fun x => (X.ofInt x.1, X.ofInt x.2)).foldl (fun a p => Dy.add a (p.1.dy.mul p.2.dy)) ⟨a, 0⟩ =
      ⟨a + (ps.map fun x => x.1 * x.2).sum, 0⟩ := by
  induction ps generalizing a with
  | nil => simp
  | cons x ps ih =>
    have hx : (X.ofInt x.1).dy.mul (X.ofInt x.2).dy = ⟨x.1 * x.2, 0⟩ := by rw [dy_ofInt, dy_ofInt]; rfl
    rw [List.map_cons, List.foldl_cons, hx, Dy.add_whole, ih, List.map_cons, List.sum_cons, Int.add_assoc]

/-- What a chunk of integer products makes of an entry, in the products' own terms. -/
theorem addInt_ofInts (sat : Bool) (c : Cell) (ps : List (Int × Int)) :
    c.addInt sat (ps.map fun x => (X.ofInt x.1, X.ofInt x.2)) =
      let sum := c.v.toInt + (ps.map fun x => x.1 * x.2).sum
      if c.hold then c
      else if -2 ^ 35 ≤ sum ∧ sum < 2 ^ 35 ∨ !sat then { c with v := BitVec.ofInt 36 sum }
      else { c with v := BitVec.ofInt 36 (if sum < 0 then -2 ^ 35 else 2 ^ 35 - 1), hold := true, sat := true } := by
  have hsum : Dy.floor ((ps.map fun x => (X.ofInt x.1, X.ofInt x.2)).foldl (fun a p => Dy.add a (p.1.dy.mul p.2.dy)) Dy.zero) =
      (ps.map fun x => x.1 * x.2).sum := by
    rw [show Dy.zero = ⟨0, 0⟩ from rfl, foldl_products]
    simp [Dy.floor]
  unfold Cell.addInt
  rw [hsum]

/-- Settles O37: the chunk's sum is exact, and what becomes of it depends on its side of the two bounds alone. -/
theorem integerAccumulation : Obligations.IntegerAccumulation := by
  unfold Obligations.IntegerAccumulation
  intro sat c ps out sum
  have hout : out = _ := addInt_ofInts sat c ps
  refine ⟨fun h => hout.trans (if_pos h), fun h => ?_⟩
  have hopen := hout.trans (if_neg (by simp [h]))
  refine ⟨fun hlo hhi => ?_, fun hs => ?_, fun hs hlow => ?_, fun hs hhigh => ?_⟩
  · exact hopen.trans (if_pos (Or.inl ⟨hlo, hhi⟩))
  · exact hopen.trans (if_pos (Or.inr (by simp [hs])))
  · rw [hopen, if_neg (by simp only [hs, Bool.not_true, Bool.false_eq_true, or_false]; omega), if_pos (by omega)]
  · rw [hopen, if_neg (by simp only [hs, Bool.not_true, Bool.false_eq_true, or_false]; omega), if_neg (by omega)]

end Sys2Proof.Machine
end

section
/-! Wide reductions, conversions, comparison and moves (R162 to R166). -/
namespace Sys2Proof.Machine

/-! Moved elements (R69, R165). -/

/-- A number written in digits of `2 ^ b`, the first lowest, has them as its digits. -/
theorem digit_of_foldr (b : Nat) (codes : List Nat) (i : Nat) :
    codes.foldr (fun c a => a * 2 ^ b + c % 2 ^ b) 0 / 2 ^ (b * i) % 2 ^ b = codes.getD i 0 % 2 ^ b := by
  induction codes generalizing i with
  | nil => simp
  | cons c codes ih =>
    have hpos : 0 < 2 ^ b := Nat.two_pow_pos b
    rw [List.foldr_cons]
    cases i with
    | zero => simp [Nat.mul_comm _ (2 ^ b)]
    | succ i =>
      rw [Nat.mul_succ, Nat.pow_add, Nat.mul_comm (2 ^ (b * i)), ← Nat.div_div_eq_div_mul, Nat.mul_comm _ (2 ^ b),
        Nat.mul_add_div hpos, Nat.div_eq_of_lt (Nat.mod_lt c hpos), Nat.add_zero, ih, List.getD_cons_succ]

theorem bits_mul_count (f : Fmt) : f.bits * f.count = 256 := by cases f <;> rfl

theorem elemCode_lt (f : Fmt) (pay : BitVec 256) (i : Nat) : elemCode f pay i < 2 ^ f.bits := BitVec.isLt _

/-- The elements of a payload are the codes it was made from. -/
theorem elemCode_payOf (f : Fmt) (codes : List Nat) {i : Nat} (hi : i < f.count) :
    elemCode f (payOf f codes) i = codes.getD i 0 % 2 ^ f.bits := by
  have hfits : f.bits * i + f.bits ≤ 256 :=
    calc f.bits * i + f.bits = f.bits * (i + 1) := (Nat.mul_succ ..).symm
      _ ≤ f.bits * f.count := Nat.mul_le_mul_left _ hi
      _ = 256 := bits_mul_count f
  have hsplit : (2 : Nat) ^ 256 = 2 ^ (f.bits * i) * 2 ^ (256 - f.bits * i) := by rw [← Nat.pow_add]; congr 1; omega
  unfold elemCode payOf
  rw [BitVec.extractLsb'_toNat, BitVec.toNat_ofNat, Nat.shiftRight_eq_div_pow, hsplit, Nat.mod_mul_right_div_self,
    Nat.mod_mod_of_dvd _ (Nat.pow_dvd_pow 2 (by omega)), digit_of_foldr]

/-- Moved codes stand in their elements, under the scale given. -/
theorem moved_gives {i : Instr} {s : State} {b : BForm} {f : Fmt} {scale : Env → BitVec 16} {moved code : Env → Nat → Nat}
    (hi : exec i s = .next (s.runW b fun e => e.moved f (scale e) (moved e)))
    (hcode : ∀ e k, moved e k % 2 ^ f.bits = code e k % 2 ^ f.bits) :
    ∃ v : Env → Gran, GivesW (exec i s) s b v ∧
      ∀ e, (v e).scale = scale e ∧ ∀ k, k < f.count → elemCode f (v e).pay k = code e k % 2 ^ f.bits := by
  rw [hi]
  refine ⟨_, pureW_gives s b fun e => ⟨scale e, payOf f (tabulate f.count (moved e))⟩, fun e => ⟨rfl, fun k hk => ?_⟩⟩
  rw [elemCode_payOf f _ hk, ← hcode e k, tabulate, List.getD_eq_getElem?_getD, List.getElem?_map, List.getElem?_range hk]
  rfl

/-! The two forms of a broadcast and of WSCL (R164, R165). -/

section
variable {s : State} {b : BForm} {m : WideMod}

theorem wbc_element (h : m.fn = 0) : exec (.wbc b m) s =
    .next (s.runW b fun e => e.moved m.fmt (e.w b.a).scale fun _ => elemCode m.fmt (e.w b.a).pay m.idx.toNat) := by
  show execWbc b m s = _
  simp only [execWbc, h, if_true]

theorem wbc_value (h : m.fn ≠ 0) : exec (.wbc b m) s =
    .next (s.runW b fun e => e.moved m.fmt 0x7F00 fun _ => (e.g b.b).toNat % 2 ^ m.fmt.bits) := by
  show execWbc b m s = _
  simp only [execWbc, h, if_false]

theorem wscl_reads (h : m.fn = 0) : exec (.wscl b m) s = .next (s.pureG b fun e => (e.w b.a).scale.setWidth 64) := if_pos h

theorem wscl_sets (h : m.fn ≠ 0) : exec (.wscl b m) s =
    .next (s.runW b fun e => e.pure ⟨wsclScale m.fn.toNat (e.g b.b), (e.w b.a).pay⟩) := if_neg h

end

/-! Checked operands (R157). -/

/-- A result behind the check of its operands' scales. -/
theorem map_checked {α β : Type} (g : α → β) (o : Option Word) (r : Res α) :
    (match o with | some i => .trap 13 i | none => r : Res α).map g = match o with | some i => .trap 13 i | none => r.map g := by
  cases o <;> rfl

theorem convert_packs (e : Env) (b : BForm) (m : WideMod) (scale : List X → BitVec 16) :
    (e.convert m b.a scale).map (resW b) =
      packedW b m e m.fmt2 ((convGroup m b.a).map fun o => (0, o)) (scale (e.convVals m b.a)) (e.convVals m b.a) 0 := by
  unfold Env.convert packedW
  rw [List.map_map]
  exact map_checked ..

/-- Settles O8: a checked operand's elements enter the sum, the conversion or the comparison; a move keeps the codes. -/
theorem wideReductionsAndMoves : Obligations.WideReductionsAndMoves := by
  unfold Obligations.WideReductionsAndMoves
  refine ⟨fun s b m => ?_, fun s b m => ?_⟩
  · refine ⟨?_, ?_, ?_, ?_, ?_, ?_⟩
    · exact (runG_computes s b _).congr fun _ => map_checked ..
    · exact (runG_computes s b _).congr fun _ => map_checked ..
    · exact (runW_computes s b _).congr fun e => convert_packs e b m _
    · exact (runW_computes s b _).congr fun e => convert_packs e b m _
    · exact (runW_computes s b _).congr fun e => convert_packs e b m _
    · exact (runG_computes s b _).congr fun _ => map_checked ..
  · refine ⟨?_, fun h => ?_, fun h => ?_, ?_, ?_, ?_, fun h => ?_, fun h => ?_⟩
    · exact moved_gives rfl fun _ _ => rfl
    · exact moved_gives (wbc_element h) fun _ _ => rfl
    · exact moved_gives (wbc_value h) fun _ _ => Nat.mod_mod ..
    · exact moved_gives rfl fun e k => by split <;> rfl
    · exact moved_gives rfl fun e k => by split <;> simp
    · exact pureG_gives s b _
    · rw [wscl_reads h]; exact pureG_gives s b _
    · rw [wscl_sets h]; exact pureW_gives s b _

end Sys2Proof.Machine
end

section
/-! The turns of a sequencer (R84, R85, R263, R267, R268, R274, R275). -/
namespace Sys2Proof.Machine

@[simp] theorem proc_modSeq (s : State) (p : PId) (f : Seq → Seq) :
    (s.modSeq p f).proc p = { s.proc p with seq := f (s.proc p).seq } := State.proc_modProc ..

/-! Accumulators listed one by one. -/

/-- Listed entries updated in place, by an update that changes nothing when repeated. -/
theorem get_foldl_put {β : Type} (d : β) {f : β → β} (hf : ∀ x, f (f x) = f x) (l : List Nat) (t : Tab Nat β) (k : Nat) :
    Tab.get d (l.foldl (fun t a => t.put a (f (t.get d a))) t) k = if k ∈ l then f (t.get d k) else t.get d k := by
  induction l generalizing t with
  | nil => rfl
  | cons a l ih =>
    rw [List.foldl_cons, ih, Tab.get_put]
    by_cases hk : k = a
    · simp [hk, hf]
    · simp [hk]

/-! A row of an array word becomes final (R84, R85, R263). -/

/-- An accumulator's flags after row `n`. -/
def raiseAt (n : Nat) (t : Tab Nat AccTile) (f : Nat × List RowFlags) : Tab Nat AccTile :=
  match f.2[n]? with
  | some r => t.put f.1 ((t.get AccTile.fresh f.1).raiseRow r)
  | none => t

/-- An accumulator at least `n` of whose rows are final. -/
def AccTile.marked (n : Nat) (x : AccTile) : AccTile := { x with wm := max x.wm n }

/-- A sequencer in which the next row of an array word has become final. -/
def Seq.rowFinal (w : StreamWork) (q : Seq) : Seq :=
  let raised := w.raises.foldl (raiseAt w.rows) q.accs
  { q with
    accs := if w.fin then w.accs.foldl (fun t a => t.put a ((t.get AccTile.fresh a).marked (w.rows + 1))) raised else raised
    work := q.work.map fun x => if x.id = w.id then { x with rows := x.rows + 1 } else x }

theorem marked_marked (n : Nat) (x : AccTile) : (x.marked n).marked n = x.marked n := by simp [AccTile.marked]

theorem raiseAt_other {n k : Nat} {f : Nat × List RowFlags} (h : k ≠ f.1) (t : Tab Nat AccTile) :
    (raiseAt n t f).get AccTile.fresh k = t.get AccTile.fresh k := by
  unfold raiseAt; split
  · exact Tab.get_put_ne _ _ _ _ _ h
  · rfl

theorem raiseAt_wm (n k : Nat) (f : Nat × List RowFlags) (t : Tab Nat AccTile) :
    ((raiseAt n t f).get AccTile.fresh k).wm = (t.get AccTile.fresh k).wm := by
  unfold raiseAt; split
  · rw [Tab.get_put]; split
    · next h => rw [h]; rfl
    · rfl
  · rfl

section
variable (q : Seq) (w : StreamWork) (k : Nat)

theorem raised_wm : ((w.raises.foldl (raiseAt w.rows) q.accs).get AccTile.fresh k).wm = (q.acc k).wm :=
  foldl_keeps (fun t : Tab Nat AccTile => (t.get AccTile.fresh k).wm) _ (fun t f => raiseAt_wm w.rows k f t) w.raises q.accs

/-- What finality makes of an accumulator once its flags are raised. -/
theorem rowFinal_acc : (q.rowFinal w).acc k =
    let x := (w.raises.foldl (raiseAt w.rows) q.accs).get AccTile.fresh k
    if w.fin = true ∧ k ∈ w.accs then x.marked (w.rows + 1) else x := by
  unfold Seq.rowFinal Seq.acc
  by_cases hfin : w.fin = true
  · simp only [hfin, if_true, true_and]
    exact get_foldl_put _ (marked_marked _) w.accs _ k
  · simp [hfin]

theorem rowFinal_wm (hfin : w.fin = true) (hk : k ∈ w.accs) :
    ((q.rowFinal w).acc k).wm = max (q.acc k).wm (w.rows + 1) := by
  rw [rowFinal_acc, if_pos ⟨hfin, hk⟩]
  exact congrArg (max · (w.rows + 1)) (raised_wm q w k)

theorem rowFinal_other (hk : k ∉ w.accs) (hr : k ∉ w.raises.map (·.1)) : (q.rowFinal w).acc k = q.acc k := by
  rw [rowFinal_acc, if_neg (fun h => hk h.2)]
  refine List.foldlRecOn (motive := fun t : Tab Nat AccTile => t.get AccTile.fresh k = q.acc k) w.raises _ rfl fun t ih f hf => ?_
  exact (raiseAt_other (fun h => hr (List.mem_map.mpr ⟨f, hf, h.symm⟩)) t).trans ih

theorem rowFinal_idle (hfin : w.fin = false) (hr : w.raises = []) : (q.rowFinal w).accs = q.accs := by
  simp [Seq.rowFinal, hfin, hr]

theorem rowFinal_flags {l : List RowFlags} {f : RowFlags} (hr : w.raises = [(k, l)]) (hl : l[w.rows]? = some f) :
    ((q.rowFinal w).acc k).ovf = ((q.acc k).ovf || f.ovf) ∧ ((q.rowFinal w).acc k).nv = ((q.acc k).nv || f.nv) ∧
      ((q.rowFinal w).acc k).satf = ((q.acc k).satf || f.satf) := by
  have hraised : (w.raises.foldl (raiseAt w.rows) q.accs).get AccTile.fresh k = (q.acc k).raiseRow f := by
    simp [hr, raiseAt, hl, Seq.acc]
  rw [rowFinal_acc, hraised]
  split <;> exact ⟨rfl, rfl, rfl⟩

variable {w} in
theorem mem_rowFinal_work (h : w ∈ q.work) : ({ w with rows := w.rows + 1 } : StreamWork) ∈ (q.rowFinal w).work :=
  List.mem_map.mpr ⟨w, h, if_pos rfl⟩

end

theorem arrayRowFinal_exec {s : State} {p : PId} {a : Nat} {w : StreamWork}
    (h : (s.proc p).seq.work.find? (fun w => w.isArray && w.accs.contains a && decide (w.rows < 64)) = some w) :
    exec (.arrayRowFinal p a) s = .next (s.modSeq p (·.rowFinal w)) := by
  show execArrayRowFinal p a s = _
  unfold execArrayRowFinal
  simp only [h]
  rfl

/-! A finished word (R263, R268). -/

/-- A sequencer that a finished word has left. -/
def Seq.finished (id : Nat) (w : StreamWork) (q : Seq) : Seq :=
  let q := { q with work := q.work.filter (·.id != id) }
  let q : Seq := if w.isZero then { q with accs := w.accs.foldl (fun (t : Tab Nat AccTile) (a : Nat) =>
      t.put a { t.get AccTile.fresh a with wm := 64 }) q.accs } else q
  if q.ending && q.work.isEmpty then q.unbind else q

theorem streamInstrComplete_exec {s : State} {p : PId} {id : Nat} {w : StreamWork}
    (h : (s.proc p).seq.work.find? (·.id == id) = some w) (hrows : w.isArray = true → 64 ≤ w.rows) (hsq : w.squares = []) :
    exec (.streamInstrComplete p id) s =
      .next (w.tiles.foldl (fun s k => s.tileEnd p k w.band) (s.modSeq p (·.finished id w))) := by
  show execStreamInstrComplete p id s = _
  unfold execStreamInstrComplete
  simp only [h]
  exact if_neg (by simpa [hsq] using hrows)

theorem finished_standing {q : Seq} (id : Nat) (w : StreamWork) (h : q.ending = false) :
    (q.finished id w).work = q.work.filter (·.id != id) ∧
      ∀ a, ((q.finished id w).acc a).wm = if w.isZero = true ∧ a ∈ w.accs then 64 else (q.acc a).wm := by
  unfold Seq.finished
  by_cases hz : w.isZero = true
  · simp only [hz, h, if_true, Bool.false_and, Bool.false_eq_true, if_false, true_and]
    refine fun a => ?_
    unfold Seq.acc
    rw [get_foldl_put AccTile.fresh (f := fun x => { x with wm := 64 }) (fun _ => rfl)]
    split <;> rfl
  · simp [hz, h, Seq.acc]

@[simp] theorem tileEnd_mem (s : State) (p : PId) (k : Nat) (b : Option BandRef) : (s.tileEnd p k b).mem = s.mem := by
  unfold State.tileEnd; split
  · rfl
  · split <;> rfl

theorem less_cnt (t : Tile) : t.less.cnt = t.cnt - 1 := by
  unfold Tile.less
  split
  · next h =>
    have hzero : t.cnt - 1 = 0 := Nat.sub_eq_zero_of_le h
    split <;> exact hzero.symm
  · rfl

@[simp] theorem tile_setTile (s : State) (p : PId) (k : Nat) (t : Tile) : ((s.setTile p k t).proc p).tile k = t := by
  simp only [State.setTile, State.proc_modProc, Proc.tile]
  split
  · next h => rw [h, Tab.get_drop_self]
  · exact Tab.get_put_self ..

theorem tileEnd_cnt {s : State} {p : PId} {k : Nat} {t : Tile} (ht : (s.proc p).tile k = t) (hst : t.st ≠ .empty) :
    (((s.tileEnd p k (some t.band)).proc p).tile k).cnt = t.cnt - 1 := by
  subst ht
  unfold State.tileEnd
  rw [if_pos (by simp [Proc.tileIn, hst]), tile_setTile, less_cnt]

/-! A stream fault (R267). -/

/-- What one element of a list brings about, and no element undoes, holds at the end. -/
theorem foldl_establishes {α β : Type} {P : β → Prop} {g : β → α → β} {a : α} (hmake : ∀ b, P (g b a))
    (hkeep : ∀ b x, P b → P (g b x)) {l : List α} (ha : a ∈ l) (b : β) : P (l.foldl g b) := by
  obtain ⟨before, after, rfl⟩ := List.append_of_mem ha
  rw [List.foldl_append, List.foldl_cons]
  exact List.foldlRecOn after g (hmake _) fun b hb x _ => hkeep b x hb

/-- A member meets a stream fault: parked, it becomes READY; the fault is pending. -/
def State.faultMember (s : State) (p : PId) (info : Word) (m : Nat × Nat) : State :=
  let s := if (s.th ⟨p, m.1, m.2⟩).isParked then s.wake ⟨p, m.1, m.2⟩ else s
  s.pendTrap ⟨p, m.1, m.2⟩ 21 info

theorem wake_pend (s : State) (t u : TId) : ((s.wake t).th u).pend = (s.th u).pend := by
  by_cases h : u = t
  · subst h
    unfold State.wake
    rw [State.th_modTh]
    split
    · rfl
    · split <;> rfl
    · rfl
  · unfold State.wake; rw [State.th_modTh_ne _ _ _ _ h]

theorem pendTrap_pends (s : State) (t : TId) (c : Nat) (i : Word) : ⟨c, i, false⟩ ∈ ((s.pendTrap t c i).th t).pend := by
  simp [State.pendTrap]

theorem pendTrap_adds {s : State} {u : TId} {x : Pend} (t : TId) (c : Nat) (i : Word) (h : x ∈ (s.th u).pend) :
    x ∈ ((s.pendTrap t c i).th u).pend := by
  by_cases hu : u = t
  · subst hu; simp [State.pendTrap, h]
  · unfold State.pendTrap; rwa [State.th_modTh_ne _ _ _ _ hu]

theorem faultMember_adds {s : State} {u : TId} {x : Pend} (p : PId) (i : Word) (m : Nat × Nat) (h : x ∈ (s.th u).pend) :
    x ∈ ((s.faultMember p i m).th u).pend := by
  refine pendTrap_adds _ _ _ ?_
  split
  · rwa [wake_pend]
  · exact h

theorem faultMember_keeps {γ : Type} (q : State → γ) (hT : ∀ s t f, q (State.modTh s t f) = q s) (s : State) (p : PId)
    (i : Word) (m : Nat × Nat) : q (s.faultMember p i m) = q s := by
  unfold State.faultMember State.pendTrap
  rw [hT]
  split
  · exact hT ..
  · rfl

/-- The sequencer as a stream fault leaves it. -/
def Seq.faulted (code : Nat) (q : Seq) : Seq := { q.finalAll with st := .faulted, fcode := code }

/-- A stream fault before the members of the band hear of it. -/
def State.faultRaised (s : State) (p : PId) (code : Nat) : State :=
  (s.modSeq p (·.faulted code)).raise p.site 4 p.core 0 0 (s.proc p).seq.ctx code

theorem faultRaised_proc (s : State) (p : PId) (code : Nat) :
    (s.faultRaised p code).proc p = { s.proc p with seq := (s.proc p).seq.faulted code } := by
  have hproc : OffRecord fun u => u.proc p := ⟨fun _ _ _ _ => rfl, fun _ _ => rfl⟩
  exact (raise_keeps hproc ..).trans (proc_modSeq ..)

/-- The members of the band that the sequencer is bound to. -/
def Proc.streamMembers (r : Proc) : List (Nat × Nat) := (r.seq.band.bind r.band).elim [] (·.members)

theorem streamFault_eq (s : State) (p : PId) (code : Nat) : s.streamFault p code =
    (s.proc p).streamMembers.foldl (fun u m => u.faultMember p (streamInfo code (s.proc p).seq.spc) m) (s.faultRaised p code) := by
  have hband : ((s.faultRaised p code).proc p).band = (s.proc p).band := by rw [faultRaised_proc]; rfl
  unfold Proc.streamMembers
  rw [← hband]
  rfl

section
variable (s : State) (p : PId) (code : Nat)

theorem streamFault_mem : (s.streamFault p code).mem = s.mem := by
  rw [streamFault_eq]
  exact (foldl_keeps State.mem _ (fun u m => faultMember_keeps State.mem (fun _ _ _ => rfl) u p _ m) _ _).trans (raise_mem ..)

theorem streamFault_seq : ((s.streamFault p code).proc p).seq = (s.proc p).seq.faulted code := by
  rw [streamFault_eq, foldl_keeps (fun u : State => u.proc p) _ (fun u m => faultMember_keeps (·.proc p) (fun _ _ _ => rfl) u p _ m),
    faultRaised_proc]

theorem streamFault_pends {m : Nat × Nat} (hm : m ∈ (s.proc p).streamMembers) :
    ⟨21, streamInfo code (s.proc p).seq.spc, false⟩ ∈ ((s.streamFault p code).th ⟨p, m.1, m.2⟩).pend := by
  rw [streamFault_eq]
  exact foldl_establishes (P := fun u : State => _ ∈ (u.th ⟨p, m.1, m.2⟩).pend) (g := fun u m => u.faultMember p _ m)
    (fun u => pendTrap_pends ..) (fun _ x h => faultMember_adds p _ x h) hm _

variable {s p}

theorem streamWordFault_exec (hst : (s.proc p).seq.st = .running ∨ (s.proc p).seq.st = .waiting)
    (hend : (s.proc p).seq.ending = false) (hs : ∀ x ∈ s.stream, x.1 = p) :
    exec (.streamWordFault p code) s = .next (({ s with stream := none } : State).streamFault p code) := by
  refine congrArg Host.Outcome.next ((if_pos (by simpa [hend] using hst)).trans (congrArg (State.streamFault · p code) ?_))
  cases h : s.stream with
  | none => rfl
  | some x => simp only [if_pos (hs x h)]

end

/-! Reads of an accumulator (R274, R275). -/

section
variable {s : State} {id : Nat} {r : Req} (hr : s.req id = some r) (hopen : r.resp = none)
include hr hopen

theorem acrdRead_exec {a aq row c0 nc fmt dst : Nat} {m : Bool} {mode : Rnd} {seed : Word}
    (hk : r.kind = .acrd a aq m row c0 nc fmt mode dst seed) : exec (.acrdRead id) s =
      let q := (s.proc r.t.p).seq
      if (q.acc a).wm ≤ row ∨ m = true ∧ (q.acc aq).wm ≤ row then .next s
      else .next (s.setReq { r with
        resp := some (q.readAcc a aq m row c0 nc ((Fmt.of (BitVec.ofNat 4 fmt)).getD .f32) mode seed dst).1 }) := by
  show execAcrdRead id s = _
  simp only [execAcrdRead, hr, hk, hopen]

theorem acwmResult_exec {a thr dst : Nat} (hk : r.kind = .acwm a thr dst) : exec (.acwmResult id) s =
    let t := (s.proc r.t.p).seq.acc a
    if thr ≤ t.wm then .next (s.setReq { r with resp := some [.g dst t.status] }) else .next s := by
  show execAcwmResult id s = _
  simp only [execAcwmResult, hr, hk, hopen]

end

/-- Settles O47: each turn is one update of the sequencer, read off accumulator by accumulator. -/
theorem streamTurns : Obligations.StreamTurns := by
  unfold Obligations.StreamTurns
  intro s p q
  refine ⟨fun a w hw => ?_, fun id w hw hrows hend ht hsq => ?_, fun id k w hw hrows ht hsq hst hb => ?_,
    fun code hst hend hs => ?_, fun id r hr hopen => ⟨fun a aq m row c0 nc fmt mode dst seed hk => ?_, fun a thr dst hk => ?_⟩⟩
  · refine ⟨_, arrayRowFinal_exec hw, rfl, ?_⟩
    rw [proc_modSeq]
    have hfound := List.find?_some hw
    simp only [Bool.and_eq_true, List.contains_iff_mem] at hfound
    obtain ⟨⟨-, hmem⟩, -⟩ := hfound
    exact ⟨fun hfin => rowFinal_wm q w a hfin hmem, rowFinal_other q w, rowFinal_idle q w,
      fun l f hr hl => rowFinal_flags q w a hr hl, mem_rowFinal_work q (List.mem_of_find?_eq_some hw)⟩
  · refine ⟨_, streamInstrComplete_exec hw hrows hsq, ?_⟩
    rw [ht, List.foldl_nil]
    refine ⟨rfl, ?_⟩
    rw [proc_modSeq]
    exact finished_standing id w hend
  · refine ⟨_, streamInstrComplete_exec hw hrows hsq, ?_⟩
    rw [ht, hb, List.foldl_cons, List.foldl_nil]
    exact ⟨tileEnd_mem .., tileEnd_cnt (by rw [proc_modSeq]; rfl) hst⟩
  · refine ⟨streamWordFault_exec code hst hend hs, _, streamWordFault_exec code hst hend hs, streamFault_mem .., ?_⟩
    rw [streamFault_seq]
    refine ⟨rfl, rfl, rfl, fun br b m hbr hband hm => ?_⟩
    have hmembers : (s.proc p).streamMembers = b.members := by
      simp [Proc.streamMembers, show (s.proc p).seq.band = some br from hbr, hband]
    exact streamFault_pends { s with stream := none } p code (hmembers ▸ hm)
  · rw [acrdRead_exec hr hopen hk]
    exact ⟨fun h => if_pos (Or.inl h), fun h hm => if_neg (not_or.mpr ⟨Nat.not_le.mpr h, fun hc => Nat.not_le.mpr (hm hc.1) hc.2⟩)⟩
  · rw [acwmResult_exec hr hopen hk]
    exact ⟨fun h => if_pos h, fun h => if_neg (Nat.not_le.mpr h)⟩

end Sys2Proof.Machine
end

section
/-! Integers and numbers of `n` bits: what sums, quotients, shifts, counts and fields of the one are in the other (R134 to R142). -/
namespace Sys2Proof.Machine

variable {n : Nat} (x y : BitVec n)

/-! Arithmetic. -/

theorem ofInt_toNat : BitVec.ofInt n x.toNat = x := by simp

theorem ofInt_sub (v w : Int) : BitVec.ofInt n (v - w) = BitVec.ofInt n v - BitVec.ofInt n w := by
  rw [Int.sub_eq_add_neg, BitVec.ofInt_add, BitVec.ofInt_neg, BitVec.sub_eq_add_neg]

theorem ofInt_natAbs : BitVec.ofInt n x.toInt.natAbs = if x.msb then -x else x := by
  rw [BitVec.msb_eq_toInt]
  by_cases h : x.toInt < 0
  · rw [if_pos (by simp [h]), show (x.toInt.natAbs : Int) = -x.toInt by omega, BitVec.ofInt_neg, BitVec.ofInt_toInt]
  · rw [if_neg (by simp [h]), show (x.toInt.natAbs : Int) = x.toInt by omega, BitVec.ofInt_toInt]

theorem ofInt_tdiv : BitVec.ofInt n (x.toInt.tdiv y.toInt) = x.sdiv y :=
  BitVec.eq_of_toInt_eq (by rw [BitVec.toInt_ofInt, BitVec.toInt_sdiv])

theorem ofInt_tmod : BitVec.ofInt n (x.toInt.tmod y.toInt) = x.srem y := by
  rw [← BitVec.toInt_srem, BitVec.ofInt_toInt]

theorem ofInt_tdiv_toNat : BitVec.ofInt n ((x.toNat : Int).tdiv y.toNat) = x / y := by
  rw [← Int.ofNat_tdiv, ← BitVec.toNat_udiv, ofInt_toNat]

theorem ofInt_tmod_toNat : BitVec.ofInt n ((x.toNat : Int).tmod y.toNat) = x % y := by
  rw [← Int.ofNat_tmod, ← BitVec.toNat_umod, ofInt_toNat]

/-- The high bits of a number hold its quotient. -/
theorem extractLsb'_ofInt (n k : Nat) (v : Int) :
    (BitVec.ofInt (n + k) v).extractLsb' n k = BitVec.ofInt k (v.fdiv (2 ^ n)) := by
  have hn : (0 : Int) < 2 ^ n := Int.pow_pos (by decide)
  have hsplit : v % 2 ^ (n + k) = v + 2 ^ n * (2 ^ k * -(v / 2 ^ (n + k))) := by
    rw [Int.emod_def, Int.pow_add, Int.mul_neg, Int.mul_neg, Int.mul_assoc, Int.sub_eq_add_neg]
  apply BitVec.eq_of_toInt_eq
  rw [BitVec.extractLsb', BitVec.toInt_ofNat', BitVec.toInt_ofInt, Nat.shiftRight_eq_div_pow, BitVec.toNat_ofInt,
    Int.fdiv_eq_ediv_of_nonneg _ (Int.le_of_lt hn)]
  push_cast
  rw [Int.toNat_of_nonneg (Int.emod_nonneg _ (Int.ne_of_gt (Int.pow_pos (by decide)))), ← Int.emod_bmod (v / 2 ^ n),
    ← Int.emod_bmod (_ / _)]
  push_cast
  rw [hsplit, Int.add_mul_ediv_left _ _ (Int.ne_of_gt hn), Int.add_mul_emod_self_left]

/-! Order. -/

theorem beq_toInt : (x.toInt == y.toInt) = (x == y) := by
  rw [Bool.eq_iff_iff, beq_iff_eq, beq_iff_eq, BitVec.toInt_inj]

theorem beq_toNat : ((x.toNat : Int) == y.toNat) = (x == y) := by
  rw [Bool.eq_iff_iff, beq_iff_eq, beq_iff_eq, Int.ofNat_inj, BitVec.toNat_inj]

theorem decide_toNat_lt : decide ((x.toNat : Int) < y.toNat) = x.ult y := by simp [BitVec.ult]

theorem decide_toNat_le : decide ((x.toNat : Int) ≤ y.toNat) = x.ule y := by simp [BitVec.ule]

/-! Shifts and rotation. -/

theorem ofInt_mul_two_pow (k : Nat) : BitVec.ofInt n (if n ≤ k then 0 else x.toNat * 2 ^ k : Int) = x <<< k := by
  split
  · next h => rw [BitVec.shiftLeft_eq_zero h]; rfl
  · apply BitVec.eq_of_toNat_eq
    rw [BitVec.toNat_shiftLeft, Nat.shiftLeft_eq]
    norm_cast

theorem ofInt_div_two_pow (k : Nat) : BitVec.ofInt n (if n ≤ k then 0 else (x.toNat / 2 ^ k : Nat) : Int) = x >>> k := by
  split
  · next h => rw [BitVec.ushiftRight_eq_zero h]; rfl
  · rw [← Nat.shiftRight_eq_div_pow, ← BitVec.toNat_ushiftRight, ofInt_toNat]

/-- Past the width a shift leaves the sign alone. -/
theorem toInt_ediv_of_le {j : Nat} (h : n ≤ j) : x.toInt / 2 ^ j = if x.toInt < 0 then -1 else 0 := by
  have hle : (2 : Int) ^ n ≤ 2 ^ j := by exact_mod_cast Nat.pow_le_pow_right (by decide) h
  have hlt := BitVec.two_mul_toInt_lt (x := x)
  have hge := BitVec.le_two_mul_toInt (x := x)
  split
  · exact Int.ediv_eq_neg_one_of_neg_of_le (by assumption) (by omega)
  · exact Int.ediv_eq_zero_of_lt (by omega) (by omega)

theorem ofInt_fdiv_two_pow (k : Nat) : BitVec.ofInt n (x.toInt.fdiv (2 ^ min k n)) = x.sshiftRight k := by
  rw [BitVec.sshiftRight, Int.shiftRight_eq_div_pow, Int.fdiv_eq_ediv_of_nonneg _ (Int.le_of_lt (Int.pow_pos (by decide)))]
  push_cast
  rcases Nat.le_total k n with h | h
  · rw [Nat.min_eq_left h]
  · rw [Nat.min_eq_right h, toInt_ediv_of_le x (Nat.le_refl _), toInt_ediv_of_le x h]

/-- The bits that leave at the top fill the room below those that move up. -/
theorem ofInt_rotated {r : Nat} (hr : r < n) :
    BitVec.ofInt n (x.toNat * 2 ^ r + x.toNat / 2 ^ (n - r) : Nat) = x.rotateLeft r := by
  have hpow : 2 ^ r * 2 ^ (n - r) = 2 ^ n := by rw [← Nat.pow_add, Nat.add_sub_cancel' (Nat.le_of_lt hr)]
  have hlow : x.toNat / 2 ^ (n - r) < 2 ^ r := by
    rw [Nat.div_lt_iff_lt_mul (Nat.two_pow_pos _), hpow]; exact x.isLt
  have hhigh : x.toNat * 2 ^ r % 2 ^ n = 2 ^ r * (x.toNat % 2 ^ (n - r)) := by
    rw [← Nat.mul_mod_mul_left, hpow, Nat.mul_comm]
  have hsum : 2 ^ r * (x.toNat % 2 ^ (n - r)) + x.toNat / 2 ^ (n - r) < 2 ^ n := by
    calc _ < 2 ^ r * (x.toNat % 2 ^ (n - r)) + 2 ^ r := by omega
      _ = 2 ^ r * (x.toNat % 2 ^ (n - r) + 1) := (Nat.mul_succ ..).symm
      _ ≤ 2 ^ r * 2 ^ (n - r) := Nat.mul_le_mul_left _ (Nat.mod_lt _ (Nat.two_pow_pos _))
      _ = 2 ^ n := hpow
  apply BitVec.eq_of_toNat_eq
  rw [BitVec.toNat_rotateLeft, Nat.mod_eq_of_lt hr, Nat.shiftLeft_eq, Nat.shiftRight_eq_div_pow, hhigh,
    ← Nat.two_pow_add_eq_or_of_lt hlow, BitVec.ofInt_natCast, BitVec.toNat_ofNat, ← Nat.mod_add_mod, hhigh, Nat.mod_eq_of_lt hsum]

/-! Counts and reversal. -/

theorem clzAuxRec_eq_clzN (k : Nat) (hk : k < n) :
    x.clzAuxRec k = BitVec.ofNat n (n - 1 - k + clzN x.toNat (k + 1)) := by
  induction k with
  | zero =>
    rw [BitVec.clzAuxRec_zero, clzN, BitVec.testBit_toNat]
    split
    · simp
    · rw [clzN]; congr 1; omega
  | succ k ih =>
    rw [BitVec.clzAuxRec_succ, clzN, BitVec.testBit_toNat]
    split
    · rfl
    · rw [ih (by omega)]; congr 1; omega

theorem ofNat_clzN (hn : 0 < n) : BitVec.ofNat n (clzN x.toNat n) = x.clz := by
  rw [BitVec.clz, clzAuxRec_eq_clzN x _ (by omega), Nat.sub_self, Nat.zero_add, Nat.sub_add_cancel hn]

theorem testBit_reverse {i : Nat} (hi : i < n) : x.reverse.toNat.testBit i = x.toNat.testBit (n - 1 - i) := by
  rw [BitVec.testBit_toNat, BitVec.testBit_toNat, BitVec.getLsbD_reverse, BitVec.getMsbD_eq_getLsbD, decide_eq_true hi,
    Bool.true_and]

/-- Counted from the bottom, the zeros are those at the top of the reversal. -/
theorem ctzN_eq_clzN_reverse (k : Nat) (hk : k ≤ n) : ctzN x.toNat n k = clzN x.reverse.toNat k := by
  induction k with
  | zero => rfl
  | succ k ih => rw [ctzN, clzN, ih (by omega), testBit_reverse x hk, Nat.sub_right_comm, Nat.sub_sub]

theorem cpopNatRec_eq_popN (k acc : Nat) : x.cpopNatRec k acc = acc + popN x.toNat k := by
  induction k generalizing acc with
  | zero => rfl
  | succ k ih =>
    have hlast : ([k].filter x.toNat.testBit).length = (x.toNat.testBit k).toNat := by
      cases h : x.toNat.testBit k <;> simp [h]
    rw [BitVec.cpopNatRec_succ, ih, popN, popN, List.range_succ, List.filter_append, List.length_append, hlast,
      BitVec.testBit_toNat]
    omega

/-- The sum of the first `k` bits, each at its reversed place, is the top of the reversal. -/
theorem foldl_reversed (k : Nat) (hk : k ≤ n) :
    (List.range k).foldl (fun a i => a + boolN (x.toNat.testBit i) * 2 ^ (n - 1 - i)) 0 =
      x.reverse.toNat / 2 ^ (n - k) * 2 ^ (n - k) := by
  induction k with
  | zero => simp [Nat.div_eq_of_lt x.reverse.isLt]
  | succ k ih =>
    have hbit : boolN (x.toNat.testBit k) = x.reverse.toNat / 2 ^ (n - 1 - k) % 2 := by
      have htest : x.toNat.testBit k = x.reverse.toNat.testBit (n - 1 - k) := by
        rw [testBit_reverse x (by omega), Nat.sub_sub_self (by omega)]
      rw [htest, boolN, Nat.testBit_eq_decide_div_mod_eq]
      simp only [decide_eq_true_eq]; split <;> omega
    rw [List.range_succ, List.foldl_append, List.foldl_cons, List.foldl_nil, ih (by omega), hbit,
      show n - k = n - 1 - k + 1 by omega, show n - (k + 1) = n - 1 - k by omega, Nat.pow_succ, ← Nat.div_div_eq_div_mul]
    generalize x.reverse.toNat / 2 ^ (n - 1 - k) = q
    rw [Nat.mul_comm (2 ^ (n - 1 - k)) 2, ← Nat.mul_assoc, ← Nat.add_mul, Nat.mul_comm (q / 2) 2, Nat.div_add_mod]

theorem brevN_eq_reverse : brevN x.toNat n = x.reverse.toNat := by
  rw [brevN, foldl_reversed x n (Nat.le_refl _), Nat.sub_self, Nat.pow_zero, Nat.div_one, Nat.mul_one]

/-! Fields. -/

theorem signedOf_field (pos len : Nat) :
    signedOf (x.toNat / 2 ^ pos % 2 ^ len) len = (x.extractLsb' pos len).toInt := by
  rw [signedOf, BitVec.extractLsb', Nat.shiftRight_eq_div_pow]
  exact congrArg BitVec.toInt (BitVec.eq_of_toNat_eq (by simp))

theorem ofNat_field (k pos len : Nat) :
    BitVec.ofNat k (x.toNat / 2 ^ pos % 2 ^ len) = (x.extractLsb' pos len).setWidth k :=
  BitVec.eq_of_toNat_eq (by simp [Nat.shiftRight_eq_div_pow])

/-- Of a number with `v` in `len` bits at `pos`, the bits there are those of `v`, the others those that stood there. -/
theorem testBit_inserted {v len pos : Nat} (h : v < 2 ^ len) (a i : Nat) :
    (a / 2 ^ (pos + len) * 2 ^ (pos + len) + v * 2 ^ pos + a % 2 ^ pos).testBit i =
      if pos ≤ i ∧ i < pos + len then v.testBit (i - pos) else a.testBit i := by
  have hsplit : a / 2 ^ (pos + len) * 2 ^ (pos + len) + v * 2 ^ pos + a % 2 ^ pos =
      2 ^ pos * (2 ^ len * (a / 2 ^ (pos + len)) + v) + a % 2 ^ pos := by
    rw [Nat.pow_add, Nat.mul_add, ← Nat.mul_assoc (2 ^ pos) (2 ^ len), Nat.mul_comm (2 ^ pos * 2 ^ len),
      Nat.mul_comm (2 ^ pos) v]
  rw [hsplit, Nat.testBit_two_pow_mul_add _ (Nat.mod_lt _ (Nat.two_pow_pos _)), Nat.testBit_two_pow_mul_add _ h,
    Nat.testBit_mod_two_pow, Nat.testBit_div_two_pow]
  by_cases hlow : i < pos
  · rw [if_pos hlow, if_neg (by omega), decide_eq_true hlow, Bool.true_and]
  · by_cases hin : i < pos + len
    · rw [if_neg hlow, if_pos (by omega), if_pos (by omega)]
    · rw [if_neg hlow, if_neg (by omega), if_neg (by omega), show i - pos - len + (pos + len) = i by omega]

theorem ofNat_inserted (pos len : Nat) :
    BitVec.ofNat n (x.toNat / 2 ^ (pos + len) * 2 ^ (pos + len) + y.toNat % 2 ^ len * 2 ^ pos + x.toNat % 2 ^ pos) =
      (x &&& ~~~((BitVec.allOnes len).setWidth n <<< pos)) ||| ((y <<< pos) &&& ((BitVec.allOnes len).setWidth n <<< pos)) := by
  refine BitVec.eq_of_getLsbD_eq fun i hi => ?_
  rw [BitVec.getLsbD_ofNat, testBit_inserted (Nat.mod_lt _ (Nat.two_pow_pos _)), Nat.testBit_mod_two_pow, BitVec.testBit_toNat,
    BitVec.testBit_toNat]
  simp only [BitVec.getLsbD_or, BitVec.getLsbD_and, BitVec.getLsbD_not, BitVec.getLsbD_shiftLeft, BitVec.getLsbD_setWidth,
    BitVec.getLsbD_allOnes, hi, decide_true, Bool.true_and]
  by_cases hlow : i < pos
  · simp [hlow, Nat.not_le.mpr hlow]
  · by_cases hin : i < pos + len
    · simp [hlow, Nat.not_lt.mp hlow, hin, show i - pos < n by omega, show i - pos < len by omega]
    · simp [hlow, hin, show ¬ i - pos < len by omega]

end Sys2Proof.Machine
end

section
/-! Widths (R128): both widths at once. An operand's low bits are a number of the width, a result is one sign-extended, and each
function of the integer instructions is the operation of that width on the low bits. -/
namespace Sys2Proof.Machine

/-- An operand's low bits, as many as the width. -/
def lowBits (m : IntMod) (a : Word) : BitVec m.width := a.setWidth m.width

/-- An operand's low bits, extended to 64 as U reads them. -/
def extended (m : IntMod) (a : Word) : Word :=
  if m.w then (if m.u then (a.setWidth 32).setWidth 64 else (a.setWidth 32).signExtend 64) else a

section
variable {m : IntMod} {a b : Word}

/-! Operands. -/

theorem intWidth_le : m.width ≤ 64 := by unfold IntMod.width; split <;> decide
theorem intWidth_pos : 0 < m.width := by unfold IntMod.width; split <;> decide
theorem wid_eq : wid m = m.width := rfl

theorem sv_eq : sv m a = (lowBits m a).toInt := by
  unfold sv lowBits IntMod.width
  cases m.w
  · simp
  · rfl

theorem uv_eq : uv m a = (lowBits m a).toNat := by
  unfold uv lowBits IntMod.width
  cases m.w
  · simp
  · rfl

theorem xv_eq : xv m a = if m.u then ((lowBits m a).toNat : Int) else (lowBits m a).toInt := by
  rw [xv, uv_eq, sv_eq]

theorem xv_eq_extended : xv m a = if m.u then ((extended m a).toNat : Int) else (extended m a).toInt := by
  unfold xv uv sv extended
  cases m.w
  · rfl
  · cases m.u
    · exact (BitVec.toInt_signExtend_of_le (by decide)).symm
    · exact congrArg Int.ofNat (BitVec.toNat_setWidth_of_le (by decide)).symm

theorem ofInt_sv : BitVec.ofInt m.width (sv m a) = lowBits m a := by rw [sv_eq, BitVec.ofInt_toInt]

theorem ofInt_xv : BitVec.ofInt m.width (xv m a) = lowBits m a := by
  rw [xv_eq]
  split
  · exact ofInt_toNat _
  · exact BitVec.ofInt_toInt

/-- A result of all 64 bits has its low bits for those of the width. -/
theorem ofInt_word : BitVec.ofInt m.width a.toInt = lowBits m a := BitVec.signExtend_eq_setWidth_of_le a intWidth_le

theorem lowBits_mul : lowBits m (a * b) = lowBits m a * lowBits m b := BitVec.setWidth_mul _ _ intWidth_le

theorem lowBits_andn : lowBits m (a &&& ~~~b) = lowBits m a &&& ~~~lowBits m b := by
  rw [lowBits, BitVec.setWidth_and, BitVec.setWidth_not intWidth_le]; rfl

theorem uv_eq_zero_iff : uv m a = 0 ↔ lowBits m a = 0 := by
  rw [uv_eq, BitVec.toNat_eq]; rfl

/-! The order of two operands (R137, R142). -/

theorem xv_le_iff : xv m a ≤ xv m b ↔
    (if m.u then (lowBits m a).ule (lowBits m b) else (lowBits m a).sle (lowBits m b)) = true := by
  rw [xv_eq, xv_eq]
  split
  · rw [BitVec.ule_iff_toNat_le, Int.ofNat_le]
  · rw [BitVec.sle_iff_toInt_le]

theorem beq_xv : (xv m a == xv m b) = (extended m a == extended m b) := by
  rw [xv_eq_extended, xv_eq_extended]
  split
  · exact beq_toNat ..
  · exact beq_toInt ..

theorem decide_xv_lt : decide (xv m a < xv m b) =
    if m.u then (extended m a).ult (extended m b) else (extended m a).slt (extended m b) := by
  rw [xv_eq_extended, xv_eq_extended]
  split
  · exact decide_toNat_lt ..
  · rfl

theorem decide_xv_le : decide (xv m a ≤ xv m b) =
    if m.u then (extended m a).ule (extended m b) else (extended m a).sle (extended m b) := by
  rw [xv_eq_extended, xv_eq_extended]
  split
  · exact decide_toNat_le ..
  · rfl

/-! Results. -/

theorem put_eq (v : Int) : put m v = (BitVec.ofInt m.width v).signExtend 64 := by
  unfold put IntMod.width
  cases m.w
  · simp
  · rfl

theorem atWidth_eq (op : (n : Nat) → BitVec n → BitVec n → BitVec n) :
    atWidth m.w a b op = (op m.width (lowBits m a) (lowBits m b)).signExtend 64 := by
  unfold atWidth lowBits IntMod.width
  cases m.w
  · simp
  · rfl

/-- What `put` writes is an operation at the width, where the integer is the operation's result in its low bits. -/
theorem put_gives {s : State} {f : BForm} {v : Env → Int} {x y : Env → Word}
    {op : Env → (n : Nat) → BitVec n → BitVec n → BitVec n}
    (h : ∀ e, BitVec.ofInt m.width (v e) = op e m.width (lowBits m (x e)) (lowBits m (y e))) :
    GivesG (.next (s.pureG f fun e => put m (v e))) s f fun e => atWidth m.w (x e) (y e) (op e) :=
  (pureG_gives s f _).congr fun e => by rw [put_eq, atWidth_eq, h]

/-! Arithmetic (R134 to R137). -/

theorem saturated_eq {h : Int} (hpos : 0 < h) (v : Int) :
    (if v < -h then -h else if h - 1 < v then h - 1 else v) = max (-h) (min (h - 1) v) := by omega

theorem ofInt_satV (v : Int) : BitVec.ofInt m.width (satV m v) = if m.sat then clamp m.width v else BitVec.ofInt m.width v := by
  unfold satV clamp
  cases m.sat
  · rfl
  · exact congrArg (BitVec.ofInt m.width) (saturated_eq (Int.pow_pos (by decide)) v)

/-- The exact product of two numbers of the width takes twice the width. -/
theorem ofInt_mulhV : BitVec.ofInt m.width (mulhV m a b) =
    if m.u then ((lowBits m a).setWidth (2 * m.width) * (lowBits m b).setWidth (2 * m.width)).extractLsb' m.width m.width
    else ((lowBits m a).signExtend (2 * m.width) * (lowBits m b).signExtend (2 * m.width)).extractLsb' m.width m.width := by
  rw [mulhV, wid_eq, ← extractLsb'_ofInt, xv_eq, xv_eq, ← Nat.two_mul, BitVec.ofInt_mul]
  split
  · rw [BitVec.ofInt_natCast, BitVec.ofInt_natCast, BitVec.ofNat_toNat, BitVec.ofNat_toNat]
  · rfl

theorem ofInt_divV : BitVec.ofInt m.width (divV m a b) =
    if lowBits m b = 0 then BitVec.allOnes m.width
    else if m.u then lowBits m a / lowBits m b else (lowBits m a).sdiv (lowBits m b) := by
  simp only [divV, uv_eq_zero_iff, xv_eq]
  split
  · rw [← BitVec.neg_one_eq_allOnes, BitVec.ofInt_neg]; rfl
  · split
    · exact ofInt_tdiv_toNat ..
    · exact ofInt_tdiv ..

theorem ofInt_remV : BitVec.ofInt m.width (remV m a b) =
    if lowBits m b = 0 then lowBits m a
    else if m.u then lowBits m a % lowBits m b else (lowBits m a).srem (lowBits m b) := by
  simp only [remV, uv_eq_zero_iff]
  split
  · exact ofInt_xv
  · rw [xv_eq, xv_eq]
    split
    · exact ofInt_tmod_toNat ..
    · exact ofInt_tmod ..

theorem ofInt_minV : BitVec.ofInt m.width (minV m a b) =
    if (if m.u then (lowBits m a).ule (lowBits m b) else (lowBits m a).sle (lowBits m b)) then lowBits m a else lowBits m b := by
  simp only [minV, xv_le_iff, apply_ite (BitVec.ofInt m.width), ofInt_xv]

theorem ofInt_maxV : BitVec.ofInt m.width (maxV m a b) =
    if (if m.u then (lowBits m b).ule (lowBits m a) else (lowBits m b).sle (lowBits m a)) then lowBits m a else lowBits m b := by
  simp only [maxV, xv_le_iff, apply_ite (BitVec.ofInt m.width), ofInt_xv]

/-! Shifts, counts and fields (R139 to R141). -/

theorem ofInt_shlV : BitVec.ofInt m.width (shlV m a b) = lowBits m a <<< shiftN m b := by
  rw [shlV, wid_eq, uv_eq]; exact ofInt_mul_two_pow ..

theorem ofInt_shrV : BitVec.ofInt m.width (shrV m a b) = lowBits m a >>> shiftN m b := by
  rw [shrV, wid_eq, uv_eq]; exact ofInt_div_two_pow ..

theorem ofInt_sarV : BitVec.ofInt m.width (sarV m a b) = (lowBits m a).sshiftRight (shiftN m b) := by
  rw [sarV, wid_eq, sv_eq]; exact ofInt_fdiv_two_pow ..

theorem ofInt_rolV : BitVec.ofInt m.width (rolV m a b) = (lowBits m a).rotateLeft (shiftN m b % m.width) := by
  rw [rolV, wid_eq, uv_eq]; exact ofInt_rotated _ (Nat.mod_lt _ intWidth_pos)

theorem ofInt_clzN : BitVec.ofInt m.width (clzN (uv m a) (wid m)) = (lowBits m a).clz := by
  rw [wid_eq, uv_eq, BitVec.ofInt_natCast, ofNat_clzN _ intWidth_pos]

theorem ofInt_ctzN : BitVec.ofInt m.width (ctzN (uv m a) (wid m) (wid m)) = (lowBits m a).ctz := by
  rw [wid_eq, uv_eq, BitVec.ofInt_natCast, ctzN_eq_clzN_reverse _ _ (Nat.le_refl _), ofNat_clzN _ intWidth_pos]; rfl

theorem ofInt_popN : BitVec.ofInt m.width (popN (uv m a) (wid m)) = (lowBits m a).cpop := by
  rw [wid_eq, uv_eq, BitVec.ofInt_natCast, BitVec.cpop, cpopNatRec_eq_popN, Nat.zero_add]

theorem ofInt_brevN : BitVec.ofInt m.width (brevN (uv m a) (wid m)) = (lowBits m a).reverse := by
  rw [wid_eq, uv_eq, brevN_eq_reverse, ofInt_toNat]

theorem ofInt_bfxV : BitVec.ofInt m.width (bfxV m a) =
    if m.u then ((lowBits m a).extractLsb' m.pos.toNat (m.lenm1.toNat + 1)).signExtend m.width
    else ((lowBits m a).extractLsb' m.pos.toNat (m.lenm1.toNat + 1)).setWidth m.width := by
  simp only [bfxV, uv_eq]
  split
  · rw [signedOf_field]; rfl
  · rw [BitVec.ofInt_natCast, ofNat_field]

/-- The field's bits of the second operand stand in its low bits, for the field lies in the width. -/
theorem ofInt_bfiV (h : m.pos.toNat + m.lenm1.toNat + 1 ≤ m.width) : BitVec.ofInt m.width (bfiV m a b) =
    (lowBits m a &&& ~~~((BitVec.allOnes (m.lenm1.toNat + 1)).setWidth m.width <<< m.pos.toNat)) |||
      ((lowBits m b <<< m.pos.toNat) &&& ((BitVec.allOnes (m.lenm1.toNat + 1)).setWidth m.width <<< m.pos.toNat)) := by
  have hlow : b.toNat % 2 ^ (m.lenm1.toNat + 1) = (lowBits m b).toNat % 2 ^ (m.lenm1.toNat + 1) := by
    rw [lowBits, BitVec.toNat_setWidth, Nat.mod_mod_of_dvd _ (Nat.pow_dvd_pow 2 (by omega))]
  simp only [bfiV, uv_eq, hlow]
  rw [BitVec.ofInt_natCast]
  exact ofNat_inserted ..

/-! Effective addresses (R144). -/

theorem leaV_eq : leaV m a b = a + BitVec.ofNat 64 ((match m.w, m.u with
    | false, _ => b
    | true, false => (b.setWidth 32).signExtend 64
    | true, true => (b.setWidth 32).setWidth 64 : Word).toNat * 2 ^ m.cond.toNat) := by
  unfold leaV
  rw [← Nat.shiftLeft_eq]
  cases m.w
  · rfl
  · cases m.u <;> rfl

end

end Sys2Proof.Machine
end

section
/-! The integer and address instructions (R128 to R145). -/
namespace Sys2Proof.Machine

/-! What decode has checked (R131, R132). -/

theorem modsOk_of_wellFormed {i : Instr} (h : i.wellFormed = true) : i.modsOk = true := by
  simp only [Instr.wellFormed, Instr.reservedOk, Bool.and_eq_true] at h
  obtain ⟨⟨⟨hmods, -⟩, -⟩, -⟩ := h
  exact hmods

theorem bfi_fits {b : BForm} {m : IntMod} (h : (Instr.bfi b m).wellFormed = true) :
    m.pos.toNat + m.lenm1.toNat + 1 ≤ m.width := by
  have hm : (m.only true false false false false true true && decide (m.pos.toNat + m.lenm1.toNat + 1 ≤ m.width)) = true :=
    modsOk_of_wellFormed h
  exact of_decide_eq_true (Bool.and_eq_true_iff.mp hm).2

theorem icmp_code {b : BForm} {m : IntMod} (h : (Instr.icmp b m).wellFormed = true) : m.cond.toNat < 6 := by
  have hm : (m.only true true false false true false false && decide (m.cond.toNat ≤ 5)) = true := modsOk_of_wellFormed h
  exact Nat.lt_succ_of_le (of_decide_eq_true (Bool.and_eq_true_iff.mp hm).2)

theorem icmpImm_code {l : LForm} (h : (Instr.icmpImm l).wellFormed = true) : (l.imm.extractLsb' 28 4).toNat < 10 := by
  have hm : l.imm.toNat / 2 ^ 28 ≤ 9 := of_decide_eq_true (modsOk_of_wellFormed h)
  rw [BitVec.extractLsb'_toNat, Nat.shiftRight_eq_div_pow]
  omega

/-- Settles O1: each exact integer that the model puts is the operation of the width on the operands' low bits. -/
theorem integerArithmetic : Obligations.IntegerArithmetic := by
  unfold Obligations.IntegerArithmetic
  refine ⟨fun s b m => ⟨?iadd, ?isub, ?ineg, ?iabs, ?imul, put_gives fun _ => ofInt_mulhV, ?imad⟩,
    fun s b m => ⟨put_gives fun _ => ofInt_divV, put_gives fun _ => ofInt_remV, put_gives fun _ => ofInt_minV,
      put_gives fun _ => ofInt_maxV⟩⟩
  case iadd => exact put_gives fun e => by rw [ofInt_satV, BitVec.ofInt_add, ofInt_sv, ofInt_sv, sv_eq, sv_eq]
  case isub => exact put_gives fun e => by rw [ofInt_satV, ofInt_sub, ofInt_sv, ofInt_sv, sv_eq, sv_eq]
  case ineg => exact put_gives fun e => by rw [ofInt_satV, BitVec.ofInt_neg, ofInt_sv, sv_eq]
  case iabs => exact put_gives fun e => by rw [ofInt_satV, sv_eq, ofInt_natAbs]
  case imul => exact put_gives fun e => by rw [BitVec.ofInt_mul, ofInt_sv, ofInt_sv]
  case imad => exact put_gives fun e => by rw [BitVec.ofInt_add, BitVec.ofInt_mul, ofInt_sv, ofInt_sv, ofInt_sv, lowBits_mul]

/-- Settles O2: the logic of the low bits is the low bits of the logic, and a shift, a count or a field is one of the low bits. -/
theorem logicShiftsAndFields : Obligations.LogicShiftsAndFields := by
  unfold Obligations.LogicShiftsAndFields
  refine ⟨fun s b m => ⟨?and, ?or, ?xor, ?andn, ?shl, ?shr, ?sar, ?rol⟩,
    fun s b m => ⟨?clz, ?ctz, ?popc, ?brev, fun _ => ?bfx, fun h => ?bfi⟩⟩
  case and => exact put_gives fun _ => ofInt_word.trans BitVec.setWidth_and
  case or => exact put_gives fun _ => ofInt_word.trans BitVec.setWidth_or
  case xor => exact put_gives fun _ => ofInt_word.trans BitVec.setWidth_xor
  case andn => exact put_gives fun _ => ofInt_word.trans lowBits_andn
  case shl => exact put_gives fun _ => ofInt_shlV
  case shr => exact put_gives fun _ => ofInt_shrV
  case sar => exact put_gives fun _ => ofInt_sarV
  case rol => exact put_gives fun _ => ofInt_rolV
  case clz => exact put_gives fun _ => ofInt_clzN
  case ctz => exact put_gives fun _ => ofInt_ctzN
  case popc => exact put_gives fun _ => ofInt_popN
  case brev => exact put_gives fun _ => ofInt_brevN
  case bfx => exact put_gives fun _ => ofInt_bfxV
  case bfi => exact put_gives fun _ => ofInt_bfiV (bfi_fits h)

/-- Settles O3: the forms compute what they state; those that compare do it by the numbers that the words stand for. -/
theorem longImmediateForms : Obligations.LongImmediateForms := by
  unfold Obligations.LongImmediateForms
  intro s l b i j
  refine ⟨pureG_gives s b _, pureG_gives s b _, pureG_gives s b _, pureG_gives s b _, pureG_gives s b _, ?imin, ?imax,
    pureG_gives s b _, ?movh, pureG_gives s b _, fun h => ?icmp⟩
  case imin => exact (pureG_gives s b _).congr fun e => by simp only [BitVec.sle_iff_toInt_le]; rfl
  case imax => exact (pureG_gives s b _).congr fun e => by simp only [BitVec.sle_iff_toInt_le]; rfl
  case movh => exact (pureG_gives s b _).congr fun e => by rw [BitVec.setWidth_eq_extractLsb' (by decide)]
  case icmp =>
    refine (pureP_gives s b _).congr fun e => ?_
    have hcode := icmpImm_code h
    unfold longRel
    generalize (l.imm.extractLsb' 28 4).toNat = k at hcode
    match k, hcode with
    | 0, _ => exact beq_toInt ..
    | 1, _ => exact congrArg not (beq_toInt ..)
    | 2, _ | 3, _ | 4, _ | 5, _ => rfl
    | 6, _ | 8, _ => exact decide_toNat_lt ..
    | 7, _ | 9, _ => exact decide_toNat_le ..

/-- Settles O4: a comparison at a width is one of the extended words; the other forms compute what they state. -/
theorem compareSelectMoveAddress : Obligations.CompareSelectMoveAddress := by
  unfold Obligations.CompareSelectMoveAddress
  intro s b m
  refine ⟨fun h => (pureP_gives s b _).congr fun e => ?_, pureG_gives s b _, pureG_gives s b _,
    fun _ => (pureG_gives s b _).congr fun _ => leaV_eq, pureP_gives s b _, pureP_gives s b _, pureP_gives s b _,
    pureP_gives s b _⟩
  have hcode := icmp_code h
  generalize m.cond.toNat = k at hcode
  match k, hcode with
  | 0, _ => exact beq_xv
  | 1, _ => exact congrArg not beq_xv
  | 2, _ | 4, _ => exact decide_xv_lt
  | 3, _ | 5, _ => exact decide_xv_le

end Sys2Proof.Machine
end

section
/-! FP32 codes: sign, magnitude and order, read off the bits (R64, R152 to R154). -/
namespace Sys2Proof.Machine

/-! The parts of a code. -/

def codeMag (c : Nat) : Nat := c % 2 ^ 31
def codeNeg (c : Nat) : Bool := decide (2 ^ 31 ≤ c)
def codeNan (c : Nat) : Bool := decide (0x7F800000 < codeMag c)

def unordered (a b : Nat) : Bool := codeNan a || codeNan b

theorem unordered_comm (a b : Nat) : unordered a b = unordered b a := Bool.or_comm ..

/-- The order of the values, zeros of both signs together. -/
def codeVal (c : Nat) : Int := if codeNeg c then -(codeMag c : Int) else codeMag c

/-- The order of the codes, −0 just below +0. -/
def codeKey (c : Nat) : Int := if codeNeg c then -(codeMag c : Int) - 1 else codeMag c

/-- A finite magnitude in units of the least one, `2 ^ -149`. -/
def magUnits (n : Nat) : Nat := (n % 2 ^ 23 + if n / 2 ^ 23 = 0 then 0 else 2 ^ 23) * 2 ^ (n / 2 ^ 23 - 1)

theorem magUnits_lt_succ (n : Nat) : magUnits n < magUnits (n + 1) := by
  unfold magUnits
  by_cases hcarry : n % 2 ^ 23 = 2 ^ 23 - 1
  · have hlow : (n + 1) % 2 ^ 23 = 0 := by omega
    have hhigh : (n + 1) / 2 ^ 23 = n / 2 ^ 23 + 1 := by omega
    rw [hlow, hhigh, hcarry, if_neg (Nat.succ_ne_zero _)]
    cases n / 2 ^ 23 with
    | zero => decide
    | succ q =>
      rw [if_neg (Nat.succ_ne_zero _), Nat.add_sub_cancel, Nat.add_sub_cancel, Nat.pow_succ]
      have := Nat.two_pow_pos q
      omega
  · have hlow : (n + 1) % 2 ^ 23 = n % 2 ^ 23 + 1 := by omega
    have hhigh : (n + 1) / 2 ^ 23 = n / 2 ^ 23 := by omega
    rw [hlow, hhigh]
    exact Nat.mul_lt_mul_of_pos_right (by omega) (Nat.two_pow_pos _)

theorem magUnits_lt {n k : Nat} (h : n < k) : magUnits n < magUnits k := by
  induction h with
  | refl => exact magUnits_lt_succ n
  | step _ ih => exact Nat.lt_trans ih (magUnits_lt_succ _)

/-- The codes of magnitudes stand in the order of the magnitudes. -/
theorem magUnits_lt_iff {n k : Nat} : magUnits n < magUnits k ↔ n < k := by
  refine ⟨fun h => Nat.lt_of_not_le fun hle => ?_, magUnits_lt⟩
  rcases Nat.lt_or_eq_of_le hle with hlt | heq
  · exact Nat.lt_asymm h (magUnits_lt hlt)
  · exact Nat.lt_irrefl _ (heq ▸ h)

theorem magUnits_zero : magUnits 0 = 0 := rfl

/-! The value of a code. -/

variable {c : Nat}

theorem testBit_sign (h : c < 2 ^ 32) : c.testBit 31 = codeNeg c := by
  rw [Nat.testBit_eq_decide_div_mod_eq, codeNeg, decide_eq_decide]
  omega

theorem exponent_eq : c / 2 ^ 23 % 256 = codeMag c / 2 ^ 23 := by unfold codeMag; omega

theorem fraction_eq : c % 2 ^ 23 = codeMag c % 2 ^ 23 := by unfold codeMag; omega

/-- Exponent and fraction are the quotient and the remainder of the magnitude. -/
theorem f32_eq (h : c < 2 ^ 32) : f32 c =
    if codeMag c / 2 ^ 23 = 255 then (if codeMag c % 2 ^ 23 = 0 then .inf (codeNeg c) else .nan)
    else if codeMag c / 2 ^ 23 = 0 then .fin (codeNeg c) (codeMag c % 2 ^ 23) (-149) false
    else .fin (codeNeg c) (codeMag c % 2 ^ 23 + 2 ^ 23) (-149 + (codeMag c / 2 ^ 23 : Nat) - 1) false := by
  unfold f32
  rw [Nat.mod_eq_of_lt h, ← testBit_sign h, ← exponent_eq, ← fraction_eq]
  simp only [NF.decode, NF.ieee, reduceCtorEq, false_and, true_and, if_false]
  rfl

theorem f32_of_nan (h : c < 2 ^ 32) (hnan : codeNan c = true) : f32 c = .nan := by
  have hmag : codeMag c < 2 ^ 31 := Nat.mod_lt _ (by decide)
  have hbig := of_decide_eq_true hnan
  rw [f32_eq h, if_pos (by omega), if_neg (by omega)]

theorem f32_of_inf (h : c < 2 ^ 32) (hinf : codeMag c = 0x7F800000) : f32 c = .inf (codeNeg c) := by
  rw [f32_eq h, if_pos (by omega), if_pos (by omega)]

/-- A finite code is a whole number of the least magnitudes. -/
theorem f32_of_fin (h : c < 2 ^ 32) (hfin : codeMag c < 0x7F800000) :
    ∃ m e, f32 c = .fin (codeNeg c) m e false ∧ -149 ≤ e ∧ m * 2 ^ (e + 149).toNat = magUnits (codeMag c) := by
  rw [f32_eq h, if_neg (by omega), magUnits]
  split
  · next hsub => exact ⟨_, _, rfl, Int.le_refl _, by rw [hsub]; rfl⟩
  · next hnormal => exact ⟨_, _, rfl, by omega, by congr 2; omega⟩

/-- A code that is no NaN is finite or an infinity. -/
theorem codeMag_of_not_nan (hnan : codeNan c = false) : codeMag c < 0x7F800000 ∨ codeMag c = 0x7F800000 :=
  Nat.lt_or_eq_of_le (Nat.le_of_not_lt (of_decide_eq_false hnan))

theorem f32_isNan (h : c < 2 ^ 32) : (f32 c).isNan = codeNan c := by
  cases hnan : codeNan c with
  | true => rw [f32_of_nan h hnan]; rfl
  | false =>
    rcases codeMag_of_not_nan hnan with hfin | hinf
    · obtain ⟨m, e, hx, -⟩ := f32_of_fin h hfin
      rw [hx]; rfl
    · rw [f32_of_inf h hinf]; rfl

theorem f32_neg (h : c < 2 ^ 32) (hnan : codeNan c = false) : (f32 c).neg? = codeNeg c := by
  rcases codeMag_of_not_nan hnan with hfin | hinf
  · obtain ⟨m, e, hx, -⟩ := f32_of_fin h hfin
    rw [hx]; rfl
  · rw [f32_of_inf h hinf]; rfl

/-! The order of two codes. -/

theorem Dy.at_lower {a : Dy} {k e : Int} (hk : k ≤ a.e) (he : e ≤ k) : a.at e = a.at k * 2 ^ (k - e).toNat := by
  rw [Dy.at, Dy.at, Int.mul_assoc, ← Int.pow_add]
  congr 2
  omega

/-- Two dyadics compare as their multiples of any common unit do. -/
theorem Dy.lt_eq_at {a b : Dy} {e : Int} (ha : e ≤ a.e) (hb : e ≤ b.e) : a.lt b = decide (a.at e < b.at e) := by
  have he : e ≤ min a.e b.e := Int.le_min.mpr ⟨ha, hb⟩
  rw [Dy.lt, decide_eq_decide, Dy.at_lower (Int.min_le_left ..) he, Dy.at_lower (Int.min_le_right ..) he]
  exact (Int.mul_lt_mul_right (Int.pow_pos (by decide))).symm

theorem dy_at_units (n : Bool) (m : Nat) (e : Int) :
    (X.fin n m e false).dy.at (-149) =
      if n then -((m * 2 ^ (e + 149).toNat : Nat) : Int) else (m * 2 ^ (e + 149).toNat : Nat) := by
  rw [Dy.at, show (X.fin n m e false).dy.e - -149 = e + 149 from Int.sub_neg ..]
  simp only [X.dy, Int.natCast_mul, Int.natCast_pow]
  cases n
  · rfl
  · exact Int.neg_mul ..

/-- The sign of the larger magnitude decides. -/
theorem decide_codeVal_lt_larger {a b : Nat} (h : codeMag a < codeMag b) : decide (codeVal a < codeVal b) = !codeNeg b := by
  unfold codeVal
  cases codeNeg a <;> cases codeNeg b <;>
    simp only [Bool.false_eq_true, if_true, if_false, Bool.not_true, Bool.not_false, decide_eq_true_eq,
      decide_eq_false_iff_not] <;> omega

theorem decide_codeVal_larger_lt {a b : Nat} (h : codeMag b < codeMag a) : decide (codeVal a < codeVal b) = codeNeg a := by
  unfold codeVal
  cases codeNeg a <;> cases codeNeg b <;>
    simp only [Bool.false_eq_true, if_true, if_false, decide_eq_true_eq, decide_eq_false_iff_not] <;> omega

theorem decide_codeVal_lt_of_eq {a b : Nat} (h : codeMag a = codeMag b) (hpos : 0 < codeMag a) :
    decide (codeVal a < codeVal b) = (codeNeg a && !codeNeg b) := by
  unfold codeVal
  cases codeNeg a <;> cases codeNeg b <;>
    simp only [Bool.false_eq_true, if_true, if_false, Bool.not_true, Bool.not_false, Bool.and_true, Bool.and_false,
      decide_eq_true_eq, decide_eq_false_iff_not] <;> omega

theorem code_eq (h : c < 2 ^ 32) : c = codeMag c + if codeNeg c then 2 ^ 31 else 0 := by
  by_cases hneg : 2 ^ 31 ≤ c
  · rw [codeNeg, if_pos (decide_eq_true hneg), codeMag]; omega
  · rw [codeNeg, decide_eq_false hneg, if_neg Bool.false_ne_true, codeMag]; omega

theorem codeKey_inj {a b : Nat} (ha : a < 2 ^ 32) (hb : b < 2 ^ 32) (h : codeKey a = codeKey b) : a = b := by
  rw [code_eq ha, code_eq hb]
  unfold codeKey at h
  cases hna : codeNeg a <;> cases hnb : codeNeg b <;>
    simp only [hna, hnb, Bool.false_eq_true, if_true, if_false] at h ⊢ <;> omega

/-- Codes that differ stand in the order of their values, −0 below +0. -/
theorem decide_codeKey_lt {a b : Nat} (h : codeKey a ≠ codeKey b) :
    decide (codeKey a < codeKey b) = (decide (codeVal a < codeVal b) || codeVal a == codeVal b && codeNeg a) := by
  unfold codeKey at h ⊢
  unfold codeVal
  rw [Bool.eq_iff_iff]
  cases hna : codeNeg a <;> cases hnb : codeNeg b <;>
    simp only [hna, hnb, Bool.false_eq_true, if_true, if_false, Bool.or_eq_true, Bool.and_true, Bool.and_false, or_false,
      beq_iff_eq, decide_eq_true_eq] at h ⊢ <;> omega

section
variable {a b : Nat} (ha : a < 2 ^ 32) (hb : b < 2 ^ 32)
include ha hb

theorem f32_lt_of_fin (hfa : codeMag a < 0x7F800000) (hfb : codeMag b < 0x7F800000) :
    (f32 a).lt (f32 b) = decide (codeVal a < codeVal b) := by
  obtain ⟨m, e, hx, he, hm⟩ := f32_of_fin ha hfa
  obtain ⟨m', e', hy, he', hm'⟩ := f32_of_fin hb hfb
  have hlt : (f32 a).lt (f32 b) = (f32 a).dy.lt (f32 b).dy := by rw [hx, hy]; rfl
  rw [hlt, hx, hy, Dy.lt_eq_at (e := -149) he he', dy_at_units, dy_at_units, hm, hm', decide_eq_decide, codeVal, codeVal]
  have hup := magUnits_lt_iff (n := codeMag a) (k := codeMag b)
  have hdown := magUnits_lt_iff (n := codeMag b) (k := codeMag a)
  have hposa := magUnits_lt_iff (n := 0) (k := codeMag a)
  have hposb := magUnits_lt_iff (n := 0) (k := codeMag b)
  rw [magUnits_zero] at hposa hposb
  cases codeNeg a <;> cases codeNeg b <;> simp only [Bool.false_eq_true, if_true, if_false] <;> omega

theorem f32_lt_of_not_nan (hna : codeNan a = false) (hnb : codeNan b = false) :
    (f32 a).lt (f32 b) = decide (codeVal a < codeVal b) := by
  rcases codeMag_of_not_nan hna with hfa | hia
  · rcases codeMag_of_not_nan hnb with hfb | hib
    · exact f32_lt_of_fin ha hb hfa hfb
    · obtain ⟨m, e, hx, -⟩ := f32_of_fin ha hfa
      rw [hx, f32_of_inf hb hib, decide_codeVal_lt_larger (by omega)]; rfl
  · rcases codeMag_of_not_nan hnb with hfb | hib
    · obtain ⟨m, e, hy, -⟩ := f32_of_fin hb hfb
      rw [hy, f32_of_inf ha hia, decide_codeVal_larger_lt (by omega)]; rfl
    · rw [f32_of_inf ha hia, f32_of_inf hb hib, decide_codeVal_lt_of_eq (by omega) (by omega)]; rfl

/-- The relation of the values, with every comparison to a NaN false. -/
theorem f32_lt : (f32 a).lt (f32 b) = (!unordered a b && decide (codeVal a < codeVal b)) := by
  unfold unordered
  cases hna : codeNan a with
  | true => rw [f32_of_nan ha hna]; rfl
  | false =>
    cases hnb : codeNan b with
    | true => rw [f32_of_nan hb hnb]; cases f32 a <;> rfl
    | false => exact f32_lt_of_not_nan ha hb hna hnb

/-- Values of which neither is below the other are equal. -/
theorem f32_eq_f32 : (f32 a).eq (f32 b) = (!unordered a b && codeVal a == codeVal b) := by
  rw [X.eq, f32_isNan ha, f32_isNan hb, f32_lt ha hb, f32_lt hb ha, unordered_comm b a, ← Bool.not_or]
  unfold unordered
  cases codeNan a || codeNan b
  · rw [Bool.eq_iff_iff]
    simp only [Bool.not_false, Bool.true_and, Bool.and_eq_true, Bool.not_eq_true', decide_eq_false_iff_not, beq_iff_eq]
    omega
  · rfl

theorem f32_ne_f32 : (unordered a b || !(f32 a).eq (f32 b)) = (unordered a b || codeVal a != codeVal b) := by
  rw [f32_eq_f32 ha hb]
  cases unordered a b <;> rfl

theorem f32_not_lt : (!unordered a b && !(f32 b).lt (f32 a)) = (!unordered a b && decide (codeVal a ≤ codeVal b)) := by
  rw [f32_lt hb ha, unordered_comm b a]
  cases unordered a b
  · exact decide_not.symm.trans (decide_eq_decide.mpr Int.not_lt)
  · rfl

/-- Where one of two codes is taken by the order of their values and, between zeros, by sign, it is taken by their keys. -/
theorem picked_eq (max : Bool) :
    (if (decide (codeVal a < codeVal b) || codeVal a == codeVal b && codeNeg a) != max then a else b) =
      if (if max then decide (codeKey b ≤ codeKey a) else decide (codeKey a ≤ codeKey b)) then a else b := by
  by_cases hab : a = b
  · rw [hab, ite_self, ite_self]
  · have hkey : codeKey a ≠ codeKey b := fun hk => hab (codeKey_inj ha hb hk)
    have hpicked : (decide (codeKey a < codeKey b) != max) =
        if max then decide (codeKey b ≤ codeKey a) else decide (codeKey a ≤ codeKey b) := by
      cases max
      · exact (Bool.bne_false _).trans (decide_eq_decide.mpr (by omega))
      · exact (Bool.bne_true _).trans (decide_not.symm.trans (decide_eq_decide.mpr Int.not_lt))
    rw [← decide_codeKey_lt hkey, hpicked]

/-- One of two codes, by their order. -/
theorem minMax_eq (max : Bool) : minMax max a b =
    if codeNan a && codeNan b then 0x7FC00000 else if codeNan a then b else if codeNan b then a
    else if (if max then decide (codeKey b ≤ codeKey a) else decide (codeKey a ≤ codeKey b)) then a else b := by
  unfold minMax
  simp only [unordered, f32_isNan ha, f32_isNan hb, f32_lt ha hb, f32_eq_f32 ha hb]
  cases hna : codeNan a
  · cases codeNan b
    · rw [f32_neg ha hna]; exact picked_eq ha hb max
    · rfl
  · cases codeNan b <;> rfl

end

/-! Sign and class. -/

theorem xor_sign (h : c < 2 ^ 32) : c ^^^ 2 ^ 31 = if codeNeg c then codeMag c else codeMag c + 2 ^ 31 := by
  have hlow : (c ^^^ 2 ^ 31) % 2 ^ 31 = codeMag c := by
    rw [Nat.xor_mod_two_pow, Nat.mod_self, Nat.xor_zero, codeMag]
  have hhigh : (c ^^^ 2 ^ 31) / 2 ^ 31 = c / 2 ^ 31 ^^^ 1 := by
    rw [Nat.xor_div_two_pow, Nat.div_self (Nat.two_pow_pos 31)]
  have hsplit := Nat.div_add_mod (c ^^^ 2 ^ 31) (2 ^ 31)
  rw [hlow, hhigh] at hsplit
  by_cases hneg : 2 ^ 31 ≤ c
  · rw [show c / 2 ^ 31 = 1 by omega, Nat.xor_self, Nat.mul_zero, Nat.zero_add] at hsplit
    rw [codeNeg, if_pos (decide_eq_true hneg), hsplit]
  · rw [show c / 2 ^ 31 = 0 by omega, Nat.zero_xor, Nat.mul_one, Nat.add_comm] at hsplit
    rw [codeNeg, decide_eq_false hneg, if_neg Bool.false_ne_true, hsplit]

/-- Exponent and fraction tell the classes as the magnitude does. -/
theorem floatClass_eq (h : c < 2 ^ 32) : floatClass c =
    if codeNan c then 8
    else if codeMag c = 0x7F800000 then (if codeNeg c then 0 else 7)
    else if codeMag c = 0 then (if codeNeg c then 3 else 4)
    else if codeMag c < 0x800000 then (if codeNeg c then 2 else 5)
    else if codeNeg c then 1 else 6 := by
  have hmag : codeMag c < 2 ^ 31 := Nat.mod_lt _ (by decide)
  simp only [floatClass, testBit_sign h, exponent_eq (c := c), fraction_eq (c := c), codeNan, decide_eq_true_eq]
  by_cases hnan : 0x7F800000 < codeMag c
  · rw [if_pos hnan, if_pos (show codeMag c / 2 ^ 23 = 255 by omega), if_neg (show ¬codeMag c % 2 ^ 23 = 0 by omega)]
  rw [if_neg hnan]
  by_cases hinf : codeMag c = 0x7F800000
  · rw [if_pos hinf, if_pos (show codeMag c / 2 ^ 23 = 255 by omega), if_pos (show codeMag c % 2 ^ 23 = 0 by omega)]
  rw [if_neg hinf, if_neg (show ¬codeMag c / 2 ^ 23 = 255 by omega)]
  by_cases hzero : codeMag c = 0
  · rw [if_pos hzero, if_pos (show codeMag c / 2 ^ 23 = 0 by omega), if_pos (show codeMag c % 2 ^ 23 = 0 by omega)]
  rw [if_neg hzero]
  by_cases hsub : codeMag c < 0x800000
  · rw [if_pos hsub, if_pos (show codeMag c / 2 ^ 23 = 0 by omega), if_neg (show ¬codeMag c % 2 ^ 23 = 0 by omega)]
  · rw [if_neg hsub, if_neg (show ¬codeMag c / 2 ^ 23 = 0 by omega)]

/-! The instructions. -/

theorem fc_lt (e : Env) (x : Src) : e.fc x < 2 ^ 32 := Nat.mod_lt _ (by decide)

theorem fx_eq_fc (e : Env) (x : Src) : e.fx x = f32 (e.fc x) := by rw [Env.fx, Env.fc, f32, f32, Nat.mod_mod]

/-- Settles O5: the values stand in the order of magnitude and sign, which is all that the instructions ask of them. -/
theorem floatOrderSignAndClass : Obligations.FloatOrderSignAndClass := by
  unfold Obligations.FloatOrderSignAndClass
  intro s b m code mag neg nan key val pick
  refine ⟨?fmin, ?fmax, ?fabs, ?fneg, fun _ => ?fcmp, ?fclass⟩
  case fmin => exact (pureG_gives s b _).congr fun e => by rw [minMax_eq (fc_lt e _) (fc_lt e _)]; rfl
  case fmax => exact (pureG_gives s b _).congr fun e => by rw [minMax_eq (fc_lt e _) (fc_lt e _)]; rfl
  case fabs =>
    refine (pureG_gives s b _).congr fun e => ?_
    rw [fx_eq_fc, f32_isNan (fc_lt e _), apply_ite (BitVec.ofNat 64)]; rfl
  case fneg =>
    refine (pureG_gives s b _).congr fun e => ?_
    rw [fx_eq_fc, f32_isNan (fc_lt e _), xor_sign (fc_lt e _), apply_ite (BitVec.ofNat 64)]; rfl
  case fcmp =>
    refine (pureP_gives s b _).congr fun e => ?_
    have ha := fc_lt e b.a
    have hb := fc_lt e b.b
    have hun : ((e.fx b.a).isNan || (e.fx b.b).isNan) = unordered (e.fc b.a) (e.fc b.b) := by
      rw [fx_eq_fc, fx_eq_fc, f32_isNan ha, f32_isNan hb]; rfl
    unfold floatRel
    rw [hun, fx_eq_fc, fx_eq_fc]
    generalize m.cond.toNat = k
    match k with
    | 0 => exact f32_eq_f32 ha hb
    | 1 => exact f32_ne_f32 ha hb
    | 2 => exact f32_lt ha hb
    | 3 => exact f32_not_lt ha hb
    | 4 => exact (f32_lt hb ha).trans (by rw [unordered_comm]; rfl)
    | 5 => rw [unordered_comm]; exact (f32_not_lt hb ha).trans (by rw [unordered_comm]; rfl)
    | 6 | _ + 7 => rfl
  case fclass =>
    refine (pureG_gives s b _).congr fun e => ?_
    rw [floatClass_eq (fc_lt e _)]
    simp only [apply_ite (fun k => BitVec.ofNat 64 (2 ^ k))]
    rfl

end Sys2Proof.Machine
end

section
/-! Float operations and element-wise wide arithmetic: one exact value, one rounding (R151, R155, R156, R160, R161). -/
namespace Sys2Proof.Machine

/-! Scalar operations. -/

/-- A rounded result of an operation, in file g. -/
theorem runG_rounds {s : State} {b : BForm} {r : Rnd} {w v : Env → X × Fl} (h : ∀ e, w e = v e) :
    Computes (.next (s.runG b fun e => e.rndG r (w e))) s b.pn b.pr (oldG b) fun e => roundedG b r e (v e) :=
  (runG_computes s b _).congr fun e => by rw [h]; rfl

theorem frcpX_eq (x : X) : frcpX x = if x.isNan then (.nan, 0) else X.div X.one x := by
  cases x <;> rfl

theorem Dy.at_zero (i e : Int) : Dy.at ⟨0, i⟩ e = 0 := Int.zero_mul _

theorem two_pow_nonneg (k : Nat) : (0 : Int) ≤ 2 ^ k := Int.le_of_lt (Int.pow_pos (by decide))

theorem Dy.floor_zero (i : Int) : Dy.floor ⟨0, i⟩ = 0 := by
  unfold Dy.floor
  split
  · exact Int.zero_mul _
  · exact Int.zero_fdiv _

theorem exp2X_zero (i : Int) : exp2X ⟨0, i⟩ = X.one := by
  have hbig : Dy.lt (dyInt 1000) ⟨0, i⟩ = false := by
    rw [Dy.lt, Dy.at_zero]
    exact decide_eq_false (Int.not_lt.mpr (Int.mul_nonneg (by decide) (two_pow_nonneg _)))
  have hsmall : Dy.lt ⟨0, i⟩ (dyInt (-1000)) = false := by
    rw [Dy.lt, Dy.at_zero]
    exact decide_eq_false (Int.not_lt.mpr (Int.mul_nonpos_of_nonpos_of_nonneg (by decide) (two_pow_nonneg _)))
  have hfrac : (Dy.sub ⟨0, i⟩ (dyInt 0)).isZero = true := by
    rw [show dyInt 0 = ⟨0, 0⟩ from rfl, Dy.sub, show Dy.neg ⟨0, 0⟩ = ⟨0, 0⟩ from rfl, Dy.add, Dy.at_zero, Dy.at_zero]
    rfl
  simp only [exp2X, hbig, hsmall, Dy.floor_zero, hfrac]
  rfl

theorem fex2X_zero (n : Bool) (i : Int) (st : Bool) : fex2X (.fin n 0 i st) = (X.one, 0) := by
  have hdy : (X.fin n 0 i st).dy = ⟨0, i⟩ := by cases n <;> rfl
  exact congrArg (·, 0) (hdy ▸ exp2X_zero i)

theorem div_one_zero (n : Bool) (i : Int) : X.div X.one (.fin n 0 i false) = (.inf n, flDZ) := by cases n <;> rfl

theorem div_one_inf (n : Bool) : X.div X.one (.inf n) = (X.zero n, 0) := by cases n <;> rfl

/-- The low half of a whole code is the code's own low half. -/
theorem setWidth_ofNat_word (c : Nat) : (BitVec.ofNat 64 c).setWidth 32 = BitVec.ofNat 32 c :=
  BitVec.setWidth_ofNat_of_le (by decide) c

/-- Settles O6: each operation rounds once the exact value that the statement names, and the table's rows are cases of that value. -/
theorem floatOperationsRoundOnce : Obligations.FloatOperationsRoundOnce := by
  unfold Obligations.FloatOperationsRoundOnce
  intro s b m on x down
  refine ⟨runG_rounds fun _ => rfl, runG_rounds fun _ => rfl, runG_rounds fun _ => rfl, runG_rounds fun _ => rfl,
    runG_rounds fun _ => frcpX_eq _, runG_rounds fun _ => rfl, runG_rounds fun _ => rfl, runG_rounds fun _ => rfl,
    runG_rounds fun _ => rfl, runG_rounds fun _ => ?itof, ?fcvt, ?ftoi, fun n k i => ?table, rfl, rfl, rfl, rfl⟩
  case itof => unfold itofX; cases m.w <;> cases m.u <;> rfl
  case fcvt => exact runG_computes s b _
  case ftoi => exact (runG_computes s b _).congr fun e => by rw [ftoiRes, setWidth_ofNat_word]; rfl
  case table =>
    refine ⟨div_one_zero n i, rfl, rfl, fex2X_zero .., rfl, div_one_inf n, rfl, rfl, rfl, rfl, fun hk => ?_⟩
    exact ⟨if_neg (Nat.ne_of_gt hk), if_neg (Nat.ne_of_gt hk), if_neg (Nat.ne_of_gt hk)⟩

/-! Wide elements. -/

/-- Element arithmetic with its operands read by name. -/
theorem elementwise_packs (e : Env) (b : BForm) (m : WideMod) (rest : List (Nat × Src)) (f : List X → X × Fl) :
    (e.elementwise m ((0, b.a) :: rest) f).map (resW b) =
      let r := (List.range m.fmt.count).map fun k => f (((0, b.a) :: rest).map fun o => elemVal m.fmt (e.w o.2) k)
      let v := r.map (·.1)
      packedW b m e m.fmt ((0, b.a) :: rest) (if m.sc then chooseScale m.fmt m.p2 v else (e.w b.a).scale) v
        (r.foldl (fun a x => a ||| x.2) 0) :=
  map_checked ..

/-- Settles O7: each instruction is element arithmetic on its checked operands, the first of which gives the scale. -/
theorem wideElementArithmetic : Obligations.WideElementArithmetic := by
  unfold Obligations.WideElementArithmetic
  intro s b m down on ab
  have packs (rest : List (Nat × Src)) (f : Env → List X → X × Fl) :=
    (runW_computes s b fun e => e.elementwise m ((0, b.a) :: rest) (f e)).congr fun e => elementwise_packs e b m rest (f e)
  refine ⟨packs _ _, packs _ _, packs _ _, packs _ _, packs _ _, packs _ _, ?wact⟩
  case wact => exact (runW_computes s b _).congr fun _ => map_checked ..

end Sys2Proof.Machine
end
